-- ==== Sys2Proof/Word.lean ====
section
/-! DEFINITION. The word types of the D9 (00_scope.md R4: bits are numbered from 0, the least significant). -/

namespace Sys2Proof

/-- One byte. -/
abbrev Byte := BitVec 8

/-- A 32-bit word: a scalar register, a lane register, an instruction word (R11, R44). -/
abbrev Word := BitVec 32

/-- A 64-bit value: a register pair, a pointer, a latch (R45, R91, R255). -/
abbrev DWord := BitVec 64

/-- One bit per lane of a gang (R81, R87). -/
abbrev LaneMask := BitVec 96

end Sys2Proof
end

