-- ==== Sys2Proof/Syntax.lean ====
section
/-! DEFINITION. The instructions and device steps of spec/opcode_table.json as one inductive, with the operand
types they use. Register numbers, conditions and modes are constructors or exact-width fields here; the raw
encodings are read in Decode.lean. A pair operand is the number `k` of the even register `2k` (R15, R17). -/

namespace Sys2Proof

/-- A scalar register number, s0 to s63 (R15). -/
abbrev SReg := BitVec 6

/-- A scalar pair `s(2k).d`, by `k` (R15, R45). -/
abbrev Pair := BitVec 5

/-- A condition bit c0 to c7 (R47). -/
abbrev CReg := BitVec 3

/-- A lane predicate p0 to p7 (R89). -/
abbrev PReg := BitVec 3

/-- The eight compare conditions of R18. -/
inductive Cond where
  | eq | ne | ltS | geS | ltZ | geZ | leS | gtS
  deriving DecidableEq, Repr

/-- The special registers of R48. -/
inductive SpecialReg where
  | timeLo | timeHi | live0 | live1 | live2 | fpFlags | gStatus | launchId | tvecLo | tvecHi
  | trapPcLo | trapPcHi | trapCode
  deriving DecidableEq, Repr

/-- The control registers of CSRR and CSRW (R386). -/
inductive ControlReg where
  | admSeq | saves | resumes | lastFault | drainEst | issued | resident
  deriving DecidableEq, Repr

/-- The operations of SATOM, ATOM and ATOML (R71, R243). FADD exists for ATOM and ATOML only. -/
inductive AtomOp where
  | add | and | or | xor | minS | minZ | maxS | maxZ | exch | cas | fadd
  deriving DecidableEq, Repr

/-- A lane source field A, B, C or S (R27). -/
inductive Src where
  | v (i : BitVec 8)
  | o (i : BitVec 3)
  | l (i : BitVec 2)
  | s (i : SReg)
  | lane | gang | crew | pidx
  deriving DecidableEq, Repr

/-- A lane destination field D (R28); `nw` is NW = 1. -/
inductive Dst where
  | v (i : BitVec 8)
  | o (i : BitVec 3)
  | p (i : PReg)
  | s (i : SReg)
  | nw
  deriving DecidableEq, Repr

/-- The second source of an LA instruction: a register source, or imm32 in the I form (R26). -/
inductive Opnd where
  | reg (a : Src)
  | imm (w : Word)
  deriving DecidableEq, Repr

/-- The guard of an LA or LM instruction (R23). -/
structure Guard where
  neg : Bool
  p : PReg
  deriving DecidableEq, Repr

/-- RPT of an LA instruction (R24). -/
inductive Rpt where
  | x1 | x2 | x4
  deriving DecidableEq, Repr

/-- What every LA instruction carries: guard, RPT, destination and latch (R22, R24, R25). -/
structure LaHdr where
  guard : Guard
  rpt : Rpt
  dst : Dst
  lt : BitVec 2
  deriving DecidableEq, Repr

/-- The type field of the float instructions (R119). -/
inductive FType where
  | f32 | f16x2 | bf16x2
  deriving DecidableEq, Repr

/-- The rounding field (R119). -/
inductive Rnd where
  | rn | rz | rd | ru
  deriving DecidableEq, Repr

/-- The conditions of FCMP (R123). -/
inductive FCond where
  | eq | ne | lt | le | gt | ge | un | ord
  deriving DecidableEq, Repr

/-- The type codes of CVT and CVTB (R153). -/
inductive CvtType where
  | f32 | f16 | bf16 | t8 | t6 | s8 | z8 | s16 | z16 | s32 | z32 | f16x2 | bf16x2
  deriving DecidableEq, Repr

/-- The modes of SWZ (R129). -/
inductive SwzMode where
  | pick | slide | turn | flip
  deriving DecidableEq, Repr

/-- The sub-group widths of SWZ (R129). -/
inductive SwzWidth where
  | w2 | w4 | w8 | w16 | w32 | w48 | w96
  deriving DecidableEq, Repr

/-- The modes of POLL (R130); MASK names its word K, 0 to 2. -/
inductive PollMode where
  | someLane | everyLane | mask (k : BitVec 2) | count
  deriving DecidableEq, Repr

/-- The parts of PLINE (R135). -/
inductive LinePart where
  | all | gen | orig | serial
  deriving DecidableEq, Repr

/-- The access sizes of the lane memory instructions (R31). -/
inductive MemSize where
  | b | h | w | d | q
  deriving DecidableEq, Repr

/-- The cache hints of R232. -/
inductive Hint where
  | dflt | stream | keep | noalloc | last
  deriving DecidableEq, Repr

/-- The scale of a lane index (R31). -/
inductive Scale where
  | x1 | x2 | x4 | x8 | x16
  deriving DecidableEq, Repr

/-- The lane address of an LM instruction (R31): scalar base pair, scaled index and displacement, or a lane
pair and displacement. -/
inductive LaneAddr where
  | base (b : Pair) (idx : Src) (scale : Scale) (disp : BitVec 17)
  | pair (a : Src) (disp : BitVec 17)
  deriving DecidableEq, Repr

/-- What an LM instruction with a destination carries (R25, R31). -/
structure LmHdr where
  guard : Guard
  hint : Hint
  addr : LaneAddr
  deriving DecidableEq, Repr

/-- The flag of COPY (R307, R311). -/
inductive CopyFlag where
  | noFlag
  | sem (binder : Pair) (count : SReg)
  | word (ptr : Pair) (value : Pair)
  deriving DecidableEq, Repr

/-- The element formats of the matrix instructions (R319). -/
inductive MxFmt where
  | f16 | bf16 | t8 | t6
  deriving DecidableEq, Repr

/-- The drain formats of MDR (R322). -/
inductive DrainFmt where
  | f32 | f16 | bf16
  deriving DecidableEq, Repr

/-- The selectors of DSTAT (R355), with their registers. -/
inductive DstatSel where
  | seq | state | nplaced | ndrop | nrecv
  | fill (y : SReg)
  | gcount (y z : SReg)
  deriving DecidableEq, Repr

/-- The selectors of PEERQ (R452). -/
inductive PeerSel where
  | state | egress | nextSlot | slots
  deriving DecidableEq, Repr

/-- The scopes of R282. -/
inductive Scope where
  | crew | core | device | system
  deriving DecidableEq, Repr

/-- One condition of WAIT (R220). -/
inductive WaitCond where
  | unused
  | token (k : SReg)
  | sem (p : Pair) (n : BitVec 6)
  | time (p : Pair)
  | bphase (p : Pair) (b : BitVec 1)
  | rnEmpty (k : BitVec 6)
  | rnFull (k : BitVec 6)
  deriving DecidableEq, Repr

/-- The operands of WAIT (R220). -/
structure WaitSpec where
  all : Bool
  consume : Bool
  timeout : Option Pair
  c0 : WaitCond
  c1 : WaitCond
  c2 : WaitCond
  c3 : WaitCond
  deriving DecidableEq, Repr

/-- Why a gang is killed: KIND and REASON of the launch error record (R42). -/
inductive KillReason where
  | encoding | context | role
  deriving DecidableEq, Repr

/-- A crew by its launch's admission sequence number and its index; `twin` marks the secondary of a Plumb
crew (R403). -/
structure CrewRef where
  launch : Nat
  crew : Nat
  twin : Bool
  deriving DecidableEq, Repr

/-- A gang by its crew and its index within the crew (R85). -/
structure GangRef where
  launch : Nat
  crew : Nat
  gang : Nat
  twin : Bool
  deriving DecidableEq, Repr

/-- A register that the scoreboard tracks (R93). -/
inductive RegRef where
  | s (i : SReg)
  | v (i : BitVec 8)
  | o (i : BitVec 3)
  deriving DecidableEq, Repr

/-- The flit types of R435. -/
inductive FlitType where
  | write | read | readResp | atomic | atomResp | ack | mcast | drain | timeSync | key
  | reserved (code : Nat)
  deriving DecidableEq, Repr

/-- A flit: the header fields of R435 and its payload bytes. `tag` names, for a request, the sender's
operation, and for a response or acknowledgement the operation it answers: the manual gives flits no such
field, and the model's own numbering stands for the sender's SEQ bookkeeping. `poison` gives the offsets of payload bytes
that cross marked as poisoned (08 R481), and `offs` those of a write whose bytes do not follow each other in their line. -/
structure Flit where
  dst : Nat
  src : Nat
  type : FlitType
  relay : Bool
  hops : Nat
  bulk : Bool
  iface : Nat
  load : Nat
  seq : Nat
  ptr : DWord
  payload : List Byte
  tag : Nat
  poison : List Nat := []
  offs : List Nat := []
  crossed : Option Nat := none
  deriving DecidableEq, Repr

/-- What boot finds on the package (R421, R468, R475): the live dies and links, the live HBM stacks, the ports that
trained, the ordering code, the device number and the enabled cores of each die. -/
structure BootInfo where
  dieOk : BitVec 4
  linkOk : BitVec 4
  /-- The protocol revisions that each die's root supports; revision 1 where none is listed (R420). -/
  revs : List (List Nat)
  hbmStacks : BitVec 16
  ports : BitVec 16
  ordering : Nat
  device : Nat
  cores : Nat
  /-- The lead built the P and F tables (R421, R468). -/
  tables : Bool
  /-- Sessions keyed with peers, by port (R436, R468). -/
  sessions : List (Nat × Nat)
  /-- Bytes of an egress queue; 0 for 4 MiB (R440). -/
  egressCap : Nat
  /-- TIME of the time base that the boundary clock locks to (R445, R468). -/
  time : Nat := 0
  /-- Dies whose ROM, and links whose roots, fail their verification (R421, R476). -/
  badDies : BitVec 4 := 0#4
  badLinks : BitVec 4 := 0#4
  deriving DecidableEq, Repr

/-- A part of an interface's allocation (R480). -/
inductive AllocPart where
  | granules (first count : Nat)
  | windows (die first count : Nat)
  | pool (pool first count : Nat)
  | host (adapter first count : Nat)
  deriving DecidableEq, Repr

/-- One entry of the multicast group table (R446). -/
structure GroupEntry where
  tree : List Nat
  valid : Bool
  owner : Nat
  dest : DWord
  flag : DWord
  limit : Nat
  deriving DecidableEq, Repr

/-- The rows of spec/opcode_table.json, in its order. -/
inductive Instr where
  -- scalar ALU (R54)
  | add (d a b : SReg)
  | sub (d a b : SReg)
  | mul (d a b : SReg)
  | mulhS (d a b : SReg)
  | mulhZ (d a b : SReg)
  | divS (d a b : SReg)
  | divZ (d a b : SReg)
  | remS (d a b : SReg)
  | remZ (d a b : SReg)
  | minS (d a b : SReg)
  | minZ (d a b : SReg)
  | maxS (d a b : SReg)
  | maxZ (d a b : SReg)
  | addsS (d a b : SReg)
  | addsZ (d a b : SReg)
  | subsS (d a b : SReg)
  | and (d a b : SReg)
  | or (d a b : SReg)
  | xor (d a b : SReg)
  | andn (d a b : SReg)
  | orn (d a b : SReg)
  | xnor (d a b : SReg)
  | shl (d a b : SReg)
  | shr (d a b : SReg)
  | sra (d a b : SReg)
  | rol (d a b : SReg)
  | ror (d a b : SReg)
  | clz (d a : SReg)
  | ctz (d a : SReg)
  | popc (d a : SReg)
  | brev (d a : SReg)
  | bswap (d a : SReg)
  -- bit fields and funnel shifts (R58)
  | bext (d a b c : SReg)
  | bextS (d a b c : SReg)
  | bins (d a b c : SReg)
  | fshL (d a b c : SReg)
  | fshR (d a b c : SReg)
  -- compares, pairs, conditions (R59 to R63)
  | cmp (k : Cond) (c : CReg) (a b : SReg)
  | addD (d a b : Pair)
  | subD (d a b : Pair)
  | shlD (d a : Pair) (b : SReg)
  | shrD (d a : Pair) (b : SReg)
  | sraD (d a : Pair) (b : SReg)
  | mulwS (d : Pair) (a b : SReg)
  | mulwZ (d : Pair) (a b : SReg)
  | cand (d a b : CReg)
  | cor (d a b : CReg)
  | cxor (d a b : CReg)
  | cnot (d a : CReg)
  | ctos (d : SReg)
  | stoc (a : SReg)
  | sel (d : SReg) (k : CReg) (a b : SReg)
  -- immediates (R56, R57, R59, R63)
  | addi (d a : SReg) (i : BitVec 13)
  | andi (d a : SReg) (i : BitVec 13)
  | ori (d a : SReg) (i : BitVec 13)
  | xori (d a : SReg) (i : BitVec 13)
  | shli (d a : SReg) (i : BitVec 6)
  | shri (d a : SReg) (i : BitVec 6)
  | srai (d a : SReg) (i : BitVec 6)
  | muli (d a : SReg) (i : BitVec 13)
  | cmpi (k : Cond) (c : CReg) (a : SReg) (i : BitVec 13)
  | addiD (d a : Pair) (i : BitVec 13)
  | ldhi (d : SReg) (i : BitVec 19)
  | addpc (d : Pair) (i : BitVec 19)
  | getsr (d : SReg) (n : SpecialReg)
  | setsr (n : SpecialReg) (a : SReg)
  | leaD (d a : Pair) (b : SReg) (k : BitVec 3)
  -- branches (R64 to R68)
  | bc (c : CReg) (o : BitVec 19)
  | bcN (c : CReg) (o : BitVec 19)
  | bm (o : BitVec 19)
  | bmN (o : BitVec 19)
  | bany (p : PReg) (o : BitVec 19)
  | banyN (p : PReg) (o : BitVec 19)
  | ball (p : PReg) (o : BitVec 19)
  | ballN (p : PReg) (o : BitVec 19)
  | jmp (o : BitVec 25)
  | call (o : BitVec 25)
  | jmpr (a : Pair)
  | callr (a : Pair)
  | ret
  | loop (k : BitVec 5) (o : BitVec 19)
  -- scalar memory (R69 to R71)
  | sldBS (t : SReg) (b : Pair) (i : BitVec 14)
  | sldBZ (t : SReg) (b : Pair) (i : BitVec 14)
  | sldHS (t : SReg) (b : Pair) (i : BitVec 14)
  | sldHZ (t : SReg) (b : Pair) (i : BitVec 14)
  | sldW (t : SReg) (b : Pair) (i : BitVec 14)
  | sldD (t : Pair) (b : Pair) (i : BitVec 14)
  | sstB (t : SReg) (b : Pair) (i : BitVec 14)
  | sstH (t : SReg) (b : Pair) (i : BitVec 14)
  | sstW (t : SReg) (b : Pair) (i : BitVec 14)
  | sstD (t : Pair) (b : Pair) (i : BitVec 14)
  | satom (f : AtomOp) (d : SReg) (a : Pair) (b : SReg)
  -- traps and yielding (R73, R74)
  | trap (i : BitVec 19)
  | brk (i : BitVec 19)
  | yield
  -- the kill of an illegal instruction (R39)
  | illegalInstruction (why : KillReason)
  -- lane integer (R111 to R118)
  | iadd (h : LaHdr) (a : Src) (b : Opnd)
  | isub (h : LaHdr) (a : Src) (b : Opnd)
  | imul (h : LaHdr) (a : Src) (b : Opnd)
  | imulh (h : LaHdr) (z : Bool) (a : Src) (b : Opnd)
  | imad (h : LaHdr) (a b c : Src)
  | imadw (h : LaHdr) (z : Bool) (a b c : Src)
  | imin (h : LaHdr) (z : Bool) (a : Src) (b : Opnd)
  | imax (h : LaHdr) (z : Bool) (a : Src) (b : Opnd)
  | iabs (h : LaHdr) (a : Src)
  | iadds (h : LaHdr) (z : Bool) (a : Src) (b : Opnd)
  | isubs (h : LaHdr) (z : Bool) (a : Src) (b : Opnd)
  | idot4 (h : LaHdr) (za zb : Bool) (a b c : Src)
  | iand (h : LaHdr) (a : Src) (b : Opnd)
  | ior (h : LaHdr) (a : Src) (b : Opnd)
  | ixor (h : LaHdr) (a : Src) (b : Opnd)
  | iandn (h : LaHdr) (a : Src) (b : Opnd)
  | ibool3 (h : LaHdr) (a b c : Src) (tt : BitVec 8)
  | ishl (h : LaHdr) (a : Src) (b : Opnd)
  | ishr (h : LaHdr) (a : Src) (b : Opnd)
  | isra (h : LaHdr) (a : Src) (b : Opnd)
  | irol (h : LaHdr) (a : Src) (b : Opnd)
  | ifsh (h : LaHdr) (right : Bool) (a b c : Src)
  | ibext (h : LaHdr) (sg : Bool) (a : Src) (b : Opnd)
  | ibins (h : LaHdr) (a b c : Src)
  | iperm (h : LaHdr) (a b c : Src)
  | iclz (h : LaHdr) (a : Src)
  | ictz (h : LaHdr) (a : Src)
  | ipopc (h : LaHdr) (a : Src)
  | ibrev (h : LaHdr) (a : Src)
  | icmp (h : LaHdr) (k : Cond) (a : Src) (b : Opnd)
  | laneSel (h : LaHdr) (neg : Bool) (k : PReg) (a : Src) (b : Opnd)
  | iaddD (h : LaHdr) (a : Src) (b : Opnd)
  | isubD (h : LaHdr) (a : Src) (b : Opnd)
  | ileaD (h : LaHdr) (z : Bool) (k : BitVec 3) (a : Src) (b : Opnd)
  -- lane floating point (R119 to R126)
  | fadd (h : LaHdr) (t : FType) (r : Rnd) (a : Src) (b : Opnd)
  | fsub (h : LaHdr) (t : FType) (r : Rnd) (a : Src) (b : Opnd)
  | fmul (h : LaHdr) (t : FType) (r : Rnd) (a : Src) (b : Opnd)
  | ffma (h : LaHdr) (t : FType) (r : Rnd) (np nc : Bool) (a b c : Src)
  | fmin (h : LaHdr) (t : FType) (a : Src) (b : Opnd)
  | fmax (h : LaHdr) (t : FType) (a : Src) (b : Opnd)
  | fcmp (h : LaHdr) (t : FType) (k : FCond) (a : Src) (b : Opnd)
  | fclass (h : LaHdr) (t : FType) (a : Src)
  | fdot2 (h : LaHdr) (bf : Bool) (r : Rnd) (a b c : Src)
  | frcp (h : LaHdr) (a : Src)
  | frsq (h : LaHdr) (a : Src)
  | fsqrt (h : LaHdr) (a : Src)
  | fex2 (h : LaHdr) (a : Src)
  | flg2 (h : LaHdr) (a : Src)
  | fsin (h : LaHdr) (a : Src)
  | fcos (h : LaHdr) (a : Src)
  | ftanh (h : LaHdr) (a : Src)
  -- conversions (R153 to R155)
  | cvt (h : LaHdr) (dst src : CvtType) (r : Rnd) (e1 : Bool) (a b : Src)
  | cvtbApply (h : LaHdr) (dst src : CvtType) (r : Rnd) (a : Src) (b : Opnd)
  | cvtbScale (h : LaHdr) (dst : CvtType) (a : Src)
  -- moves and cross-lane (R128 to R135)
  | mov (h : LaHdr) (a : Opnd)
  | swz (h : LaHdr) (m : SwzMode) (w : SwzWidth) (a : Src) (b : Opnd)
  | poll (h : LaHdr) (m : PollMode) (a : Src)
  | lread (h : LaHdr) (a : Src) (b : Opnd)
  | lwrite (h : LaHdr) (a : Src) (b : Opnd)
  | plog (h : LaHdr) (pa pb pc : PReg) (tt : BitVec 8)
  | pmovP (h : LaHdr)
  | pmovU (h : LaHdr) (mask : BitVec 7) (a : Src)
  | pline (h : LaHdr) (part : LinePart)
  -- lane memory (R234 to R250)
  | ld (h : LmHdr) (size : MemSize) (signed : Bool) (d : Dst) (lt : BitVec 2)
  | st (h : LmHdr) (size : MemSize) (src : Src)
  | ldf (h : LmHdr) (pos : BitVec 2) (d : Dst) (lt : BitVec 2)
  | stf (h : LmHdr) (pos : BitVec 2) (src : Src)
  | atom (h : LmHdr) (op : AtomOp) (size : MemSize) (d : Dst) (lt : BitVec 2) (src : Src)
  | ldl (h : LmHdr) (size : MemSize) (signed : Bool) (d : Dst) (lt : BitVec 2)
  | stl (h : LmHdr) (size : MemSize) (src : Src)
  | atoml (h : LmHdr) (op : AtomOp) (size : MemSize) (d : Dst) (lt : BitVec 2) (src : Src)
  | ldx (h : LmHdr) (size : MemSize) (src : Src) (bar : Pair)
  | prf (h : LmHdr)
  -- engines (R307 to R355)
  | copy (shadow : Bool) (hint : Hint) (flag : CopyFlag) (t : SReg) (x y : Pair)
  | publish (t : SReg) (x : Pair)
  | mls (arr : BitVec 2) (fmt : MxFmt) (t : SReg) (x : Pair)
  | msw (arr : BitVec 2) (t : SReg)
  | mst (arr : BitVec 2) (acc : BitVec 3) (neg ovw : Bool) (fmt : MxFmt) (t : SReg) (x : Pair) (row : BitVec 6)
  | mdr (arr : BitVec 2) (acc : BitVec 3) (add shadow : Bool) (df : DrainFmt) (t : SReg) (x : Pair) (row : BitVec 6)
  | mza (arr : BitVec 2) (acc : BitVec 3) (t : SReg)
  | mred (arr : BitVec 2) (acc : BitVec 3) (neg ovw : Bool) (fmt : MxFmt) (t : SReg) (x : Pair) (row : BitVec 6)
  | dcnt (t : SReg) (x : Pair)
  | dplan (t : SReg) (x : Pair)
  | dscat (t : SReg) (x : Pair)
  | dgath (t : SReg) (x : Pair)
  | dstat (sel : DstatSel) (t : SReg) (x : Pair)
  | resamp (t x : SReg) (w : Src)
  | pseed (t : SReg) (x y : Pair)
  | pseedDirect (t x : SReg)
  | mcast (ack : Bool) (t x y z w : SReg)
  | rack (t : SReg)
  | rackDev (t x : SReg)
  | peerq (sel : PeerSel) (t x : SReg)
  | locq (t : SReg) (x : Pair)
  | locqSelf (t : SReg)
  -- synchronisation and system (R215 to R221, R248, R252, R295 to R302, R385 to R387, R401 to R413)
  | bind (t : SReg) (x y z : Pair)
  | unbind (t : SReg) (x y : Pair)
  | acq (t : SReg) (x : Pair) (timeout : Option Pair)
  | acqObs (t : SReg) (x : Pair)
  | rel (t : SReg) (x : Pair)
  | fence (scope : Scope)
  | seal (t : SReg) (x : Pair) (y : SReg)
  | unseal (t : SReg) (x : Pair) (y : SReg)
  | arrive (t : SReg) (x : Pair)
  | bar (t : SReg) (k : BitVec 2)
  | wait (t : SReg) (w : WaitSpec)
  | semp (t : SReg) (x : Pair) (y : SReg)
  | rpush (t : SReg) (k : BitVec 2) (x : Pair)
  | rtake (t : SReg) (x : Pair)
  | rft
  | csrr (t : Pair) (n : ControlReg)
  | csrw (n : ControlReg) (x : Pair)
  | haltg
  | swapk (t : SReg) (x : Pair) (y : SReg) (z : Pair)
  | snap (t x : SReg)
  | txb (t : SReg)
  | txc (t : SReg)
  | txa (t : SReg)
  -- steps of the pipes, the command processor and the waits
  | issueSelection (core pipe : Nat)
  | promotion (g : GangRef)
  | dataReturn (g : GangRef) (r : RegRef)
  | doorbell (iface queue : Nat) (v : Word)
  | qcmdWrite (iface : Nat)
  | qcmdRead (iface : Nat)
  | dequeue (iface queue : Nat)
  | crewPlacement (launch : Nat) (cores : List Nat)
  | timedStart (launch : Nat)
  | watchdog (launch : Nat)
  | launchEnd (launch : Nat)
  | graphNodeDequeue (graph node : Nat)
  | waitRound (g : GangRef)
  | waitTimeout (g : GangRef)
  | acqRetry (g : GangRef)
  | acqTimeout (g : GangRef)
  -- steps of the engines
  | ldxByteLanding (op : Nat)
  | copyCompletion (op : Nat)
  | publishToggle (op : Nat)
  | arrayStateSwap (core : Nat) (c : CrewRef)
  | mlsFill (op : Nat)
  | mswExchange (op : Nat)
  | mstPass (op : Nat) (residue : Bool)
  | mredPass (op : Nat) (residue : Bool)
  | mzaClear (op : Nat)
  | mdrDrain (op : Nat)
  | mdrCompletion (op : Nat)
  | dplanCountsArrived (op : Nat)
  | dplanInvtagsArrived (op : Nat)
  | dscatScatbAddition (op : Nat)
  | dgathGathtagsArrived (op : Nat)
  | collectivePerformance (launch : Nat)
  -- steps of translation, windows and the fault queue
  | quiesce (id : Nat)
  | ltcmdWriteEntry (iface : Nat)
  | ltcmdReadEntry (iface : Nat)
  | ltcmdWritePageMap (iface : Nat)
  | windowCarve (iface die first count : Nat)
  | faultRecordWrite (iface : Nat)
  | fqcmdResume (iface first count : Nat)
  | fqcmdFail (iface first : Nat)
  | fqctlWrite (iface : Nat) (v : DWord)
  | fqbaseWrite (iface : Nat) (v : DWord)
  | fqnotifyWrite (iface : Nat) (v : DWord)
  -- recovery, pre-emption, snapshots
  | rollback (launch : Nat) (pass : Bool)
  | preemption (c : CrewRef) (bound : Nat)
  | save (c : CrewRef)
  | crewResumption (launch : Nat) (places : List (Nat × Nat))
  | drainBoundExpiry (c : CrewRef)
  | transactionPhase2 (g : GangRef)
  | snapcmdRestore (iface name : Nat)
  | snapcmdFree (iface name : Nat)
  -- dies and counters
  | linkError (link : Nat)
  | linkLost (link : Nat)
  | dieFailure (die : Nat)
  | ctrclr (iface : Nat) (v : DWord)
  -- the Roller
  | slotBoundary (port : Nat) (peerEntry : Word)
  | writeFlit (f : Flit)
  | readFlit (f : Flit)
  | readrespFlit (f : Flit)
  | atomicFlit (f : Flit) (op : AtomOp) (size : MemSize)
  | atomrespFlit (f : Flit)
  | ackFlit (f : Flit) (code : Byte)
  | mcastFlit (f : Flit) (tree : List Nat) (offset : Nat)
  | drainFlit (f : Flit) (port : Nat)
  | timesyncFlit (f : Flit) (slew : Int)
  | keyFlit (f : Flit) (port : Nat)
  | rekey (port : Nat)
  | heaterEndOfRange (port colour : Nat)
  | colourRelock (port colour : Nat)
  | coalescerTimeout (core : Nat)
  | relayFlitForward (index : Nat)
  | egressQueueSend (dev port : Nat)
  | egressSpaceFreed (g : GangRef)
  | poolRateWindow (pool : Nat)
  | timeBaseLost
  | peerSuspect (dev : Nat)
  | rcctlArm (v : DWord)
  | rcctlCancel
  | reconfigurationT
  | switchBoundary (port : Nat)
  | darkEnd (port : Nat)
  | relockComplete (port : Nat)
  | relockTimeout (port : Nat)
  -- bring-up, power, debug
  | packageReset (boot : BootInfo)
  | packagePowerLoss
  | idleEntry
  | parkedRequest
  | activeWake
  | powerCapWindow (watts : Nat)
  | thermalStepDown (die : Nat) (hbm : Bool) (reading : Nat)
  | thermtrip (die : Nat) (hbm : Bool) (reading : Nat)
  | dbgctlHalt (iface : Nat) (lid : Word)
  | dbgctlRun (iface : Nat) (lid : Word)
  -- remaining steps
  | registerWrite (iface offset : Nat) (v : DWord)
  | writePerformed (id : Nat)
  | operationCompletion (op : Nat)
  | slotGuard (port : Nat)
  | flitDiscarded (port : Nat) (f : Flit)
  | relayTransit (f : Flit)
  | fabricPathFailure (dev : Nat)
  | windowReturn (iface die first count : Nat)
  | interfaceControlWrite (iface : Nat) (create : Bool) (ctl : BitVec 128)
  | allocationChange (iface : Nat) (grow : Bool) (part : AllocPart)
  | groupTableWrite (index : Nat) (e : GroupEntry)
  | thermalRelease (die : Nat) (hbm : Bool) (reading : Nat)
  deriving DecidableEq, Repr

end Sys2Proof
end

