-- ==== Sys2Proof/WellFormed.lean ====
section
/-! DEFINITION. When an instruction is well formed: the encoding rules of 01_instruction_words_and_opcode_map.md (R17,
R21 to R32, R37) and of each instruction's own description that the types of Syntax.lean do not carry already. A broken
rule is named by a `Defect`. What depends on the launch or the gang (declared registers, roles, POPULATION, STAGED) is no
defect of the word: the meanings judge it at issue (R38, R42). -/

namespace Sys2Proof

/-- The encoding rule that an instruction breaks. -/
inductive Defect where
  /-- gp = 0 with gn = 1 (R23). -/
  | guardNeverTrue
  /-- p0 as a destination (R28). -/
  | destinationP0
  /-- A scalar destination outside POLL and LREAD (R28, R108). -/
  | scalarDestination
  /-- A destination space the instruction does not allow (R29, R108, R235). -/
  | destinationSpace
  /-- A pair or quad operand that starts on the wrong register (R29, R31, R106, R108, R235). -/
  | misalignedRegister
  /-- A stepped index passes o7 or v255 (R29). -/
  | repetitionRange
  /-- RPT on an instruction that has no repeated form (R29, R110). -/
  | repetitionNotAllowed
  /-- A source that the instruction does not allow (R131, R235, R363). -/
  | sourceSpace
  /-- A source or field that is not used and is not zero (R17, R27, R32). -/
  | unusedNotZero
  /-- A shift code of LEA.D, ILEA.D above 4 (R21, R118). -/
  | shiftCode
  /-- A mode, size, type, rounding or function code the instruction does not have. -/
  | selector
  /-- LOOP with sel = 0 (R21). -/
  | loopCounterZero
  /-- JMPR s62.d is RET (R21). -/
  | retSpelling
  /-- SETSR of a read-only register, CSRW of a read-only register (R21, R386). -/
  | readOnlyRegister
  /-- A token register that is not allowed (R307, R323, R347, R363, R372, R424, R448, R451, R452). -/
  | tokenRegister
  /-- CAS with NW = 1 (R243). -/
  | casWithoutDestination
  /-- A cache hint on a scratchpad-offset form (R244). -/
  | hintNotAllowed
  /-- WAIT with no condition, a bad immediate or a CONSUME that is not allowed (R220). -/
  | waitOperands
  deriving DecidableEq, Repr

/-- No defect when `b` holds, else `d`. -/
def need (b : Bool) (d : Defect) : Option Defect :=
  if b then none else some d

/-! ### Operand checks -/

/-- gp = 0 with gn = 1 is illegal (R23). -/
def Guard.defect (g : Guard) : Option Defect :=
  need (!(g.neg && g.p == 0#3)) .guardNeverTrue

/-- The number of registers a repeated form steps through (R24, R29). -/
def Rpt.count : Rpt → Nat
  | .x1 => 1
  | .x2 => 2
  | .x4 => 4

/-- A stepped v or o source stays below its space's end (R29). -/
def Src.inRange (r : Rpt) : Src → Bool
  | .v i => i.toNat + r.count ≤ 256
  | .o i => i.toNat + r.count ≤ 8
  | .l _ | .s _ | .lane | .gang | .crew | .pidx => true

/-- A stepped v or o destination stays below its space's end; p and s have no repeated form (R29). -/
def Dst.rptDefect (r : Rpt) : Dst → Option Defect
  | .v i => need (i.toNat + r.count ≤ 256) .repetitionRange
  | .o i => need (i.toNat + r.count ≤ 8) .repetitionRange
  | .p _ | .s _ => need (r == .x1) .destinationSpace
  | .nw => none

def Src.rptDefect (r : Rpt) (a : Src) : Option Defect :=
  need (a.inRange r) .repetitionRange

def Opnd.rptDefect (r : Rpt) : Opnd → Option Defect
  | .reg a => a.rptDefect r
  | .imm _ => none

/-- A 64-bit LA source: v, o and scalar registers are even (R106). An odd number of x space that names no register, 65 or 67, is legal
(log entry 118). -/
def Src.pairDefect : Src → Option Defect
  | .v i => need (i.getLsbD 0 == false) .misalignedRegister
  | .o i => need (i.getLsbD 0 == false) .misalignedRegister
  | .s i => need (i.getLsbD 0 == false) .misalignedRegister
  | .l _ | .lane | .gang | .crew | .pidx => none

def Opnd.pairDefect : Opnd → Option Defect
  | .reg a => a.pairDefect
  | .imm _ => none

/-- The destinations of a 32-bit LA result: v, o, p1 to p7 or none (R28, R108). -/
def Dst.lane32Defect : Dst → Option Defect
  | .v _ | .o _ | .nw => none
  | .p i => need (i != 0#3) .destinationP0
  | .s _ => some .scalarDestination

/-- The destinations of POLL and LREAD, which may also be scalar (R108). -/
def Dst.scalarOkDefect : Dst → Option Defect
  | .v _ | .o _ | .nw | .s _ => none
  | .p i => need (i != 0#3) .destinationP0

/-- The destinations of a 64-bit LA result: an even v or o register, or none (R108). -/
def Dst.lane64Defect : Dst → Option Defect
  | .v i => need (i.getLsbD 0 == false) .misalignedRegister
  | .o i => need (i.getLsbD 0 == false) .misalignedRegister
  | .nw => none
  | .p _ | .s _ => some .destinationSpace

/-- Guard, destination and repetition of a 32-bit LA instruction that may repeat. -/
def LaHdr.defect (h : LaHdr) : Option Defect :=
  (h.guard.defect.or h.dst.lane32Defect).or (h.dst.rptDefect h.rpt)

/-- Guard and destination of a 32-bit LA instruction without a repeated form. -/
def LaHdr.defectX1 (h : LaHdr) : Option Defect :=
  (h.guard.defect.or h.dst.lane32Defect).or (need (h.rpt == .x1) .repetitionNotAllowed)

/-- Guard and destination of a 64-bit LA instruction, which has no repeated form. -/
def LaHdr.defect64 (h : LaHdr) : Option Defect :=
  (h.guard.defect.or h.dst.lane64Defect).or (need (h.rpt == .x1) .repetitionNotAllowed)

/-- Guard and destination of POLL and LREAD. -/
def LaHdr.defectScalarOk (h : LaHdr) : Option Defect :=
  (h.guard.defect.or h.dst.scalarOkDefect).or (need (h.rpt == .x1) .repetitionNotAllowed)

/-- `D, A, B` with 32-bit operands. -/
def laAB (h : LaHdr) (a : Src) (b : Opnd) : Option Defect :=
  (h.defect.or (a.rptDefect h.rpt)).or (b.rptDefect h.rpt)

/-- `D, A, B, C` with 32-bit operands. -/
def laABC (h : LaHdr) (a b c : Src) : Option Defect :=
  ((h.defect.or (a.rptDefect h.rpt)).or (b.rptDefect h.rpt)).or (c.rptDefect h.rpt)

/-- `D, A` with a 32-bit operand. -/
def laA (h : LaHdr) (a : Src) : Option Defect :=
  h.defect.or (a.rptDefect h.rpt)

/-! ### Conversions (R153 to R155) -/

def CvtType.isInt : CvtType → Bool
  | .s8 | .z8 | .s16 | .z16 | .s32 | .z32 => true
  | _ => false

def CvtType.isPacked : CvtType → Bool
  | .f16x2 | .bf16x2 => true
  | _ => false

def CvtType.isTapered : CvtType → Bool
  | .t8 | .t6 => true
  | _ => false

/-- The float types of CVTB APPLY (R155). -/
def CvtType.isBlockFloat : CvtType → Bool
  | .f32 | .f16 | .bf16 => true
  | _ => false

/-- The illegal combinations of CVT (R154). -/
def cvtDefect (dst src : CvtType) (r : Rnd) (e1 : Bool) (b : Src) : Option Defect :=
  ((need (r == .rn || !dst.isTapered) .selector).or
    (need (r == .rn || !(dst.isInt && src.isInt)) .selector)).or
  ((need (!e1 || (src.isPacked && !dst.isPacked)) .selector).or
    (need ((dst.isPacked && !src.isPacked) || b == .v 0#8) .unusedNotZero))

/-- The legal type pairs and roundings of CVTB APPLY (R155). -/
def cvtbDefect (dst src : CvtType) (r : Rnd) : Option Defect :=
  need ((src.isTapered && dst.isBlockFloat) || (src.isBlockFloat && dst.isTapered && r == .rn)) .selector

/-! ### Lane memory (R31, R234 to R250) -/

/-- A register that starts an access of the size: even for D, a multiple of 4 for Q (R31). -/
def MemSize.alignsIndex (sz : MemSize) (n : Nat) : Bool :=
  match sz with
  | .b | .h | .w => true
  | .d => n % 2 == 0
  | .q => n % 4 == 0

/-- The destinations of a load or atomic: v, o or none (R31, R235). -/
def lmDstDefect (sz : MemSize) : Dst → Option Defect
  | .v i => need (sz.alignsIndex i.toNat) .misalignedRegister
  | .o i => need (sz.alignsIndex i.toNat) .misalignedRegister
  | .nw => none
  | .p _ | .s _ => some .destinationSpace

/-- The data sources of a store or atomic (R31, R235). -/
def lmSrcDefect (sz : MemSize) : Src → Option Defect
  | .v i => need (sz.alignsIndex i.toNat) .misalignedRegister
  | .o i => need (sz.alignsIndex i.toNat) .misalignedRegister
  | .l _ => need (sz != .q) .sourceSpace
  | .s i => (need (sz != .q) .sourceSpace).or (need (sz.alignsIndex i.toNat) .misalignedRegister)
  | .lane | .gang | .crew | .pidx =>
    match sz with
    | .b | .h | .w => none
    | .d => some .misalignedRegister
    | .q => some .sourceSpace

/-- With LP = 1 the address is an even v or o pair (R31). -/
def LaneAddr.defect : LaneAddr → Option Defect
  | .base _ _ _ _ => none
  | .pair (.v i) _ => need (i.getLsbD 0 == false) .misalignedRegister
  | .pair (.o i) _ => need (i.getLsbD 0 == false) .misalignedRegister
  | .pair _ _ => some .sourceSpace

def LmHdr.defect (h : LmHdr) : Option Defect :=
  h.guard.defect.or h.addr.defect

/-- The scratchpad-offset forms take no hint (R244). -/
def LmHdr.defectNoHint (h : LmHdr) : Option Defect :=
  h.defect.or (need (h.hint == .dflt) .hintNotAllowed)

/-- LDF and STF have no scale (R240). -/
def LmHdr.defectNoScale (h : LmHdr) : Option Defect :=
  h.defect.or
    (match h.addr with
     | .base _ _ sc _ => need (sc == .x1) .unusedNotZero
     | .pair _ _ => none)

/-- Only B and H loads sign-extend (R31). -/
def signDefect (sz : MemSize) (signed : Bool) : Option Defect :=
  match sz with
  | .b | .h => none
  | .w | .d | .q => need (!signed) .unusedNotZero

/-- Sizes and operations of ATOM and ATOML (R243). -/
def atomDefect (op : AtomOp) (sz : MemSize) (d : Dst) : Option Defect :=
  ((need (sz == .w || sz == .d) .selector).or (need (!(op == .fadd && sz == .d)) .selector)).or
    (need (!(op == .cas && d == .nw)) .casWithoutDestination)

/-! ### Engine and system operands -/

/-- A token register: not s0 and not s56 to s58 (R307). -/
def tokenDefect (t : SReg) : Option Defect :=
  need (!(t == 0#6 || t == 56#6 || t == 57#6 || t == 58#6)) .tokenRegister

/-- A token register that s0 may stand for: not s56 to s58 (R323, R363, R372). -/
def tokenOrNoneDefect (t : SReg) : Option Defect :=
  need (!(t == 56#6 || t == 57#6 || t == 58#6)) .tokenRegister

/-- The weight of RESAMP lies in space v or o (R363). -/
def resampDefect (t : SReg) : Src → Option Defect
  | .v _ | .o _ => tokenOrNoneDefect t
  | .l _ | .s _ | .lane | .gang | .crew | .pidx => some .sourceSpace

def WaitCond.isUsed : WaitCond → Bool
  | .unused => false
  | _ => true

def WaitCond.isSem : WaitCond → Bool
  | .sem _ _ => true
  | _ => false

/-- A SEM condition has n from 1 to 63 (R220). -/
def WaitCond.defect : WaitCond → Option Defect
  | .sem _ n => need (n != 0#6) .waitOperands
  | _ => none

def WaitSpec.conds (w : WaitSpec) : List WaitCond :=
  [w.c0, w.c1, w.c2, w.c3]

/-- The word-only illegal cases of WAIT (R220). -/
def WaitSpec.defect (w : WaitSpec) : Option Defect :=
  (((w.c0.defect.or w.c1.defect).or (w.c2.defect.or w.c3.defect)).or
    (need (w.conds.any WaitCond.isUsed) .waitOperands)).or
  (need (!w.consume || (w.conds.any WaitCond.isSem &&
    (!w.all || (w.conds.filter WaitCond.isSem).length ≤ 1))) .waitOperands)

/-- SETSR may not name TIMELO, TIMEHI and LIVE0 to LIVE2 (R21). -/
def SpecialReg.settable : SpecialReg → Bool
  | .timeLo | .timeHi | .live0 | .live1 | .live2 => false
  | _ => true

/-! ### The instructions -/

/-- The first encoding rule that the instruction breaks, if any. Device steps have no encoding and no defect. Whether LDX.q's S, an
offset that R247 exempts by name from the evenness rule of size D only, must meet the Q-size rules of R31 and R235 is left open: the
model exempts it from these too (log entry 109). -/
def Instr.defect : Instr → Option Defect
  -- scalar
  | .add _ _ _ | .sub _ _ _ | .mul _ _ _ | .mulhS _ _ _ | .mulhZ _ _ _ | .divS _ _ _ | .divZ _ _ _
  | .remS _ _ _ | .remZ _ _ _ | .minS _ _ _ | .minZ _ _ _ | .maxS _ _ _ | .maxZ _ _ _ | .addsS _ _ _
  | .addsZ _ _ _ | .subsS _ _ _ | .and _ _ _ | .or _ _ _ | .xor _ _ _ | .andn _ _ _ | .orn _ _ _
  | .xnor _ _ _ | .shl _ _ _ | .shr _ _ _ | .sra _ _ _ | .rol _ _ _ | .ror _ _ _ | .clz _ _ | .ctz _ _
  | .popc _ _ | .brev _ _ | .bswap _ _ | .bext _ _ _ _ | .bextS _ _ _ _ | .bins _ _ _ _ | .fshL _ _ _ _
  | .fshR _ _ _ _ | .cmp _ _ _ _ | .addD _ _ _ | .subD _ _ _ | .shlD _ _ _ | .shrD _ _ _ | .sraD _ _ _
  | .mulwS _ _ _ | .mulwZ _ _ _ | .cand _ _ _ | .cor _ _ _ | .cxor _ _ _ | .cnot _ _ | .ctos _ | .stoc _
  | .sel _ _ _ _ | .addi _ _ _ | .andi _ _ _ | .ori _ _ _ | .xori _ _ _ | .shli _ _ _ | .shri _ _ _
  | .srai _ _ _ | .muli _ _ _ | .cmpi _ _ _ _ | .addiD _ _ _ | .ldhi _ _ | .addpc _ _ | .getsr _ _ => none
  | .setsr n _ => need n.settable .readOnlyRegister
  | .leaD _ _ _ k => need (k.toNat ≤ 4) .shiftCode
  | .bc _ _ | .bcN _ _ | .bm _ | .bmN _ | .bany _ _ | .banyN _ _ | .ball _ _ | .ballN _ _ | .jmp _ | .call _ => none
  | .jmpr a => need (a != 31#5) .retSpelling
  | .callr _ | .ret => none
  | .loop k _ => need (k != 0#5) .loopCounterZero
  | .sldBS _ _ _ | .sldBZ _ _ _ | .sldHS _ _ _ | .sldHZ _ _ _ | .sldW _ _ _ | .sldD _ _ _ | .sstB _ _ _
  | .sstH _ _ _ | .sstW _ _ _ | .sstD _ _ _ => none
  | .satom f _ _ _ => need (f != .fadd) .selector
  | .trap _ | .brk _ | .yield => none
  | .illegalInstruction _ => none
  -- lane integer
  | .iadd h a b | .isub h a b | .imul h a b | .imulh h _ a b | .imin h _ a b | .imax h _ a b
  | .iadds h _ a b | .isubs h _ a b | .iand h a b | .ior h a b | .ixor h a b | .iandn h a b
  | .ishl h a b | .ishr h a b | .isra h a b | .irol h a b | .ibext h _ a b | .icmp h _ a b
  | .laneSel h _ _ a b => laAB h a b
  | .imad h a b c | .idot4 h _ _ a b c | .ibool3 h a b c _ | .ifsh h _ a b c | .ibins h a b c
  | .iperm h a b c => laABC h a b c
  | .iabs h a | .iclz h a | .ictz h a | .ipopc h a | .ibrev h a => laA h a
  | .imadw h _ _ _ c => h.defect64.or c.pairDefect
  | .iaddD h a b | .isubD h a b => (h.defect64.or a.pairDefect).or b.pairDefect
  | .ileaD h _ k a _ => (h.defect64.or a.pairDefect).or (need (k.toNat ≤ 4) .shiftCode)
  -- lane floating point
  | .fadd h _ _ a b | .fsub h _ _ a b | .fmul h _ _ a b | .fmin h _ a b | .fmax h _ a b
  | .fcmp h _ _ a b => laAB h a b
  | .ffma h _ _ _ _ a b c | .fdot2 h _ _ a b c => laABC h a b c
  | .fclass h _ a | .frcp h a | .frsq h a | .fsqrt h a | .fex2 h a | .flg2 h a | .fsin h a | .fcos h a
  | .ftanh h a => laA h a
  -- conversions
  | .cvt h dst src r e1 a b => ((laA h a).or (b.rptDefect h.rpt)).or (cvtDefect dst src r e1 b)
  | .cvtbApply h dst src r a b => (laAB h a b).or (cvtbDefect dst src r)
  | .cvtbScale h dst a => (laA h a).or (need dst.isTapered .selector)
  -- moves and cross-lane
  | .mov h a => h.defect.or (a.rptDefect h.rpt)
  | .swz h _ _ a b => laAB h a b
  | .poll h m _ => h.defectScalarOk.or (match m with
      | .mask k => need (k != 3#2) .selector
      | .someLane | .everyLane | .count => none)
  | .lread h _ b => h.defectScalarOk.or (match b with
      | .reg (.s _) | .imm _ => none
      | .reg _ => some .sourceSpace)
  | .lwrite h _ b => h.defectX1.or (match b with
      | .reg (.s _) | .imm _ => none
      | .reg _ => some .sourceSpace)
  | .plog h _ _ _ _ => h.defectX1
  | .pmovP h => h.defectX1
  | .pmovU h _ _ => h.defectX1.or (need (h.dst == .nw) .destinationSpace)
  | .pline h part => match part with
      | .all => h.defect64
      | .gen | .orig | .serial => h.defectX1
  -- lane memory
  | .ld h sz sg d _ => (h.defect.or (signDefect sz sg)).or (lmDstDefect sz d)
  | .st h sz src => h.defect.or (lmSrcDefect sz src)
  | .ldf h _ d _ => h.defectNoScale.or (lmDstDefect .w d)
  | .stf h _ src => h.defectNoScale.or (lmSrcDefect .w src)
  | .atom h op sz d _ src => ((h.defect.or (atomDefect op sz d)).or (lmDstDefect sz d)).or (lmSrcDefect sz src)
  | .ldl h sz sg d _ => (h.defectNoHint.or (signDefect sz sg)).or (lmDstDefect sz d)
  | .stl h sz src => h.defectNoHint.or (lmSrcDefect sz src)
  | .atoml h op sz d _ src =>
    ((h.defectNoHint.or (atomDefect op sz d)).or (lmDstDefect sz d)).or (lmSrcDefect sz src)
  | .ldx h _ _ _ => h.defect
  | .prf h => h.defect
  -- engines
  | .copy _ _ _ t _ _ => tokenDefect t
  | .publish t _ => tokenDefect t
  | .mls _ _ t _ | .msw _ t | .mza _ _ t => tokenOrNoneDefect t
  | .mst _ _ _ _ _ t _ _ => tokenOrNoneDefect t
  | .mdr _ _ ad _ df t _ _ => (tokenDefect t).or (need (!ad || df == .f32) .selector)
  | .mred _ _ _ _ _ t _ _ => tokenDefect t
  | .dcnt t _ | .dplan t _ | .dscat t _ | .dgath t _ | .dstat _ t _ => tokenDefect t
  | .resamp t _ w => resampDefect t w
  | .pseed t _ _ | .pseedDirect t _ => tokenOrNoneDefect t
  | .mcast _ t _ _ _ _ => tokenDefect t
  | .rack t | .rackDev t _ | .peerq _ t _ | .locq t _ | .locqSelf t => tokenDefect t
  -- system
  | .bind _ _ _ _ | .unbind _ _ _ | .acq _ _ _ | .acqObs _ _ | .rel _ _ | .fence _ | .seal _ _ _
  | .unseal _ _ _ | .arrive _ _ | .bar _ _ => none
  | .wait _ w => w.defect
  | .semp _ _ _ | .rpush _ _ _ | .rtake _ _ | .rft | .csrr _ _ => none
  | .csrw n _ => need (n == .drainEst) .readOnlyRegister
  | .haltg | .swapk _ _ _ _ | .snap _ _ | .txb _ | .txc _ | .txa _ => none
  -- device steps
  | .issueSelection _ _ | .promotion _ | .dataReturn _ _ | .doorbell _ _ _ | .qcmdWrite _ | .qcmdRead _
  | .dequeue _ _ | .crewPlacement _ _ | .timedStart _ | .watchdog _ | .launchEnd _ | .graphNodeDequeue _ _
  | .waitRound _ | .waitTimeout _ | .acqRetry _ | .acqTimeout _ | .ldxByteLanding _ | .copyCompletion _
  | .publishToggle _ | .arrayStateSwap _ _ | .mlsFill _ | .mswExchange _ | .mstPass _ _ | .mredPass _ _
  | .mzaClear _ | .mdrDrain _ | .mdrCompletion _ | .dplanCountsArrived _ | .dplanInvtagsArrived _
  | .dscatScatbAddition _ | .dgathGathtagsArrived _ | .collectivePerformance _ | .quiesce _
  | .ltcmdWriteEntry _ | .ltcmdReadEntry _ | .ltcmdWritePageMap _ | .windowCarve _ _ _ _
  | .faultRecordWrite _ | .fqcmdResume _ _ _ | .fqcmdFail _ _ | .fqctlWrite _ _ | .fqbaseWrite _ _
  | .fqnotifyWrite _ _ | .rollback _ _ | .preemption _ _ | .save _ | .crewResumption _ _
  | .drainBoundExpiry _ | .transactionPhase2 _ | .snapcmdRestore _ _ | .snapcmdFree _ _ | .linkError _
  | .linkLost _ | .dieFailure _ | .ctrclr _ _ | .slotBoundary _ _ | .writeFlit _ | .readFlit _
  | .readrespFlit _ | .atomicFlit _ _ _ | .atomrespFlit _ | .ackFlit _ _ | .mcastFlit _ _ _ | .drainFlit _ _
  | .timesyncFlit _ _ | .keyFlit _ _ | .rekey _ | .heaterEndOfRange _ _ | .colourRelock _ _
  | .coalescerTimeout _ | .relayFlitForward _ | .egressQueueSend _ _ | .egressSpaceFreed _
  | .poolRateWindow _ | .timeBaseLost | .peerSuspect _ | .rcctlArm _ | .rcctlCancel | .reconfigurationT
  | .switchBoundary _ | .darkEnd _ | .relockComplete _ | .relockTimeout _ | .packageReset _
  | .packagePowerLoss | .idleEntry | .parkedRequest | .activeWake | .powerCapWindow _
  | .thermalStepDown _ _ _ | .thermtrip _ _ _ | .dbgctlHalt _ _ | .dbgctlRun _ _ | .registerWrite _ _ _
  | .writePerformed _ | .operationCompletion _ | .slotGuard _ | .flitDiscarded _ _ | .relayTransit _
  | .fabricPathFailure _ | .windowReturn _ _ _ _ | .interfaceControlWrite _ _ _ | .allocationChange _ _ _
  | .groupTableWrite _ _ | .thermalRelease _ _ _ => none

/-- An instruction that breaks no encoding rule. -/
def Instr.wf (i : Instr) : Bool :=
  i.defect == none

end Sys2Proof
end

