-- ==== Sys2Proof/Decode.lean ====
section
/-! DEFINITION. The decoder and the encoder (01_instruction_words_and_opcode_map.md, and the encoding part of each
instruction's description). A word is split into its format's fields once; reserved codes, non-zero unused fields and
broken operand rules are refused by name. The encoder stands after the decoder and follows the same tables. -/

namespace Sys2Proof

/-- Why words are no instruction (R37). All of them are ILLEGAL with reason ENCODING (R42). -/
inductive DecodeError where
  /-- A reserved opcode or op9 (R19, R33 to R36). -/
  | reservedOpcode
  /-- A reserved function, selector, mode, type or size value. -/
  | reservedSelector
  /-- A field or bit that must be zero is not. -/
  | reservedNotZero
  /-- An index outside its space (R27, R28). -/
  | badIndex
  /-- An odd register where a pair is required (R17). -/
  | oddPair
  /-- RPT = 11, or a repeated or immediate form where none exists (R24, R107). -/
  | formNotAllowed
  /-- The fields parse, and the instruction breaks a rule of WellFormed.lean. -/
  | illFormed (d : Defect)
  /-- A number of words that is no instruction. -/
  | wrongLength
  deriving DecidableEq, Repr

/-- The result of reading an instruction or a part of one. -/
abbrev Parse (α : Type) := Except DecodeError α

/-- `k` when a field that must be zero is zero. -/
def zeroThen {n : Nat} {α : Type} (x : BitVec n) (k : Parse α) : Parse α :=
  if x = 0#n then k else .error .reservedNotZero

/-! ### The fields of each format -/

/-- Format SR, without bit 31 (R15). -/
structure FmtR where
  op : BitVec 6
  sd : BitVec 6
  sa : BitVec 6
  sb : BitVec 6
  fn : BitVec 7
  deriving DecidableEq, Repr

/-- The word with these fields. -/
def FmtR.pack (f : FmtR) : BitVec 32 :=
  0#1 ++ (f.op ++ (f.sd ++ (f.sa ++ (f.sb ++ (f.fn)))))

/-- The fields of a word. -/
def FmtR.unpack (w : BitVec 32) : FmtR :=
  { op := w.extractLsb' 25 6, sd := w.extractLsb' 19 6, sa := w.extractLsb' 13 6, sb := w.extractLsb' 7 6, fn := w.extractLsb' 0 7 }

/-- Format SQ (R15). -/
structure FmtQ where
  op : BitVec 6
  sd : BitVec 6
  sa : BitVec 6
  sb : BitVec 6
  sc : BitVec 6
  v : BitVec 1
  deriving DecidableEq, Repr

/-- The word with these fields. -/
def FmtQ.pack (f : FmtQ) : BitVec 32 :=
  0#1 ++ (f.op ++ (f.sd ++ (f.sa ++ (f.sb ++ (f.sc ++ (f.v))))))

/-- The fields of a word. -/
def FmtQ.unpack (w : BitVec 32) : FmtQ :=
  { op := w.extractLsb' 25 6, sd := w.extractLsb' 19 6, sa := w.extractLsb' 13 6, sb := w.extractLsb' 7 6, sc := w.extractLsb' 1 6, v := w.extractLsb' 0 1 }

/-- Format SI (R15). -/
structure FmtI where
  op : BitVec 6
  sd : BitVec 6
  sa : BitVec 6
  imm : BitVec 13
  deriving DecidableEq, Repr

/-- The word with these fields. -/
def FmtI.pack (f : FmtI) : BitVec 32 :=
  0#1 ++ (f.op ++ (f.sd ++ (f.sa ++ (f.imm))))

/-- The fields of a word. -/
def FmtI.unpack (w : BitVec 32) : FmtI :=
  { op := w.extractLsb' 25 6, sd := w.extractLsb' 19 6, sa := w.extractLsb' 13 6, imm := w.extractLsb' 0 13 }

/-- Format SU (R15). -/
structure FmtU where
  op : BitVec 6
  sd : BitVec 6
  imm : BitVec 19
  deriving DecidableEq, Repr

/-- The word with these fields. -/
def FmtU.pack (f : FmtU) : BitVec 32 :=
  0#1 ++ (f.op ++ (f.sd ++ (f.imm)))

/-- The fields of a word. -/
def FmtU.unpack (w : BitVec 32) : FmtU :=
  { op := w.extractLsb' 25 6, sd := w.extractLsb' 19 6, imm := w.extractLsb' 0 19 }

/-- Format SB (R15). -/
structure FmtB where
  op : BitVec 6
  sel : BitVec 5
  n : BitVec 1
  off : BitVec 19
  deriving DecidableEq, Repr

/-- The word with these fields. -/
def FmtB.pack (f : FmtB) : BitVec 32 :=
  0#1 ++ (f.op ++ (f.sel ++ (f.n ++ (f.off))))

/-- The fields of a word. -/
def FmtB.unpack (w : BitVec 32) : FmtB :=
  { op := w.extractLsb' 25 6, sel := w.extractLsb' 20 5, n := w.extractLsb' 19 1, off := w.extractLsb' 0 19 }

/-- Format SJ (R15). -/
structure FmtJ where
  op : BitVec 6
  off : BitVec 25
  deriving DecidableEq, Repr

/-- The word with these fields. -/
def FmtJ.pack (f : FmtJ) : BitVec 32 :=
  0#1 ++ (f.op ++ (f.off))

/-- The fields of a word. -/
def FmtJ.unpack (w : BitVec 32) : FmtJ :=
  { op := w.extractLsb' 25 6, off := w.extractLsb' 0 25 }

/-- Format SM (R15). -/
structure FmtM where
  op : BitVec 6
  st : BitVec 6
  b : BitVec 5
  imm : BitVec 14
  deriving DecidableEq, Repr

/-- The word with these fields. -/
def FmtM.pack (f : FmtM) : BitVec 32 :=
  0#1 ++ (f.op ++ (f.st ++ (f.b ++ (f.imm))))

/-- The fields of a word. -/
def FmtM.unpack (w : BitVec 32) : FmtM :=
  { op := w.extractLsb' 25 6, st := w.extractLsb' 19 6, b := w.extractLsb' 14 5, imm := w.extractLsb' 0 14 }

/-- Word0 of a 96-bit instruction, without bit 31 (R22). -/
structure FmtW0 where
  cls : BitVec 2
  op : BitVec 9
  gn : BitVec 1
  gp : BitVec 3
  md : BitVec 16
  deriving DecidableEq, Repr

/-- The word with these fields. -/
def FmtW0.pack (f : FmtW0) : BitVec 32 :=
  1#1 ++ (f.cls ++ (f.op ++ (f.gn ++ (f.gp ++ (f.md)))))

/-- The fields of a word. -/
def FmtW0.unpack (w : BitVec 32) : FmtW0 :=
  { cls := w.extractLsb' 29 2, op := w.extractLsb' 20 9, gn := w.extractLsb' 19 1, gp := w.extractLsb' 16 3, md := w.extractLsb' 0 16 }

/-- Word1 of the LA and LM classes (R25). -/
structure FmtD where
  d : BitVec 10
  nw : BitVec 1
  lt : BitVec 2
  a : BitVec 10
  x9 : BitVec 9
  deriving DecidableEq, Repr

/-- The word with these fields. -/
def FmtD.pack (f : FmtD) : BitVec 32 :=
  f.d ++ (f.nw ++ (f.lt ++ (f.a ++ (f.x9))))

/-- The fields of a word. -/
def FmtD.unpack (w : BitVec 32) : FmtD :=
  { d := w.extractLsb' 22 10, nw := w.extractLsb' 21 1, lt := w.extractLsb' 19 2, a := w.extractLsb' 9 10, x9 := w.extractLsb' 0 9 }

/-- Word2 of an LA instruction with I = 0 (R26). -/
structure FmtS where
  b : BitVec 10
  c : BitVec 10
  x12 : BitVec 12
  deriving DecidableEq, Repr

/-- The word with these fields. -/
def FmtS.pack (f : FmtS) : BitVec 32 :=
  f.b ++ (f.c ++ (f.x12))

/-- The fields of a word. -/
def FmtS.unpack (w : BitVec 32) : FmtS :=
  { b := w.extractLsb' 22 10, c := w.extractLsb' 12 10, x12 := w.extractLsb' 0 12 }

/-- Word2 of an LM instruction (R31). -/
structure FmtM2 where
  b : BitVec 5
  s : BitVec 10
  imm : BitVec 17
  deriving DecidableEq, Repr

/-- The word with these fields. -/
def FmtM2.pack (f : FmtM2) : BitVec 32 :=
  f.b ++ (f.s ++ (f.imm))

/-- The fields of a word. -/
def FmtM2.unpack (w : BitVec 32) : FmtM2 :=
  { b := w.extractLsb' 27 5, s := w.extractLsb' 17 10, imm := w.extractLsb' 0 17 }

/-- Word1 of the EN and SY classes (R32). -/
structure FmtT where
  t : BitVec 6
  x : BitVec 6
  y : BitVec 6
  z : BitVec 6
  x8 : BitVec 8
  deriving DecidableEq, Repr

/-- The word with these fields. -/
def FmtT.pack (f : FmtT) : BitVec 32 :=
  f.t ++ (f.x ++ (f.y ++ (f.z ++ (f.x8))))

/-- The fields of a word. -/
def FmtT.unpack (w : BitVec 32) : FmtT :=
  { t := w.extractLsb' 26 6, x := w.extractLsb' 20 6, y := w.extractLsb' 14 6, z := w.extractLsb' 8 6, x8 := w.extractLsb' 0 8 }

/-- Word2 of the EN and SY classes (R32). -/
structure FmtW where
  w : BitVec 6
  x26 : BitVec 26
  deriving DecidableEq, Repr

/-- The word with these fields. -/
def FmtW.pack (f : FmtW) : BitVec 32 :=
  f.w ++ (f.x26)

/-- The fields of a word. -/
def FmtW.unpack (w : BitVec 32) : FmtW :=
  { w := w.extractLsb' 26 6, x26 := w.extractLsb' 0 26 }

/-- mod16 of an LA instruction (R24). -/
structure ModLA where
  i : BitVec 1
  rpt : BitVec 2
  low : BitVec 13
  deriving DecidableEq, Repr

/-- The word with these fields. -/
def ModLA.pack (f : ModLA) : BitVec 16 :=
  f.i ++ (f.rpt ++ (f.low))

/-- The fields of a word. -/
def ModLA.unpack (w : BitVec 16) : ModLA :=
  { i := w.extractLsb' 15 1, rpt := w.extractLsb' 13 2, low := w.extractLsb' 0 13 }

/-- mod16 of an LM instruction (R31). -/
structure ModLM where
  lp : BitVec 1
  size : BitVec 3
  sg : BitVec 1
  sc : BitVec 3
  hint : BitVec 3
  low : BitVec 5
  deriving DecidableEq, Repr

/-- The word with these fields. -/
def ModLM.pack (f : ModLM) : BitVec 16 :=
  f.lp ++ (f.size ++ (f.sg ++ (f.sc ++ (f.hint ++ (f.low)))))

/-- The fields of a word. -/
def ModLM.unpack (w : BitVec 16) : ModLM :=
  { lp := w.extractLsb' 15 1, size := w.extractLsb' 12 3, sg := w.extractLsb' 11 1, sc := w.extractLsb' 8 3, hint := w.extractLsb' 5 3, low := w.extractLsb' 0 5 }

/-! ### Codes of the operands -/

/-- The condition codes of R18. -/
def Cond.code : Cond → BitVec 3
  | .eq => 0#3
  | .ne => 1#3
  | .ltS => 2#3
  | .geS => 3#3
  | .ltZ => 4#3
  | .geZ => 5#3
  | .leS => 6#3
  | .gtS => 7#3

def Cond.ofCode (c : BitVec 3) : Parse Cond :=
  match c.toNat with
  | 0 => .ok .eq
  | 1 => .ok .ne
  | 2 => .ok .ltS
  | 3 => .ok .geS
  | 4 => .ok .ltZ
  | 5 => .ok .geZ
  | 6 => .ok .leS
  | 7 => .ok .gtS
  | _ => .error .reservedSelector

/-- The special-register numbers of R48. -/
def SpecialReg.code : SpecialReg → BitVec 13
  | .timeLo => 0#13
  | .timeHi => 1#13
  | .live0 => 2#13
  | .live1 => 3#13
  | .live2 => 4#13
  | .fpFlags => 5#13
  | .gStatus => 6#13
  | .launchId => 7#13
  | .tvecLo => 8#13
  | .tvecHi => 9#13
  | .trapPcLo => 10#13
  | .trapPcHi => 11#13
  | .trapCode => 12#13

def SpecialReg.ofCode (c : BitVec 13) : Parse SpecialReg :=
  match c.toNat with
  | 0 => .ok .timeLo
  | 1 => .ok .timeHi
  | 2 => .ok .live0
  | 3 => .ok .live1
  | 4 => .ok .live2
  | 5 => .ok .fpFlags
  | 6 => .ok .gStatus
  | 7 => .ok .launchId
  | 8 => .ok .tvecLo
  | 9 => .ok .tvecHi
  | 10 => .ok .trapPcLo
  | 11 => .ok .trapPcHi
  | 12 => .ok .trapCode
  | _ => .error .reservedSelector

/-- The control-register numbers of R386, in X8. -/
def ControlReg.code : ControlReg → BitVec 8
  | .admSeq => 0#8
  | .saves => 1#8
  | .resumes => 2#8
  | .lastFault => 3#8
  | .drainEst => 4#8
  | .issued => 5#8
  | .resident => 6#8

def ControlReg.ofCode (c : BitVec 8) : Parse ControlReg :=
  match c.toNat with
  | 0 => .ok .admSeq
  | 1 => .ok .saves
  | 2 => .ok .resumes
  | 3 => .ok .lastFault
  | 4 => .ok .drainEst
  | 5 => .ok .issued
  | 6 => .ok .resident
  | _ => .error .reservedSelector

/-- The atomic operations of R243; SATOM has 0 to 9 (R71). -/
def AtomOp.code : AtomOp → BitVec 5
  | .add => 0#5
  | .and => 1#5
  | .or => 2#5
  | .xor => 3#5
  | .minS => 4#5
  | .minZ => 5#5
  | .maxS => 6#5
  | .maxZ => 7#5
  | .exch => 8#5
  | .cas => 9#5
  | .fadd => 10#5

def AtomOp.ofCode (c : BitVec 5) : Parse AtomOp :=
  match c.toNat with
  | 0 => .ok .add
  | 1 => .ok .and
  | 2 => .ok .or
  | 3 => .ok .xor
  | 4 => .ok .minS
  | 5 => .ok .minZ
  | 6 => .ok .maxS
  | 7 => .ok .maxZ
  | 8 => .ok .exch
  | 9 => .ok .cas
  | 10 => .ok .fadd
  | _ => .error .reservedSelector

/-- RPT (R24). -/
def Rpt.code : Rpt → BitVec 2
  | .x1 => 0#2
  | .x2 => 1#2
  | .x4 => 2#2

def Rpt.ofCode (c : BitVec 2) : Parse Rpt :=
  match c.toNat with
  | 0 => .ok .x1
  | 1 => .ok .x2
  | 2 => .ok .x4
  | _ => .error .reservedSelector

/-- The type field of R119. -/
def FType.code : FType → BitVec 3
  | .f32 => 0#3
  | .f16x2 => 1#3
  | .bf16x2 => 2#3

def FType.ofCode (c : BitVec 3) : Parse FType :=
  match c.toNat with
  | 0 => .ok .f32
  | 1 => .ok .f16x2
  | 2 => .ok .bf16x2
  | _ => .error .reservedSelector

/-- The rounding field of R119. -/
def Rnd.code : Rnd → BitVec 2
  | .rn => 0#2
  | .rz => 1#2
  | .rd => 2#2
  | .ru => 3#2

def Rnd.ofCode (c : BitVec 2) : Parse Rnd :=
  match c.toNat with
  | 0 => .ok .rn
  | 1 => .ok .rz
  | 2 => .ok .rd
  | 3 => .ok .ru
  | _ => .error .reservedSelector

/-- The conditions of FCMP (R123). -/
def FCond.code : FCond → BitVec 3
  | .eq => 0#3
  | .ne => 1#3
  | .lt => 2#3
  | .le => 3#3
  | .gt => 4#3
  | .ge => 5#3
  | .un => 6#3
  | .ord => 7#3

def FCond.ofCode (c : BitVec 3) : Parse FCond :=
  match c.toNat with
  | 0 => .ok .eq
  | 1 => .ok .ne
  | 2 => .ok .lt
  | 3 => .ok .le
  | 4 => .ok .gt
  | 5 => .ok .ge
  | 6 => .ok .un
  | 7 => .ok .ord
  | _ => .error .reservedSelector

/-- The type codes of R153. -/
def CvtType.code : CvtType → BitVec 4
  | .f32 => 1#4
  | .f16 => 2#4
  | .bf16 => 3#4
  | .t8 => 4#4
  | .t6 => 5#4
  | .s8 => 6#4
  | .z8 => 7#4
  | .s16 => 8#4
  | .z16 => 9#4
  | .s32 => 10#4
  | .z32 => 11#4
  | .f16x2 => 12#4
  | .bf16x2 => 13#4

def CvtType.ofCode (c : BitVec 4) : Parse CvtType :=
  match c.toNat with
  | 1 => .ok .f32
  | 2 => .ok .f16
  | 3 => .ok .bf16
  | 4 => .ok .t8
  | 5 => .ok .t6
  | 6 => .ok .s8
  | 7 => .ok .z8
  | 8 => .ok .s16
  | 9 => .ok .z16
  | 10 => .ok .s32
  | 11 => .ok .z32
  | 12 => .ok .f16x2
  | 13 => .ok .bf16x2
  | _ => .error .reservedSelector

/-- The modes of SWZ (R129). -/
def SwzMode.code : SwzMode → BitVec 2
  | .pick => 0#2
  | .slide => 1#2
  | .turn => 2#2
  | .flip => 3#2

def SwzMode.ofCode (c : BitVec 2) : Parse SwzMode :=
  match c.toNat with
  | 0 => .ok .pick
  | 1 => .ok .slide
  | 2 => .ok .turn
  | 3 => .ok .flip
  | _ => .error .reservedSelector

/-- The widths of SWZ (R129). -/
def SwzWidth.code : SwzWidth → BitVec 3
  | .w2 => 0#3
  | .w4 => 1#3
  | .w8 => 2#3
  | .w16 => 3#3
  | .w32 => 4#3
  | .w48 => 5#3
  | .w96 => 6#3

def SwzWidth.ofCode (c : BitVec 3) : Parse SwzWidth :=
  match c.toNat with
  | 0 => .ok .w2
  | 1 => .ok .w4
  | 2 => .ok .w8
  | 3 => .ok .w16
  | 4 => .ok .w32
  | 5 => .ok .w48
  | 6 => .ok .w96
  | _ => .error .reservedSelector

/-- The parts of PLINE (R135). -/
def LinePart.code : LinePart → BitVec 2
  | .all => 0#2
  | .gen => 1#2
  | .orig => 2#2
  | .serial => 3#2

def LinePart.ofCode (c : BitVec 2) : Parse LinePart :=
  match c.toNat with
  | 0 => .ok .all
  | 1 => .ok .gen
  | 2 => .ok .orig
  | 3 => .ok .serial
  | _ => .error .reservedSelector

/-- The access sizes of R31. -/
def MemSize.code : MemSize → BitVec 3
  | .b => 0#3
  | .h => 1#3
  | .w => 2#3
  | .d => 3#3
  | .q => 4#3

def MemSize.ofCode (c : BitVec 3) : Parse MemSize :=
  match c.toNat with
  | 0 => .ok .b
  | 1 => .ok .h
  | 2 => .ok .w
  | 3 => .ok .d
  | 4 => .ok .q
  | _ => .error .reservedSelector

/-- The cache hints of R232. -/
def Hint.code : Hint → BitVec 3
  | .dflt => 0#3
  | .stream => 1#3
  | .keep => 2#3
  | .noalloc => 3#3
  | .last => 4#3

def Hint.ofCode (c : BitVec 3) : Parse Hint :=
  match c.toNat with
  | 0 => .ok .dflt
  | 1 => .ok .stream
  | 2 => .ok .keep
  | 3 => .ok .noalloc
  | 4 => .ok .last
  | _ => .error .reservedSelector

/-- The index scales of R31. -/
def Scale.code : Scale → BitVec 3
  | .x1 => 0#3
  | .x2 => 1#3
  | .x4 => 2#3
  | .x8 => 3#3
  | .x16 => 4#3

def Scale.ofCode (c : BitVec 3) : Parse Scale :=
  match c.toNat with
  | 0 => .ok .x1
  | 1 => .ok .x2
  | 2 => .ok .x4
  | 3 => .ok .x8
  | 4 => .ok .x16
  | _ => .error .reservedSelector

/-- The element formats of R319. -/
def MxFmt.code : MxFmt → BitVec 3
  | .f16 => 1#3
  | .bf16 => 2#3
  | .t8 => 3#3
  | .t6 => 4#3

def MxFmt.ofCode (c : BitVec 3) : Parse MxFmt :=
  match c.toNat with
  | 1 => .ok .f16
  | 2 => .ok .bf16
  | 3 => .ok .t8
  | 4 => .ok .t6
  | _ => .error .reservedSelector

/-- The drain formats of R322. -/
def DrainFmt.code : DrainFmt → BitVec 3
  | .f32 => 0#3
  | .f16 => 1#3
  | .bf16 => 2#3

def DrainFmt.ofCode (c : BitVec 3) : Parse DrainFmt :=
  match c.toNat with
  | 0 => .ok .f32
  | 1 => .ok .f16
  | 2 => .ok .bf16
  | _ => .error .reservedSelector

/-- The selectors of PEERQ (R452). -/
def PeerSel.code : PeerSel → BitVec 3
  | .state => 0#3
  | .egress => 1#3
  | .nextSlot => 2#3
  | .slots => 3#3

def PeerSel.ofCode (c : BitVec 3) : Parse PeerSel :=
  match c.toNat with
  | 0 => .ok .state
  | 1 => .ok .egress
  | 2 => .ok .nextSlot
  | 3 => .ok .slots
  | _ => .error .reservedSelector

/-- The scopes of R282, in FENCE's mod16 1:0 (R301). -/
def Scope.code : Scope → BitVec 2
  | .crew => 0#2
  | .core => 1#2
  | .device => 2#2
  | .system => 3#2

def Scope.ofCode (c : BitVec 2) : Parse Scope :=
  match c.toNat with
  | 0 => .ok .crew
  | 1 => .ok .core
  | 2 => .ok .device
  | 3 => .ok .system
  | _ => .error .reservedSelector

/-- A 6-bit field that names a pair must be even (R17). -/
def pairOf {α : Type} (r : BitVec 6) (k : Pair → Parse α) : Parse α :=
  if r.extractLsb' 0 1 = 0#1 then k (r.extractLsb' 1 5) else .error .oddPair

/-- The 6-bit field of a pair. -/
def Pair.field (p : Pair) : BitVec 6 :=
  p ++ 0#1

/-- A condition register in a 6-bit field whose bits 5:3 are zero (R21). -/
def cregOf {α : Type} (r : BitVec 6) (k : CReg → Parse α) : Parse α :=
  if r.extractLsb' 3 3 = 0#3 then k (r.extractLsb' 0 3) else .error .reservedNotZero

def CReg.field (c : CReg) : BitVec 6 :=
  0#3 ++ c

/-- A source field (R27). -/
def Src.code : Src → BitVec 10
  | .v i => 0#2 ++ i
  | .o i => 1#2 ++ (0#5 ++ i)
  | .l i => 2#2 ++ (0#6 ++ i)
  | .s i => 3#2 ++ (0#2 ++ i)
  | .lane => 0x340#10
  | .gang => 0x341#10
  | .crew => 0x342#10
  | .pidx => 0x343#10

def Src.ofCode (x : BitVec 10) : Parse Src :=
  match (x.extractLsb' 8 2).toNat with
  | 0 => .ok (.v (x.extractLsb' 0 8))
  | 1 => if x.extractLsb' 3 5 = 0#5 then .ok (.o (x.extractLsb' 0 3)) else .error .badIndex
  | 2 => if x.extractLsb' 2 6 = 0#6 then .ok (.l (x.extractLsb' 0 2)) else .error .badIndex
  | _ =>
    if x.extractLsb' 6 2 = 0#2 then .ok (.s (x.extractLsb' 0 6))
    else match (x.extractLsb' 0 8).toNat with
      | 64 => .ok .lane
      | 65 => .ok .gang
      | 66 => .ok .crew
      | 67 => .ok .pidx
      | _ => .error .badIndex

/-- A destination field with its NW bit (R28). -/
def Dst.code : Dst → BitVec 10
  | .v i => 0#2 ++ i
  | .o i => 1#2 ++ (0#5 ++ i)
  | .p i => 2#2 ++ (0#5 ++ i)
  | .s i => 3#2 ++ (0#2 ++ i)
  | .nw => 0#10

def Dst.nwBit : Dst → BitVec 1
  | .nw => 1#1
  | .v _ | .o _ | .p _ | .s _ => 0#1

def Dst.ofCode (x : BitVec 10) (nw : BitVec 1) : Parse Dst :=
  if nw = 1#1 then zeroThen x (.ok .nw)
  else match (x.extractLsb' 8 2).toNat with
    | 0 => .ok (.v (x.extractLsb' 0 8))
    | 1 => if x.extractLsb' 3 5 = 0#5 then .ok (.o (x.extractLsb' 0 3)) else .error .badIndex
    | 2 => if x.extractLsb' 3 5 = 0#5 then .ok (.p (x.extractLsb' 0 3)) else .error .badIndex
    | _ => if x.extractLsb' 6 2 = 0#2 then .ok (.s (x.extractLsb' 0 6)) else .error .badIndex

/-- A Bool as a field of one bit. -/
def bit (b : Bool) : BitVec 1 :=
  BitVec.ofBool b

/-- Bit `i` of a field. -/
def bitAt {n : Nat} (x : BitVec n) (i : Nat) : Bool :=
  x.getLsbD i

/-! ### Scalar words (R19 to R21) -/

/-- Opcode 0x00, by fn (R20). -/
def parseAlu (f : FmtR) : Parse Instr :=
  match f.fn.toNat with
  | 0 => .ok (.add f.sd f.sa f.sb)
  | 1 => .ok (.sub f.sd f.sa f.sb)
  | 2 => .ok (.mul f.sd f.sa f.sb)
  | 3 => .ok (.mulhS f.sd f.sa f.sb)
  | 4 => .ok (.mulhZ f.sd f.sa f.sb)
  | 5 => .ok (.divS f.sd f.sa f.sb)
  | 6 => .ok (.divZ f.sd f.sa f.sb)
  | 7 => .ok (.remS f.sd f.sa f.sb)
  | 8 => .ok (.remZ f.sd f.sa f.sb)
  | 9 => .ok (.minS f.sd f.sa f.sb)
  | 10 => .ok (.minZ f.sd f.sa f.sb)
  | 11 => .ok (.maxS f.sd f.sa f.sb)
  | 12 => .ok (.maxZ f.sd f.sa f.sb)
  | 13 => .ok (.addsS f.sd f.sa f.sb)
  | 14 => .ok (.addsZ f.sd f.sa f.sb)
  | 15 => .ok (.subsS f.sd f.sa f.sb)
  | 16 => .ok (.and f.sd f.sa f.sb)
  | 17 => .ok (.or f.sd f.sa f.sb)
  | 18 => .ok (.xor f.sd f.sa f.sb)
  | 19 => .ok (.andn f.sd f.sa f.sb)
  | 20 => .ok (.orn f.sd f.sa f.sb)
  | 21 => .ok (.xnor f.sd f.sa f.sb)
  | 24 => .ok (.shl f.sd f.sa f.sb)
  | 25 => .ok (.shr f.sd f.sa f.sb)
  | 26 => .ok (.sra f.sd f.sa f.sb)
  | 27 => .ok (.rol f.sd f.sa f.sb)
  | 28 => .ok (.ror f.sd f.sa f.sb)
  | 32 => zeroThen f.sb (.ok (.clz f.sd f.sa))
  | 33 => zeroThen f.sb (.ok (.ctz f.sd f.sa))
  | 34 => zeroThen f.sb (.ok (.popc f.sd f.sa))
  | 35 => zeroThen f.sb (.ok (.brev f.sd f.sa))
  | 36 => zeroThen f.sb (.ok (.bswap f.sd f.sa))
  | _ => .error .reservedSelector

/-- CMP: the condition in fn 2:0, fn 6:3 zero (R18, R21). -/
def parseCmp (f : FmtR) : Parse Instr :=
  if f.fn.extractLsb' 3 4 = 0#4 then
    cregOf f.sd fun c => (Cond.ofCode (f.fn.extractLsb' 0 3)).map fun k => .cmp k c f.sa f.sb
  else .error .reservedSelector

/-- Opcode 0x05, the pair operations (R21, R62). -/
def parsePairOp (f : FmtR) : Parse Instr :=
  match f.fn.toNat with
  | 0 => pairOf f.sd fun d => pairOf f.sa fun a => pairOf f.sb fun b => .ok (.addD d a b)
  | 1 => pairOf f.sd fun d => pairOf f.sa fun a => pairOf f.sb fun b => .ok (.subD d a b)
  | 2 => pairOf f.sd fun d => pairOf f.sa fun a => .ok (.shlD d a f.sb)
  | 3 => pairOf f.sd fun d => pairOf f.sa fun a => .ok (.shrD d a f.sb)
  | 4 => pairOf f.sd fun d => pairOf f.sa fun a => .ok (.sraD d a f.sb)
  | 5 => pairOf f.sd fun d => .ok (.mulwS d f.sa f.sb)
  | 6 => pairOf f.sd fun d => .ok (.mulwZ d f.sa f.sb)
  | _ => .error .reservedSelector

/-- Opcode 0x06, the condition operations (R21, R60). -/
def parseCondOp (f : FmtR) : Parse Instr :=
  match f.fn.toNat with
  | 0 => cregOf f.sd fun d => cregOf f.sa fun a => cregOf f.sb fun b => .ok (.cand d a b)
  | 1 => cregOf f.sd fun d => cregOf f.sa fun a => cregOf f.sb fun b => .ok (.cor d a b)
  | 2 => cregOf f.sd fun d => cregOf f.sa fun a => cregOf f.sb fun b => .ok (.cxor d a b)
  | 3 => cregOf f.sd fun d => cregOf f.sa fun a => zeroThen f.sb (.ok (.cnot d a))
  | 4 => zeroThen f.sa (zeroThen f.sb (.ok (.ctos f.sd)))
  | 5 => zeroThen f.sd (zeroThen f.sb (.ok (.stoc f.sa)))
  | _ => .error .reservedSelector

/-- SEL: the condition in fn 2:0 (R21). -/
def parseSel (f : FmtR) : Parse Instr :=
  zeroThen (f.fn.extractLsb' 3 4) (.ok (.sel f.sd (f.fn.extractLsb' 0 3) f.sa f.sb))

/-- LEA.D: the shift in fn 2:0 (R21). -/
def parseLea (f : FmtR) : Parse Instr :=
  zeroThen (f.fn.extractLsb' 3 4)
    (pairOf f.sd fun d => pairOf f.sa fun a => .ok (.leaD d a f.sb (f.fn.extractLsb' 0 3)))

/-- JMPR, CALLR and RET (R21): RET is JMPR with sa = 62. -/
def parseJumpReg (f : FmtR) : Parse Instr :=
  zeroThen f.sd (zeroThen f.sb (pairOf f.sa fun a =>
    match f.fn.toNat with
    | 0 => if a = 31#5 then .ok .ret else .ok (.jmpr a)
    | 1 => .ok (.callr a)
    | _ => .error .reservedSelector))

/-- SATOM: the operation in fn (R71). -/
def parseSatom (f : FmtR) : Parse Instr :=
  if f.fn.extractLsb' 5 2 = 0#2 then
    pairOf f.sa fun a => (AtomOp.ofCode (f.fn.extractLsb' 0 5)).map fun k => .satom k f.sd a f.sb
  else .error .reservedSelector

/-- The shift immediates: imm13 12:6 zero (R16). -/
def parseShiftImm (f : FmtI) (k : BitVec 6 → Instr) : Parse Instr :=
  zeroThen (f.imm.extractLsb' 6 7) (.ok (k (f.imm.extractLsb' 0 6)))

/-- BC, BANY and BALL: sel 2:0, sel 4:3 zero, n (R21). -/
def parseBranch (f : FmtB) (k0 k1 : BitVec 3 → BitVec 19 → Instr) : Parse Instr :=
  zeroThen (f.sel.extractLsb' 3 2)
    (.ok (if f.n = 0#1 then k0 (f.sel.extractLsb' 0 3) f.off else k1 (f.sel.extractLsb' 0 3) f.off))

/-- A scalar word, by its opcode (R19). -/
def parseScalar (w : Word) : Parse Instr :=
  match (w.extractLsb' 25 6).toNat with
  | 0x00 => parseAlu (.unpack w)
  | 0x01 => let f := FmtQ.unpack w
    .ok (if f.v = 0#1 then .bext f.sd f.sa f.sb f.sc else .bextS f.sd f.sa f.sb f.sc)
  | 0x02 => let f := FmtQ.unpack w
    zeroThen f.v (.ok (.bins f.sd f.sa f.sb f.sc))
  | 0x03 => let f := FmtQ.unpack w
    .ok (if f.v = 0#1 then .fshL f.sd f.sa f.sb f.sc else .fshR f.sd f.sa f.sb f.sc)
  | 0x04 => parseCmp (.unpack w)
  | 0x05 => parsePairOp (.unpack w)
  | 0x06 => parseCondOp (.unpack w)
  | 0x07 => parseSel (.unpack w)
  | 0x08 => let f := FmtI.unpack w; .ok (.addi f.sd f.sa f.imm)
  | 0x09 => let f := FmtI.unpack w; .ok (.andi f.sd f.sa f.imm)
  | 0x0A => let f := FmtI.unpack w; .ok (.ori f.sd f.sa f.imm)
  | 0x0B => let f := FmtI.unpack w; .ok (.xori f.sd f.sa f.imm)
  | 0x0C => let f := FmtI.unpack w; parseShiftImm f (.shli f.sd f.sa ·)
  | 0x0D => let f := FmtI.unpack w; parseShiftImm f (.shri f.sd f.sa ·)
  | 0x0E => let f := FmtI.unpack w; parseShiftImm f (.srai f.sd f.sa ·)
  | 0x0F => let f := FmtI.unpack w; .ok (.muli f.sd f.sa f.imm)
  | 0x10 => let f := FmtI.unpack w
    (Cond.ofCode (f.sd.extractLsb' 3 3)).map fun k => .cmpi k (f.sd.extractLsb' 0 3) f.sa f.imm
  | 0x11 => let f := FmtI.unpack w
    pairOf f.sd fun d => pairOf f.sa fun a => .ok (.addiD d a f.imm)
  | 0x12 => let f := FmtU.unpack w; .ok (.ldhi f.sd f.imm)
  | 0x13 => let f := FmtU.unpack w; pairOf f.sd fun d => .ok (.addpc d f.imm)
  | 0x14 => let f := FmtI.unpack w
    zeroThen f.sa ((SpecialReg.ofCode f.imm).map fun n => .getsr f.sd n)
  | 0x15 => let f := FmtI.unpack w
    zeroThen f.sd ((SpecialReg.ofCode f.imm).map fun n => .setsr n f.sa)
  | 0x16 => parseLea (.unpack w)
  | 0x18 => parseBranch (.unpack w) .bc .bcN
  | 0x19 => let f := FmtB.unpack w
    zeroThen f.sel (.ok (if f.n = 0#1 then .bm f.off else .bmN f.off))
  | 0x1A => parseBranch (.unpack w) .bany .banyN
  | 0x1B => parseBranch (.unpack w) .ball .ballN
  | 0x1C => .ok (.jmp (FmtJ.unpack w).off)
  | 0x1D => .ok (.call (FmtJ.unpack w).off)
  | 0x1E => parseJumpReg (.unpack w)
  | 0x1F => let f := FmtB.unpack w; zeroThen f.n (.ok (.loop f.sel f.off))
  | 0x20 => let f := FmtM.unpack w; .ok (.sldBS f.st f.b f.imm)
  | 0x21 => let f := FmtM.unpack w; .ok (.sldBZ f.st f.b f.imm)
  | 0x22 => let f := FmtM.unpack w; .ok (.sldHS f.st f.b f.imm)
  | 0x23 => let f := FmtM.unpack w; .ok (.sldHZ f.st f.b f.imm)
  | 0x24 => let f := FmtM.unpack w; .ok (.sldW f.st f.b f.imm)
  | 0x26 => let f := FmtM.unpack w; .ok (.sstB f.st f.b f.imm)
  | 0x27 => let f := FmtM.unpack w; .ok (.sstH f.st f.b f.imm)
  | 0x28 => let f := FmtM.unpack w; .ok (.sstW f.st f.b f.imm)
  | 0x25 => let f := FmtM.unpack w; pairOf f.st fun t => .ok (.sldD t f.b f.imm)
  | 0x29 => let f := FmtM.unpack w; pairOf f.st fun t => .ok (.sstD t f.b f.imm)
  | 0x2A => parseSatom (.unpack w)
  | 0x30 => let f := FmtU.unpack w; zeroThen f.sd (.ok (.trap f.imm))
  | 0x31 => let f := FmtU.unpack w; zeroThen f.sd (.ok (.brk f.imm))
  | 0x32 => let f := FmtI.unpack w; zeroThen f.sd (zeroThen f.sa (zeroThen f.imm (.ok .yield)))
  | _ => .error .reservedOpcode

/-! ### The lane ALU class (R24 to R33, R110) -/

/-- The guard of word0 (R22, R23). -/
def FmtW0.guard (f : FmtW0) : Guard :=
  ⟨bitAt f.gn 0, f.gp⟩

/-- Header, immediate flag and modifier bits of an LA instruction. -/
structure LaParts where
  h : LaHdr
  imm : Bool
  low : BitVec 13
  a : BitVec 10
  x9 : BitVec 9
  w2 : Word
  deriving DecidableEq, Repr

/-- The parts that every LA instruction shares. -/
def laParts (f : FmtW0) (g : FmtD) (w2 : Word) : Parse LaParts :=
  let m := ModLA.unpack f.md
  (Rpt.ofCode m.rpt).bind fun r =>
  (Dst.ofCode g.d g.nw).map fun d =>
  { h := ⟨f.guard, r, d, g.lt⟩, imm := bitAt m.i 0, low := m.low, a := g.a, x9 := g.x9, w2 := w2 }

/-- `D, A, B`: B a source with C and X12 zero, or imm32 (R26). -/
def LaParts.ab (p : LaParts) (k : Src → Opnd → Instr) : Parse Instr :=
  zeroThen p.x9
  ((Src.ofCode p.a).bind fun a =>
  if p.imm then .ok (k a (.imm p.w2))
  else let f := FmtS.unpack p.w2
    zeroThen f.c (zeroThen f.x12 ((Src.ofCode f.b).map fun b => k a (.reg b))))

/-- `D, A, B, C`; no immediate form (R107). -/
def LaParts.abc (p : LaParts) (k : Src → Src → Src → Instr) : Parse Instr :=
  if p.imm then .error .formNotAllowed
  else let f := FmtS.unpack p.w2
    zeroThen p.x9 (zeroThen f.x12
    ((Src.ofCode p.a).bind fun a => (Src.ofCode f.b).bind fun b => (Src.ofCode f.c).map fun c => k a b c))

/-- `D, A`; no immediate form, word2 zero. -/
def LaParts.a1 (p : LaParts) (k : Src → Instr) : Parse Instr :=
  if p.imm then .error .formNotAllowed
  else zeroThen p.x9 (zeroThen p.w2 ((Src.ofCode p.a).map k))

/-- No source: A and word2 zero; X9 is the caller's. -/
def LaParts.a0 (p : LaParts) (k : Instr) : Parse Instr :=
  if p.imm then .error .formNotAllowed
  else zeroThen p.a (zeroThen p.w2 (.ok k))

/-- mod16 12:0 all zero, the default form (R24). -/
def LaParts.plain (p : LaParts) (k : Parse Instr) : Parse Instr :=
  zeroThen p.low k

/-- A single flag in mod16 bit 0. -/
def LaParts.flag (p : LaParts) (k : Bool → Parse Instr) : Parse Instr :=
  zeroThen (p.low.extractLsb' 1 12) (k (bitAt p.low 0))

/-- The type in mod16 2:0 and the rounding in 4:3 (R119). -/
def LaParts.typeRnd (p : LaParts) (k : FType → Rnd → Parse Instr) : Parse Instr :=
  zeroThen (p.low.extractLsb' 5 8)
  ((FType.ofCode (p.low.extractLsb' 0 3)).bind fun t => (Rnd.ofCode (p.low.extractLsb' 3 2)).bind fun r => k t r)

/-- The type in mod16 2:0 alone. -/
def LaParts.type (p : LaParts) (k : FType → Parse Instr) : Parse Instr :=
  zeroThen (p.low.extractLsb' 3 10) ((FType.ofCode (p.low.extractLsb' 0 3)).bind k)

/-- FDOT2: types 001 and 010 (R125). -/
def parseFdot2 (p : LaParts) : Parse Instr :=
  p.typeRnd fun t r => match t with
    | .f32 => .error .reservedSelector
    | .f16x2 => p.abc fun a b c => .fdot2 p.h false r a b c
    | .bf16x2 => p.abc fun a b c => .fdot2 p.h true r a b c

/-- FFMA: type, rounding, NP in bit 5 and NC in bit 6 (R110). -/
def parseFfma (p : LaParts) : Parse Instr :=
  zeroThen (p.low.extractLsb' 7 6)
  ((FType.ofCode (p.low.extractLsb' 0 3)).bind fun t => (Rnd.ofCode (p.low.extractLsb' 3 2)).bind fun r =>
    p.abc fun a b c => .ffma p.h t r (bitAt p.low 5) (bitAt p.low 6) a b c)

/-- FCMP: type in 2:0, condition in 7:5 (R123). -/
def parseFcmp (p : LaParts) : Parse Instr :=
  zeroThen (p.low.extractLsb' 3 2) (zeroThen (p.low.extractLsb' 8 5)
  ((FType.ofCode (p.low.extractLsb' 0 3)).bind fun t => (FCond.ofCode (p.low.extractLsb' 5 3)).bind fun k =>
    p.ab fun a b => .fcmp p.h t k a b))

/-- CVT (R153). B is a plain source whose zero outside the pack form WellFormed checks. -/
def parseCvt (p : LaParts) : Parse Instr :=
  if p.imm then .error .formNotAllowed
  else let f := FmtS.unpack p.w2
    zeroThen (p.low.extractLsb' 11 2) (zeroThen p.x9 (zeroThen f.c (zeroThen f.x12
    ((CvtType.ofCode (p.low.extractLsb' 0 4)).bind fun dst => (CvtType.ofCode (p.low.extractLsb' 4 4)).bind fun src =>
     (Rnd.ofCode (p.low.extractLsb' 8 2)).bind fun r =>
     (Src.ofCode p.a).bind fun a => (Src.ofCode f.b).map fun b => .cvt p.h dst src r (bitAt p.low 10) a b))))

/-- CVTB: the mode in mod16 11:10, bit 12 zero (R155). SCALE has src F32 and rnd 00. -/
def parseCvtb (p : LaParts) : Parse Instr :=
  zeroThen (p.low.extractLsb' 12 1)
  ((CvtType.ofCode (p.low.extractLsb' 0 4)).bind fun dst =>
    match (p.low.extractLsb' 10 2).toNat with
    | 0 => (CvtType.ofCode (p.low.extractLsb' 4 4)).bind fun src => (Rnd.ofCode (p.low.extractLsb' 8 2)).bind fun r =>
      p.ab fun a b => .cvtbApply p.h dst src r a b
    | 1 => if p.low.extractLsb' 4 6 = 1#6 then p.a1 fun a => .cvtbScale p.h dst a else .error .reservedSelector
    | _ => .error .reservedSelector)

/-- MOV: a source, or imm32 with A zero (R128). -/
def parseMov (p : LaParts) : Parse Instr :=
  zeroThen p.x9
  (if p.imm then zeroThen p.a (.ok (.mov p.h (.imm p.w2)))
   else zeroThen p.w2 ((Src.ofCode p.a).map fun a => .mov p.h (.reg a)))

/-- SWZ: the mode in mod16 1:0, the width in X9 2:0 (R129). -/
def parseSwz (p : LaParts) : Parse Instr :=
  zeroThen (p.low.extractLsb' 2 11) (zeroThen (p.x9.extractLsb' 3 6)
  ((SwzMode.ofCode (p.low.extractLsb' 0 2)).bind fun m => (SwzWidth.ofCode (p.x9.extractLsb' 0 3)).bind fun w =>
    LaParts.ab { p with x9 := 0#9 } fun a b => .swz p.h m w a b))

/-- POLL: the mode in mod16 1:0, K in 3:2 (R130). -/
def parsePoll (p : LaParts) : Parse Instr :=
  let k := p.low.extractLsb' 2 2
  zeroThen (p.low.extractLsb' 4 9)
  (match (p.low.extractLsb' 0 2).toNat with
   | 0 => zeroThen k (p.a1 fun a => .poll p.h .someLane a)
   | 1 => zeroThen k (p.a1 fun a => .poll p.h .everyLane a)
   | 2 => p.a1 fun a => .poll p.h (.mask k) a
   | _ => zeroThen k (p.a1 fun a => .poll p.h .count a))

/-- PLOG: the predicates in mod16 8:0, the table in X9 7:0 (R133). -/
def parsePlog (p : LaParts) : Parse Instr :=
  zeroThen (p.low.extractLsb' 9 4) (zeroThen (p.x9.extractLsb' 8 1)
  (p.a0 (.plog p.h (p.low.extractLsb' 0 3) (p.low.extractLsb' 3 3) (p.low.extractLsb' 6 3) (p.x9.extractLsb' 0 8))))

/-- PMOV: bit 0 chooses P or U, the mask is 7:1 (R134). -/
def parsePmov (p : LaParts) : Parse Instr :=
  if bitAt p.low 0 then
    zeroThen (p.low.extractLsb' 8 5) (p.a1 fun a => .pmovU p.h (p.low.extractLsb' 1 7) a)
  else zeroThen p.low (zeroThen p.x9 (p.a0 (.pmovP p.h)))

/-- PLINE: the part in mod16 1:0 (R135). -/
def parsePline (p : LaParts) : Parse Instr :=
  zeroThen (p.low.extractLsb' 2 11) (zeroThen p.x9
  ((LinePart.ofCode (p.low.extractLsb' 0 2)).bind fun part => p.a0 (.pline p.h part)))

/-- An LA instruction, by op9 (R33, R110). -/
def parseLa (op : BitVec 9) (p : LaParts) : Parse Instr :=
  match op.toNat with
  | 0x000 => p.plain (p.ab fun a b => .iadd p.h a b)
  | 0x001 => p.plain (p.ab fun a b => .isub p.h a b)
  | 0x002 => p.plain (p.ab fun a b => .imul p.h a b)
  | 0x003 => p.flag fun z => p.ab fun a b => .imulh p.h z a b
  | 0x004 => p.plain (p.abc fun a b c => .imad p.h a b c)
  | 0x005 => p.flag fun z => p.abc fun a b c => .imadw p.h z a b c
  | 0x006 => p.flag fun z => p.ab fun a b => .imin p.h z a b
  | 0x007 => p.flag fun z => p.ab fun a b => .imax p.h z a b
  | 0x008 => p.plain (p.a1 fun a => .iabs p.h a)
  | 0x009 => p.flag fun z => p.ab fun a b => .iadds p.h z a b
  | 0x00A => p.flag fun z => p.ab fun a b => .isubs p.h z a b
  | 0x00B => zeroThen (p.low.extractLsb' 2 11) (p.abc fun a b c => .idot4 p.h (bitAt p.low 0) (bitAt p.low 1) a b c)
  | 0x010 => p.plain (p.ab fun a b => .iand p.h a b)
  | 0x011 => p.plain (p.ab fun a b => .ior p.h a b)
  | 0x012 => p.plain (p.ab fun a b => .ixor p.h a b)
  | 0x013 => p.plain (p.ab fun a b => .iandn p.h a b)
  | 0x014 => zeroThen (p.low.extractLsb' 8 5) (p.abc fun a b c => .ibool3 p.h a b c (p.low.extractLsb' 0 8))
  | 0x018 => p.plain (p.ab fun a b => .ishl p.h a b)
  | 0x019 => p.plain (p.ab fun a b => .ishr p.h a b)
  | 0x01A => p.plain (p.ab fun a b => .isra p.h a b)
  | 0x01B => p.plain (p.ab fun a b => .irol p.h a b)
  | 0x01C => p.flag fun r => p.abc fun a b c => .ifsh p.h r a b c
  | 0x01D => p.flag fun z => p.ab fun a b => .ibext p.h z a b
  | 0x01E => p.plain (p.abc fun a b c => .ibins p.h a b c)
  | 0x01F => p.plain (p.abc fun a b c => .iperm p.h a b c)
  | 0x020 => p.plain (p.a1 fun a => .iclz p.h a)
  | 0x021 => p.plain (p.a1 fun a => .ictz p.h a)
  | 0x022 => p.plain (p.a1 fun a => .ipopc p.h a)
  | 0x023 => p.plain (p.a1 fun a => .ibrev p.h a)
  | 0x028 => zeroThen (p.low.extractLsb' 3 10) ((Cond.ofCode (p.low.extractLsb' 0 3)).bind fun k => p.ab fun a b => .icmp p.h k a b)
  | 0x029 => zeroThen (p.low.extractLsb' 4 9) (p.ab fun a b => .laneSel p.h (bitAt p.low 3) (p.low.extractLsb' 0 3) a b)
  | 0x030 => p.plain (p.ab fun a b => .iaddD p.h a b)
  | 0x031 => p.plain (p.ab fun a b => .isubD p.h a b)
  | 0x032 => zeroThen (p.low.extractLsb' 4 9) (p.ab fun a b => .ileaD p.h (bitAt p.low 3) (p.low.extractLsb' 0 3) a b)
  | 0x080 => p.typeRnd fun t r => p.ab fun a b => .fadd p.h t r a b
  | 0x081 => p.typeRnd fun t r => p.ab fun a b => .fsub p.h t r a b
  | 0x082 => p.typeRnd fun t r => p.ab fun a b => .fmul p.h t r a b
  | 0x083 => parseFfma p
  | 0x084 => p.type fun t => p.ab fun a b => .fmin p.h t a b
  | 0x085 => p.type fun t => p.ab fun a b => .fmax p.h t a b
  | 0x086 => parseFcmp p
  | 0x087 => p.type fun t => p.a1 fun a => .fclass p.h t a
  | 0x088 => parseFdot2 p
  | 0x090 => p.plain (p.a1 fun a => .frcp p.h a)
  | 0x091 => p.plain (p.a1 fun a => .frsq p.h a)
  | 0x092 => p.plain (p.a1 fun a => .fsqrt p.h a)
  | 0x093 => p.plain (p.a1 fun a => .fex2 p.h a)
  | 0x094 => p.plain (p.a1 fun a => .flg2 p.h a)
  | 0x095 => p.plain (p.a1 fun a => .fsin p.h a)
  | 0x096 => p.plain (p.a1 fun a => .fcos p.h a)
  | 0x097 => p.plain (p.a1 fun a => .ftanh p.h a)
  | 0x100 => parseCvt p
  | 0x101 => parseCvtb p
  | 0x140 => p.plain (parseMov p)
  | 0x141 => parseSwz p
  | 0x142 => parsePoll p
  | 0x143 => p.plain (p.ab fun a b => .lread p.h a b)
  | 0x144 => p.plain (p.ab fun a b => .lwrite p.h a b)
  | 0x145 => parsePlog p
  | 0x146 => parsePmov p
  | 0x147 => parsePline p
  | _ => .error .reservedOpcode

/-! ### The lane memory class (R31, R34, R234 to R250) -/

/-- Guard, hint and address of an LM instruction, with the fields its description uses. -/
structure LmParts where
  h : LmHdr
  d : BitVec 10
  nw : BitVec 1
  lt : BitVec 2
  x9 : BitVec 9
  s : BitVec 10
  size : BitVec 3
  sg : BitVec 1
  low : BitVec 5
  deriving DecidableEq, Repr

/-- The address of R31: scalar base, or lane pair with b and scale zero. -/
def laneAddrOf (m : ModLM) (a : BitVec 10) (f : FmtM2) : Parse LaneAddr :=
  if m.lp = 0#1 then
    (Src.ofCode a).bind fun idx => (Scale.ofCode m.sc).map fun sc => .base f.b idx sc f.imm
  else zeroThen f.b (zeroThen m.sc ((Src.ofCode a).map fun p => .pair p f.imm))

def lmParts (f : FmtW0) (g : FmtD) (w2 : Word) : Parse LmParts :=
  let m := ModLM.unpack f.md
  let e := FmtM2.unpack w2
  (Hint.ofCode m.hint).bind fun hint =>
  (laneAddrOf m g.a e).map fun addr =>
  { h := ⟨f.guard, hint, addr⟩, d := g.d, nw := g.nw, lt := g.lt, x9 := g.x9, s := e.s, size := m.size, sg := m.sg,
    low := m.low }

/-- No register is written: D, NW and LT are zero (R31). -/
def LmParts.noDest (p : LmParts) (k : Parse Instr) : Parse Instr :=
  zeroThen p.d (zeroThen p.nw (zeroThen p.lt k))

/-- LD and LDL: S and the low modifier bits are zero. -/
def LmParts.load (p : LmParts) (k : MemSize → Bool → Dst → BitVec 2 → Instr) : Parse Instr :=
  zeroThen p.x9 (zeroThen p.s (zeroThen p.low
  ((MemSize.ofCode p.size).bind fun sz => (Dst.ofCode p.d p.nw).map fun d => k sz (bitAt p.sg 0) d p.lt)))

/-- ST and STL. -/
def LmParts.store (p : LmParts) (k : MemSize → Src → Instr) : Parse Instr :=
  zeroThen p.x9 (zeroThen p.low (zeroThen p.sg (p.noDest
  ((MemSize.ofCode p.size).bind fun sz => (Src.ofCode p.s).map fun s => k sz s))))

/-- ATOM and ATOML: the operation in the low modifier bits (R243). -/
def LmParts.atomic (p : LmParts) (k : AtomOp → MemSize → Dst → BitVec 2 → Src → Instr) : Parse Instr :=
  zeroThen p.x9 (zeroThen p.sg
  ((MemSize.ofCode p.size).bind fun sz => (AtomOp.ofCode p.low).bind fun op => (Dst.ofCode p.d p.nw).bind fun d =>
   (Src.ofCode p.s).map fun s => k op sz d p.lt s))

/-- LDF: size, signed and bits 4:2 zero, POS in 1:0 (R240). -/
def LmParts.loadF (p : LmParts) : Parse Instr :=
  zeroThen p.x9 (zeroThen p.s (zeroThen p.size (zeroThen p.sg (zeroThen (p.low.extractLsb' 2 3)
  ((Dst.ofCode p.d p.nw).map fun d => .ldf p.h (p.low.extractLsb' 0 2) d p.lt)))))

def LmParts.storeF (p : LmParts) : Parse Instr :=
  zeroThen p.x9 (zeroThen p.size (zeroThen p.sg (zeroThen (p.low.extractLsb' 2 3)
  (p.noDest ((Src.ofCode p.s).map fun s => .stf p.h (p.low.extractLsb' 0 2) s)))))

/-- LDX: the barrier pair in X9 5:0 (R247). -/
def LmParts.ldx (p : LmParts) : Parse Instr :=
  zeroThen (p.x9.extractLsb' 6 3) (zeroThen p.low (zeroThen p.sg (p.noDest
  ((MemSize.ofCode p.size).bind fun sz => (Src.ofCode p.s).bind fun s =>
   pairOf (p.x9.extractLsb' 0 6) fun bar => .ok (.ldx p.h sz s bar)))))

/-- PRF: nothing but the address and the hint (R250). -/
def LmParts.prf (p : LmParts) : Parse Instr :=
  zeroThen p.x9 (zeroThen p.s (zeroThen p.size (zeroThen p.sg (zeroThen p.low (p.noDest (.ok (.prf p.h)))))))

/-- An LM instruction, by op9 (R34). -/
def parseLm (op : BitVec 9) (p : LmParts) : Parse Instr :=
  match op.toNat with
  | 0x000 => p.load fun sz sg d lt => .ld p.h sz sg d lt
  | 0x001 => p.store fun sz s => .st p.h sz s
  | 0x002 => p.loadF
  | 0x003 => p.storeF
  | 0x004 => p.atomic fun op sz d lt s => .atom p.h op sz d lt s
  | 0x008 => p.load fun sz sg d lt => .ldl p.h sz sg d lt
  | 0x009 => p.store fun sz s => .stl p.h sz s
  | 0x00A => p.atomic fun op sz d lt s => .atoml p.h op sz d lt s
  | 0x010 => p.ldx
  | 0x011 => p.prf
  | _ => .error .reservedOpcode

/-! ### The engine and system classes (R32, R35, R36) -/

/-- The fields of an EN or SY instruction after word0. -/
structure EnParts where
  md : BitVec 16
  g : FmtT
  e : FmtW
  deriving DecidableEq, Repr

/-- EN and SY instructions are never guarded (R23). -/
def enParts (f : FmtW0) (w1 w2 : Word) : Parse EnParts :=
  zeroThen f.gn (zeroThen f.gp (.ok { md := f.md, g := .unpack w1, e := .unpack w2 }))

/-- mod16 zero. -/
def EnParts.plain (p : EnParts) (k : Parse Instr) : Parse Instr :=
  zeroThen p.md k

/-- A flag in mod16 bit 0, the rest zero. -/
def EnParts.flag (p : EnParts) (k : Bool → Parse Instr) : Parse Instr :=
  zeroThen (p.md.extractLsb' 1 15) (k (bitAt p.md 0))

/-- w and X26 zero. -/
def EnParts.noW (p : EnParts) (k : Parse Instr) : Parse Instr :=
  zeroThen p.e.w (zeroThen p.e.x26 k)

/-- X8, w and X26 zero. -/
def EnParts.noX (p : EnParts) (k : Parse Instr) : Parse Instr :=
  zeroThen p.g.x8 (p.noW k)

/-- Only t is used. -/
def EnParts.onlyT (p : EnParts) (k : Parse Instr) : Parse Instr :=
  zeroThen p.g.x (zeroThen p.g.y (zeroThen p.g.z (p.noX k)))

/-- t and x are used. -/
def EnParts.onlyX (p : EnParts) (k : Parse Instr) : Parse Instr :=
  zeroThen p.g.y (zeroThen p.g.z (p.noX k))

/-- t, x and y are used. -/
def EnParts.onlyXY (p : EnParts) (k : Parse Instr) : Parse Instr :=
  zeroThen p.g.z (p.noX k)

/-- COPY (R307). -/
def parseCopy (p : EnParts) : Parse Instr :=
  zeroThen (p.md.extractLsb' 6 10) (zeroThen p.g.x8 (zeroThen p.e.x26
  ((Hint.ofCode (p.md.extractLsb' 3 3)).bind fun hint =>
   pairOf p.g.x fun x => pairOf p.g.y fun y =>
   match (p.md.extractLsb' 1 2).toNat with
   | 0 => zeroThen p.g.z (zeroThen p.e.w (.ok (.copy (bitAt p.md 0) hint .noFlag p.g.t x y)))
   | 1 => pairOf p.g.z fun z => .ok (.copy (bitAt p.md 0) hint (.sem z p.e.w) p.g.t x y)
   | 2 => pairOf p.g.z fun z => pairOf p.e.w fun w => .ok (.copy (bitAt p.md 0) hint (.word z w) p.g.t x y)
   | _ => .error .reservedSelector)))

/-- The fields the matrix instructions share: y, z, X8 7:6 and word2 zero (R322). -/
def parseMx (p : EnParts) (k : Parse Instr) : Parse Instr :=
  zeroThen p.g.y (zeroThen p.g.z (zeroThen (p.g.x8.extractLsb' 6 2) (p.noW (zeroThen (p.md.extractLsb' 3 6) k))))

def parseMls (p : EnParts) : Parse Instr :=
  parseMx p (zeroThen p.g.x8 (zeroThen (p.md.extractLsb' 9 5)
    ((MxFmt.ofCode (p.md.extractLsb' 0 3)).bind fun f =>
     pairOf p.g.x fun x => .ok (.mls (p.md.extractLsb' 14 2) f p.g.t x))))

def parseMsw (p : EnParts) : Parse Instr :=
  parseMx p (zeroThen p.g.x8 (zeroThen p.g.x (zeroThen (p.md.extractLsb' 9 5) (zeroThen (p.md.extractLsb' 0 3)
    (.ok (.msw (p.md.extractLsb' 14 2) p.g.t))))))

def parseMza (p : EnParts) : Parse Instr :=
  parseMx p (zeroThen p.g.x8 (zeroThen p.g.x (zeroThen (p.md.extractLsb' 9 2) (zeroThen (p.md.extractLsb' 0 3)
    (.ok (.mza (p.md.extractLsb' 14 2) (p.md.extractLsb' 11 3) p.g.t))))))

/-- MST and MRED. -/
def parsePass (p : EnParts)
    (k : BitVec 2 → BitVec 3 → Bool → Bool → MxFmt → SReg → Pair → BitVec 6 → Instr) : Parse Instr :=
  parseMx p ((MxFmt.ofCode (p.md.extractLsb' 0 3)).bind fun f =>
    pairOf p.g.x fun x => .ok (k (p.md.extractLsb' 14 2) (p.md.extractLsb' 11 3) (bitAt p.md 10) (bitAt p.md 9) f
      p.g.t x (p.g.x8.extractLsb' 0 6)))

def parseMdr (p : EnParts) : Parse Instr :=
  parseMx p ((DrainFmt.ofCode (p.md.extractLsb' 0 3)).bind fun f =>
    pairOf p.g.x fun x => .ok (.mdr (p.md.extractLsb' 14 2) (p.md.extractLsb' 11 3) (bitAt p.md 10) (bitAt p.md 9) f
      p.g.t x (p.g.x8.extractLsb' 0 6)))

/-- DSTAT: the selector in mod16 2:0, y and z zero where unused (R355). -/
def parseDstat (p : EnParts) : Parse Instr :=
  let plain (sel : DstatSel) : Parse Instr := pairOf p.g.x fun x => p.onlyX (.ok (.dstat sel p.g.t x))
  zeroThen (p.md.extractLsb' 3 13)
  (match (p.md.extractLsb' 0 3).toNat with
   | 0 => plain .seq
   | 1 => plain .state
   | 2 => plain .nplaced
   | 3 => plain .ndrop
   | 4 => plain .nrecv
   | 5 => pairOf p.g.x fun x => p.onlyXY (.ok (.dstat (.fill p.g.y) p.g.t x))
   | 6 => pairOf p.g.x fun x => p.noX (.ok (.dstat (.gcount p.g.y p.g.z) p.g.t x))
   | _ => .error .reservedSelector)

/-- RESAMP: the weight in X26 9:0 (R363). -/
def parseResamp (p : EnParts) : Parse Instr :=
  p.plain (zeroThen p.g.y (zeroThen p.g.z (zeroThen p.g.x8 (zeroThen p.e.w (zeroThen (p.e.x26.extractLsb' 10 16)
    ((Src.ofCode (p.e.x26.extractLsb' 0 10)).map fun w => .resamp p.g.t p.g.x w))))))

/-- PSEED and PSEED.DIRECT (R372). -/
def parsePseed (p : EnParts) : Parse Instr :=
  p.flag fun direct =>
    if direct then p.onlyX (.ok (.pseedDirect p.g.t p.g.x))
    else p.onlyXY (pairOf p.g.x fun x => pairOf p.g.y fun y => .ok (.pseed p.g.t x y))

/-- An EN instruction, by op9 (R35). -/
def parseEn (op : BitVec 9) (p : EnParts) : Parse Instr :=
  match op.toNat with
  | 0x000 => parseCopy p
  | 0x001 => p.plain (p.onlyX (pairOf p.g.x fun x => .ok (.publish p.g.t x)))
  | 0x010 => parseMls p
  | 0x011 => parseMsw p
  | 0x012 => parsePass p .mst
  | 0x013 => parseMdr p
  | 0x014 => parseMza p
  | 0x015 => parsePass p .mred
  | 0x020 => p.plain (p.onlyX (pairOf p.g.x fun x => .ok (.dcnt p.g.t x)))
  | 0x021 => p.plain (p.onlyX (pairOf p.g.x fun x => .ok (.dplan p.g.t x)))
  | 0x022 => p.plain (p.onlyX (pairOf p.g.x fun x => .ok (.dscat p.g.t x)))
  | 0x023 => p.plain (p.onlyX (pairOf p.g.x fun x => .ok (.dgath p.g.t x)))
  | 0x024 => parseDstat p
  | 0x030 => parseResamp p
  | 0x031 => parsePseed p
  | 0x040 => p.flag fun ack => zeroThen p.g.x8 (zeroThen p.e.x26 (.ok (.mcast ack p.g.t p.g.x p.g.y p.g.z p.e.w)))
  | 0x041 => p.flag fun dev => if dev then p.onlyX (.ok (.rackDev p.g.t p.g.x)) else p.onlyT (.ok (.rack p.g.t))
  | 0x042 => zeroThen (p.md.extractLsb' 3 13) ((PeerSel.ofCode (p.md.extractLsb' 0 3)).bind fun sel =>
      p.onlyX (.ok (.peerq sel p.g.t p.g.x)))
  | 0x043 => p.flag fun self =>
      if self then p.onlyT (.ok (.locqSelf p.g.t)) else p.onlyX (pairOf p.g.x fun x => .ok (.locq p.g.t x))
  | _ => .error .reservedOpcode

/-- ACQ: OBS in mod16 bit 0, TOE in X8 bit 7 (R299). -/
def parseAcq (p : EnParts) : Parse Instr :=
  p.flag fun obs => zeroThen p.g.z (zeroThen (p.g.x8.extractLsb' 0 7) (p.noW (pairOf p.g.x fun x =>
    if bitAt p.g.x8 7 then
      if obs then .error .formNotAllowed else pairOf p.g.y fun y => .ok (.acq p.g.t x (some y))
    else zeroThen p.g.y (.ok (if obs then .acqObs p.g.t x else .acq p.g.t x none)))))

/-- One condition of WAIT from its kind, operand and immediate (R220). -/
def waitCondOf (kind : BitVec 3) (r : SReg) (i : BitVec 6) : Parse WaitCond :=
  match kind.toNat with
  | 0 => zeroThen r (zeroThen i (.ok .unused))
  | 1 => zeroThen i (.ok (.token r))
  | 2 => pairOf r fun p => .ok (.sem p i)
  | 3 => pairOf r fun p => zeroThen i (.ok (.time p))
  | 4 => pairOf r fun p => zeroThen (i.extractLsb' 1 5) (.ok (.bphase p (i.extractLsb' 0 1)))
  | 5 => zeroThen r (.ok (.rnEmpty i))
  | 6 => zeroThen r (.ok (.rnFull i))
  | _ => .error .reservedSelector

/-- WAIT (R220). -/
def parseWait (p : EnParts) : Parse Instr :=
  zeroThen (p.md.extractLsb' 12 3) (zeroThen (p.e.x26.extractLsb' 24 2)
  ((waitCondOf (p.md.extractLsb' 0 3) p.g.x (p.e.x26.extractLsb' 0 6)).bind fun c0 =>
   (waitCondOf (p.md.extractLsb' 3 3) p.g.y (p.e.x26.extractLsb' 6 6)).bind fun c1 =>
   (waitCondOf (p.md.extractLsb' 6 3) p.g.z (p.e.x26.extractLsb' 12 6)).bind fun c2 =>
   (waitCondOf (p.md.extractLsb' 9 3) p.e.w (p.e.x26.extractLsb' 18 6)).bind fun c3 =>
   let k (tout : Option Pair) : Parse Instr := .ok (.wait p.g.t
     { all := bitAt p.md 15, consume := bitAt p.g.x8 6, timeout := tout, c0 := c0, c1 := c1, c2 := c2, c3 := c3 })
   if bitAt p.g.x8 7 then pairOf (p.g.x8.extractLsb' 0 6) fun y => k (some y)
   else zeroThen (p.g.x8.extractLsb' 0 6) (k none)))

/-- An SY instruction, by op9 (R36). -/
def parseSy (op : BitVec 9) (p : EnParts) : Parse Instr :=
  match op.toNat with
  | 0x000 => p.plain (p.noX (pairOf p.g.x fun x => pairOf p.g.y fun y => pairOf p.g.z fun z => .ok (.bind p.g.t x y z)))
  | 0x001 => p.plain (p.onlyXY (pairOf p.g.x fun x => pairOf p.g.y fun y => .ok (.unbind p.g.t x y)))
  | 0x002 => parseAcq p
  | 0x003 => p.plain (p.onlyX (pairOf p.g.x fun x => .ok (.rel p.g.t x)))
  | 0x004 => zeroThen (p.md.extractLsb' 2 14) (zeroThen p.g.t (p.onlyT
      ((Scope.ofCode (p.md.extractLsb' 0 2)).map .fence)))
  | 0x005 => p.plain (p.onlyXY (pairOf p.g.x fun x => .ok (.seal p.g.t x p.g.y)))
  | 0x006 => p.plain (p.onlyXY (pairOf p.g.x fun x => .ok (.unseal p.g.t x p.g.y)))
  | 0x010 => p.plain (p.onlyX (pairOf p.g.x fun x => .ok (.arrive p.g.t x)))
  | 0x011 => p.plain (zeroThen p.g.x (zeroThen p.g.y (zeroThen p.g.z (zeroThen (p.g.x8.extractLsb' 2 6)
      (p.noW (.ok (.bar p.g.t (p.g.x8.extractLsb' 0 2))))))))
  | 0x012 => parseWait p
  | 0x013 => p.plain (p.onlyXY (pairOf p.g.x fun x => .ok (.semp p.g.t x p.g.y)))
  | 0x014 => p.plain (zeroThen p.g.y (zeroThen p.g.z (zeroThen (p.g.x8.extractLsb' 2 6)
      (p.noW (pairOf p.g.x fun x => .ok (.rpush p.g.t (p.g.x8.extractLsb' 0 2) x))))))
  | 0x015 => p.plain (p.onlyX (pairOf p.g.x fun x => .ok (.rtake p.g.t x)))
  | 0x020 => p.plain (zeroThen p.g.t (p.onlyT (.ok .rft)))
  | 0x021 => p.plain (zeroThen p.g.x (zeroThen p.g.y (zeroThen p.g.z (p.noW (pairOf p.g.t fun t =>
      (ControlReg.ofCode p.g.x8).map fun n => .csrr t n)))))
  | 0x022 => p.plain (zeroThen p.g.t (zeroThen p.g.y (zeroThen p.g.z (p.noW (pairOf p.g.x fun x =>
      (ControlReg.ofCode p.g.x8).map fun n => .csrw n x)))))
  | 0x023 => p.plain (zeroThen p.g.t (p.onlyT (.ok .haltg)))
  | 0x024 => p.plain (p.noX (pairOf p.g.x fun x => pairOf p.g.z fun z => .ok (.swapk p.g.t x p.g.y z)))
  | 0x028 => p.plain (p.onlyX (.ok (.snap p.g.t p.g.x)))
  | 0x029 => p.plain (p.onlyT (.ok (.txb p.g.t)))
  | 0x02A => p.plain (p.onlyT (.ok (.txc p.g.t)))
  | 0x02B => p.plain (p.onlyT (.ok (.txa p.g.t)))
  | _ => .error .reservedOpcode

/-! ### The decoder -/

/-- A 96-bit instruction, by its class (R22). -/
def parseLong (w0 w1 w2 : Word) : Parse Instr :=
  let f := FmtW0.unpack w0
  match f.cls.toNat with
  | 0 => (laParts f (.unpack w1) w2).bind fun p => parseLa f.op p
  | 1 => (lmParts f (.unpack w1) w2).bind fun p => parseLm f.op p
  | 2 => (enParts f w1 w2).bind fun p => parseEn f.op p
  | _ => (enParts f w1 w2).bind fun p => parseSy f.op p

/-- An instruction that parses and breaks no rule of WellFormed.lean. -/
def checked (r : Parse Instr) : Parse Instr :=
  r.bind fun i => match i.defect with
    | none => .ok i
    | some d => .error (.illFormed d)

/-- Bit 31 of the first word fixes the length (R12). -/
def isLong (w : Word) : Bool :=
  w.getLsbD 31

/-- The instruction that a whole number of words holds, or why they hold none. -/
def decode : List Word → Parse Instr
  | [w] => if isLong w then .error .wrongLength else checked (parseScalar w)
  | [w0, w1, w2] => if isLong w0 then checked (parseLong w0 w1 w2) else .error .wrongLength
  | _ => .error .wrongLength

/-- The words of an instruction of `nbits` bits numbered as spec/opcode_table.json numbers them: 32 bits, or 96 with
absent upper words zero. -/
def tableWords (nbits w : Nat) : List Word :=
  let bits := w % 2 ^ nbits
  let w0 := BitVec.ofNat 32 bits
  if isLong w0 then [w0, BitVec.ofNat 32 (bits >>> 32), BitVec.ofNat 32 (bits >>> 64)] else [w0]

/-- What the decoder reads from the instruction whose bits are `w`. -/
def decodeTableWord (nbits w : Nat) : Option Instr :=
  (decode (tableWords nbits w)).toOption

/-! ### The encoder -/

def encR (op : BitVec 6) (sd sa sb : BitVec 6) (fn : BitVec 7) : List Word :=
  [FmtR.pack ⟨op, sd, sa, sb, fn⟩]

def encQ (op : BitVec 6) (sd sa sb sc : BitVec 6) (v : BitVec 1) : List Word :=
  [FmtQ.pack ⟨op, sd, sa, sb, sc, v⟩]

def encI (op : BitVec 6) (sd sa : BitVec 6) (imm : BitVec 13) : List Word :=
  [FmtI.pack ⟨op, sd, sa, imm⟩]

def encU (op : BitVec 6) (sd : BitVec 6) (imm : BitVec 19) : List Word :=
  [FmtU.pack ⟨op, sd, imm⟩]

def encB (op : BitVec 6) (sel : BitVec 5) (n : BitVec 1) (off : BitVec 19) : List Word :=
  [FmtB.pack ⟨op, sel, n, off⟩]

def encM (op : BitVec 6) (st : BitVec 6) (b : BitVec 5) (imm : BitVec 14) : List Word :=
  [FmtM.pack ⟨op, st, b, imm⟩]

/-- An LA instruction from its header, immediate flag, modifier bits, source A, X9 and word2. -/
def encLa (op : BitVec 9) (h : LaHdr) (imm : Bool) (low : BitVec 13) (a : BitVec 10) (x9 : BitVec 9) (w2 : Word) :
    List Word :=
  [FmtW0.pack ⟨0#2, op, bit h.guard.neg, h.guard.p, ModLA.pack ⟨bit imm, h.rpt.code, low⟩⟩,
   FmtD.pack ⟨h.dst.code, h.dst.nwBit, h.lt, a, x9⟩, w2]

def Opnd.isImm : Opnd → Bool
  | .reg _ => false
  | .imm _ => true

/-- Word2 of `D, A, B`. -/
def Opnd.word2 : Opnd → Word
  | .reg b => FmtS.pack ⟨b.code, 0#10, 0#12⟩
  | .imm w => w

def encAB (op : BitVec 9) (low : BitVec 13) (x9 : BitVec 9) (h : LaHdr) (a : Src) (b : Opnd) : List Word :=
  encLa op h b.isImm low a.code x9 b.word2

def encABC (op : BitVec 9) (low : BitVec 13) (h : LaHdr) (a b c : Src) : List Word :=
  encLa op h false low a.code 0#9 (FmtS.pack ⟨b.code, c.code, 0#12⟩)

def encA (op : BitVec 9) (low : BitVec 13) (h : LaHdr) (a : Src) : List Word :=
  encLa op h false low a.code 0#9 0#32

/-- mod16 12:0 with one flag in bit 0. -/
def lowFlag (b : Bool) : BitVec 13 :=
  0#12 ++ bit b

/-- mod16 12:0 of the rounded float instructions. -/
def lowTypeRnd (t : FType) (r : Rnd) : BitVec 13 :=
  0#8 ++ (r.code ++ t.code)

/-- mod16 12:0 with the type alone. -/
def lowType (t : FType) : BitVec 13 :=
  0#10 ++ t.code

/-- mod16 12:0 of CVT and CVTB. -/
def lowCvt (top : BitVec 3) (r : Rnd) (src dst : CvtType) : BitVec 13 :=
  top ++ (r.code ++ (src.code ++ dst.code))

/-- Mode and K of POLL. -/
def PollMode.low : PollMode → BitVec 13
  | .someLane => 0#13
  | .everyLane => 1#13
  | .mask k => 0#9 ++ (k ++ 2#2)
  | .count => 3#13

/-- The type of FDOT2. -/
def fdotType (bf : Bool) : FType :=
  if bf then .bf16x2 else .f16x2

/-- The address fields of an LM instruction: LP, scale, A, b and imm17. -/
def LaneAddr.lp : LaneAddr → BitVec 1
  | .base _ _ _ _ => 0#1
  | .pair _ _ => 1#1

def LaneAddr.scaleCode : LaneAddr → BitVec 3
  | .base _ _ sc _ => sc.code
  | .pair _ _ => 0#3

def LaneAddr.aCode : LaneAddr → BitVec 10
  | .base _ i _ _ => i.code
  | .pair a _ => a.code

def LaneAddr.bCode : LaneAddr → BitVec 5
  | .base b _ _ _ => b
  | .pair _ _ => 0#5

def LaneAddr.disp : LaneAddr → BitVec 17
  | .base _ _ _ d => d
  | .pair _ d => d

def encLm (op : BitVec 9) (h : LmHdr) (size : BitVec 3) (sg : Bool) (low : BitVec 5) (d : Dst) (noD : Bool)
    (lt : BitVec 2) (x9 : BitVec 9) (s : BitVec 10) : List Word :=
  [FmtW0.pack ⟨1#2, op, bit h.guard.neg, h.guard.p,
     ModLM.pack ⟨h.addr.lp, size, bit sg, h.addr.scaleCode, h.hint.code, low⟩⟩,
   FmtD.pack ⟨d.code, if noD then 0#1 else d.nwBit, lt, h.addr.aCode, x9⟩,
   FmtM2.pack ⟨h.addr.bCode, s, h.addr.disp⟩]

def encT (cls : BitVec 2) (op : BitVec 9) (md : BitVec 16) (t x y z : BitVec 6) (x8 : BitVec 8) (w : BitVec 6)
    (x26 : BitVec 26) : List Word :=
  [FmtW0.pack ⟨cls, op, 0#1, 0#3, md⟩, FmtT.pack ⟨t, x, y, z, x8⟩, FmtW.pack ⟨w, x26⟩]

/-- An EN instruction that uses t, x, y and z at most. -/
def encEn (op : BitVec 9) (md : BitVec 16) (t x y z : BitVec 6) (x8 : BitVec 8 := 0#8) : List Word :=
  encT 2#2 op md t x y z x8 0#6 0#26

/-- An SY instruction that uses t, x, y and z at most. -/
def encSy (op : BitVec 9) (md : BitVec 16) (t x y z : BitVec 6) (x8 : BitVec 8 := 0#8) : List Word :=
  encT 3#2 op md t x y z x8 0#6 0#26

/-- mod16 with one flag in bit 0. -/
def mdFlag (b : Bool) : BitVec 16 :=
  0#15 ++ bit b

/-- mod16 of the matrix instructions (R322). -/
def mdMx (arr : BitVec 2) (acc : BitVec 3) (b10 b9 : Bool) (low : BitVec 3) : BitVec 16 :=
  arr ++ (acc ++ (bit b10 ++ (bit b9 ++ (0#6 ++ low))))

def mdCopy (hint : Hint) (flag : BitVec 2) (shadow : Bool) : BitVec 16 :=
  0#10 ++ (hint.code ++ (flag ++ bit shadow))

def WaitCond.kind : WaitCond → BitVec 3
  | .unused => 0#3
  | .token _ => 1#3
  | .sem _ _ => 2#3
  | .time _ => 3#3
  | .bphase _ _ => 4#3
  | .rnEmpty _ => 5#3
  | .rnFull _ => 6#3

def WaitCond.reg : WaitCond → BitVec 6
  | .unused | .rnEmpty _ | .rnFull _ => 0#6
  | .token k => k
  | .sem p _ | .time p | .bphase p _ => p.field

def WaitCond.imm : WaitCond → BitVec 6
  | .unused | .token _ | .time _ => 0#6
  | .sem _ n => n
  | .bphase _ b => 0#5 ++ b
  | .rnEmpty k | .rnFull k => k

def timeoutField : Option Pair → BitVec 6
  | some p => p.field
  | none => 0#6

def encWait (t : SReg) (w : WaitSpec) : List Word :=
  encT 3#2 0x012#9 (bit w.all ++ (0#3 ++ (w.c3.kind ++ (w.c2.kind ++ (w.c1.kind ++ w.c0.kind)))))
    t w.c0.reg w.c1.reg w.c2.reg (bit w.timeout.isSome ++ (bit w.consume ++ timeoutField w.timeout)) w.c3.reg
    (0#2 ++ (w.c3.imm ++ (w.c2.imm ++ (w.c1.imm ++ w.c0.imm))))

/-- The words of a well-formed instruction; a device step and the kill of an illegal word have none. -/
def encode : Instr → List Word
  | .add d a b => encR 0x00#6 d a b 0#7
  | .sub d a b => encR 0x00#6 d a b 1#7
  | .mul d a b => encR 0x00#6 d a b 2#7
  | .mulhS d a b => encR 0x00#6 d a b 3#7
  | .mulhZ d a b => encR 0x00#6 d a b 4#7
  | .divS d a b => encR 0x00#6 d a b 5#7
  | .divZ d a b => encR 0x00#6 d a b 6#7
  | .remS d a b => encR 0x00#6 d a b 7#7
  | .remZ d a b => encR 0x00#6 d a b 8#7
  | .minS d a b => encR 0x00#6 d a b 9#7
  | .minZ d a b => encR 0x00#6 d a b 10#7
  | .maxS d a b => encR 0x00#6 d a b 11#7
  | .maxZ d a b => encR 0x00#6 d a b 12#7
  | .addsS d a b => encR 0x00#6 d a b 13#7
  | .addsZ d a b => encR 0x00#6 d a b 14#7
  | .subsS d a b => encR 0x00#6 d a b 15#7
  | .and d a b => encR 0x00#6 d a b 16#7
  | .or d a b => encR 0x00#6 d a b 17#7
  | .xor d a b => encR 0x00#6 d a b 18#7
  | .andn d a b => encR 0x00#6 d a b 19#7
  | .orn d a b => encR 0x00#6 d a b 20#7
  | .xnor d a b => encR 0x00#6 d a b 21#7
  | .shl d a b => encR 0x00#6 d a b 24#7
  | .shr d a b => encR 0x00#6 d a b 25#7
  | .sra d a b => encR 0x00#6 d a b 26#7
  | .rol d a b => encR 0x00#6 d a b 27#7
  | .ror d a b => encR 0x00#6 d a b 28#7
  | .clz d a => encR 0x00#6 d a 0#6 32#7
  | .ctz d a => encR 0x00#6 d a 0#6 33#7
  | .popc d a => encR 0x00#6 d a 0#6 34#7
  | .brev d a => encR 0x00#6 d a 0#6 35#7
  | .bswap d a => encR 0x00#6 d a 0#6 36#7
  | .bext d a b c => encQ 0x01#6 d a b c 0#1
  | .bextS d a b c => encQ 0x01#6 d a b c 1#1
  | .bins d a b c => encQ 0x02#6 d a b c 0#1
  | .fshL d a b c => encQ 0x03#6 d a b c 0#1
  | .fshR d a b c => encQ 0x03#6 d a b c 1#1
  | .cmp k c a b => encR 0x04#6 c.field a b (0#4 ++ k.code)
  | .addD d a b => encR 0x05#6 d.field a.field b.field 0#7
  | .subD d a b => encR 0x05#6 d.field a.field b.field 1#7
  | .shlD d a b => encR 0x05#6 d.field a.field b 2#7
  | .shrD d a b => encR 0x05#6 d.field a.field b 3#7
  | .sraD d a b => encR 0x05#6 d.field a.field b 4#7
  | .mulwS d a b => encR 0x05#6 d.field a b 5#7
  | .mulwZ d a b => encR 0x05#6 d.field a b 6#7
  | .cand d a b => encR 0x06#6 d.field a.field b.field 0#7
  | .cor d a b => encR 0x06#6 d.field a.field b.field 1#7
  | .cxor d a b => encR 0x06#6 d.field a.field b.field 2#7
  | .cnot d a => encR 0x06#6 d.field a.field 0#6 3#7
  | .ctos d => encR 0x06#6 d 0#6 0#6 4#7
  | .stoc a => encR 0x06#6 0#6 a 0#6 5#7
  | .sel d k a b => encR 0x07#6 d a b (0#4 ++ k)
  | .addi d a i => encI 0x08#6 d a i
  | .andi d a i => encI 0x09#6 d a i
  | .ori d a i => encI 0x0A#6 d a i
  | .xori d a i => encI 0x0B#6 d a i
  | .shli d a i => encI 0x0C#6 d a (0#7 ++ i)
  | .shri d a i => encI 0x0D#6 d a (0#7 ++ i)
  | .srai d a i => encI 0x0E#6 d a (0#7 ++ i)
  | .muli d a i => encI 0x0F#6 d a i
  | .cmpi k c a i => encI 0x10#6 (k.code ++ c) a i
  | .addiD d a i => encI 0x11#6 d.field a.field i
  | .ldhi d i => encU 0x12#6 d i
  | .addpc d i => encU 0x13#6 d.field i
  | .getsr d n => encI 0x14#6 d 0#6 n.code
  | .setsr n a => encI 0x15#6 0#6 a n.code
  | .leaD d a b k => encR 0x16#6 d.field a.field b (0#4 ++ k)
  | .bc c o => encB 0x18#6 (0#2 ++ c) 0#1 o
  | .bcN c o => encB 0x18#6 (0#2 ++ c) 1#1 o
  | .bm o => encB 0x19#6 0#5 0#1 o
  | .bmN o => encB 0x19#6 0#5 1#1 o
  | .bany p o => encB 0x1A#6 (0#2 ++ p) 0#1 o
  | .banyN p o => encB 0x1A#6 (0#2 ++ p) 1#1 o
  | .ball p o => encB 0x1B#6 (0#2 ++ p) 0#1 o
  | .ballN p o => encB 0x1B#6 (0#2 ++ p) 1#1 o
  | .jmp o => [FmtJ.pack ⟨0x1C#6, o⟩]
  | .call o => [FmtJ.pack ⟨0x1D#6, o⟩]
  | .jmpr a => encR 0x1E#6 0#6 a.field 0#6 0#7
  | .callr a => encR 0x1E#6 0#6 a.field 0#6 1#7
  | .ret => encR 0x1E#6 0#6 62#6 0#6 0#7
  | .loop k o => encB 0x1F#6 k 0#1 o
  | .sldBS t b i => encM 0x20#6 t b i
  | .sldBZ t b i => encM 0x21#6 t b i
  | .sldHS t b i => encM 0x22#6 t b i
  | .sldHZ t b i => encM 0x23#6 t b i
  | .sldW t b i => encM 0x24#6 t b i
  | .sstB t b i => encM 0x26#6 t b i
  | .sstH t b i => encM 0x27#6 t b i
  | .sstW t b i => encM 0x28#6 t b i
  | .sldD t b i => encM 0x25#6 t.field b i
  | .sstD t b i => encM 0x29#6 t.field b i
  | .satom f d a b => encR 0x2A#6 d a.field b (0#2 ++ f.code)
  | .trap i => encU 0x30#6 0#6 i
  | .brk i => encU 0x31#6 0#6 i
  | .yield => encI 0x32#6 0#6 0#6 0#13
  | .illegalInstruction _ => []
  | .iadd h a b => encAB 0x000#9 0#13 0#9 h a b
  | .isub h a b => encAB 0x001#9 0#13 0#9 h a b
  | .imul h a b => encAB 0x002#9 0#13 0#9 h a b
  | .imulh h z a b => encAB 0x003#9 (lowFlag z) 0#9 h a b
  | .imad h a b c => encABC 0x004#9 0#13 h a b c
  | .imadw h z a b c => encABC 0x005#9 (lowFlag z) h a b c
  | .imin h z a b => encAB 0x006#9 (lowFlag z) 0#9 h a b
  | .imax h z a b => encAB 0x007#9 (lowFlag z) 0#9 h a b
  | .iabs h a => encA 0x008#9 0#13 h a
  | .iadds h z a b => encAB 0x009#9 (lowFlag z) 0#9 h a b
  | .isubs h z a b => encAB 0x00A#9 (lowFlag z) 0#9 h a b
  | .idot4 h za zb a b c => encABC 0x00B#9 (0#11 ++ (bit zb ++ bit za)) h a b c
  | .iand h a b => encAB 0x010#9 0#13 0#9 h a b
  | .ior h a b => encAB 0x011#9 0#13 0#9 h a b
  | .ixor h a b => encAB 0x012#9 0#13 0#9 h a b
  | .iandn h a b => encAB 0x013#9 0#13 0#9 h a b
  | .ibool3 h a b c tt => encABC 0x014#9 (0#5 ++ tt) h a b c
  | .ishl h a b => encAB 0x018#9 0#13 0#9 h a b
  | .ishr h a b => encAB 0x019#9 0#13 0#9 h a b
  | .isra h a b => encAB 0x01A#9 0#13 0#9 h a b
  | .irol h a b => encAB 0x01B#9 0#13 0#9 h a b
  | .ifsh h r a b c => encABC 0x01C#9 (lowFlag r) h a b c
  | .ibext h z a b => encAB 0x01D#9 (lowFlag z) 0#9 h a b
  | .ibins h a b c => encABC 0x01E#9 0#13 h a b c
  | .iperm h a b c => encABC 0x01F#9 0#13 h a b c
  | .iclz h a => encA 0x020#9 0#13 h a
  | .ictz h a => encA 0x021#9 0#13 h a
  | .ipopc h a => encA 0x022#9 0#13 h a
  | .ibrev h a => encA 0x023#9 0#13 h a
  | .icmp h k a b => encAB 0x028#9 (0#10 ++ k.code) 0#9 h a b
  | .laneSel h n k a b => encAB 0x029#9 (0#9 ++ (bit n ++ k)) 0#9 h a b
  | .iaddD h a b => encAB 0x030#9 0#13 0#9 h a b
  | .isubD h a b => encAB 0x031#9 0#13 0#9 h a b
  | .ileaD h z k a b => encAB 0x032#9 (0#9 ++ (bit z ++ k)) 0#9 h a b
  | .fadd h t r a b => encAB 0x080#9 (lowTypeRnd t r) 0#9 h a b
  | .fsub h t r a b => encAB 0x081#9 (lowTypeRnd t r) 0#9 h a b
  | .fmul h t r a b => encAB 0x082#9 (lowTypeRnd t r) 0#9 h a b
  | .ffma h t r np nc a b c => encABC 0x083#9 (0#6 ++ (bit nc ++ (bit np ++ (r.code ++ t.code)))) h a b c
  | .fmin h t a b => encAB 0x084#9 (lowType t) 0#9 h a b
  | .fmax h t a b => encAB 0x085#9 (lowType t) 0#9 h a b
  | .fcmp h t k a b => encAB 0x086#9 (0#5 ++ (k.code ++ (0#2 ++ t.code))) 0#9 h a b
  | .fclass h t a => encA 0x087#9 (lowType t) h a
  | .fdot2 h bf r a b c => encABC 0x088#9 (lowTypeRnd (fdotType bf) r) h a b c
  | .frcp h a => encA 0x090#9 0#13 h a
  | .frsq h a => encA 0x091#9 0#13 h a
  | .fsqrt h a => encA 0x092#9 0#13 h a
  | .fex2 h a => encA 0x093#9 0#13 h a
  | .flg2 h a => encA 0x094#9 0#13 h a
  | .fsin h a => encA 0x095#9 0#13 h a
  | .fcos h a => encA 0x096#9 0#13 h a
  | .ftanh h a => encA 0x097#9 0#13 h a
  | .cvt h dst src r e1 a b => encLa 0x100#9 h false (lowCvt (0#2 ++ bit e1) r src dst) a.code 0#9
      (FmtS.pack ⟨b.code, 0#10, 0#12⟩)
  | .cvtbApply h dst src r a b => encAB 0x101#9 (lowCvt 0#3 r src dst) 0#9 h a b
  | .cvtbScale h dst a => encA 0x101#9 (lowCvt 1#3 .rn .f32 dst) h a
  | .mov h (.reg a) => encLa 0x140#9 h false 0#13 a.code 0#9 0#32
  | .mov h (.imm w) => encLa 0x140#9 h true 0#13 0#10 0#9 w
  | .swz h m w a b => encAB 0x141#9 (0#11 ++ m.code) (0#6 ++ w.code) h a b
  | .poll h m a => encA 0x142#9 m.low h a
  | .lread h a b => encAB 0x143#9 0#13 0#9 h a b
  | .lwrite h a b => encAB 0x144#9 0#13 0#9 h a b
  | .plog h pa pb pc tt => encLa 0x145#9 h false (0#4 ++ (pc ++ (pb ++ pa))) 0#10 (0#1 ++ tt) 0#32
  | .pmovP h => encLa 0x146#9 h false 0#13 0#10 0#9 0#32
  | .pmovU h mask a => encA 0x146#9 (0#5 ++ (mask ++ 1#1)) h a
  | .pline h part => encLa 0x147#9 h false (0#11 ++ part.code) 0#10 0#9 0#32
  | .ld h sz sg d lt => encLm 0x000#9 h sz.code sg 0#5 d false lt 0#9 0#10
  | .st h sz s => encLm 0x001#9 h sz.code false 0#5 .nw true 0#2 0#9 s.code
  | .ldf h pos d lt => encLm 0x002#9 h 0#3 false (0#3 ++ pos) d false lt 0#9 0#10
  | .stf h pos s => encLm 0x003#9 h 0#3 false (0#3 ++ pos) .nw true 0#2 0#9 s.code
  | .atom h op sz d lt s => encLm 0x004#9 h sz.code false op.code d false lt 0#9 s.code
  | .ldl h sz sg d lt => encLm 0x008#9 h sz.code sg 0#5 d false lt 0#9 0#10
  | .stl h sz s => encLm 0x009#9 h sz.code false 0#5 .nw true 0#2 0#9 s.code
  | .atoml h op sz d lt s => encLm 0x00A#9 h sz.code false op.code d false lt 0#9 s.code
  | .ldx h sz s bar => encLm 0x010#9 h sz.code false 0#5 .nw true 0#2 (0#3 ++ bar.field) s.code
  | .prf h => encLm 0x011#9 h 0#3 false 0#5 .nw true 0#2 0#9 0#10
  | .copy sh hint .noFlag t x y => encEn 0x000#9 (mdCopy hint 0#2 sh) t x.field y.field 0#6
  | .copy sh hint (.sem z w) t x y => encT 2#2 0x000#9 (mdCopy hint 1#2 sh) t x.field y.field z.field 0#8 w 0#26
  | .copy sh hint (.word z w) t x y => encT 2#2 0x000#9 (mdCopy hint 2#2 sh) t x.field y.field z.field 0#8 w.field 0#26
  | .publish t x => encEn 0x001#9 0#16 t x.field 0#6 0#6
  | .mls arr f t x => encEn 0x010#9 (mdMx arr 0#3 false false f.code) t x.field 0#6 0#6
  | .msw arr t => encEn 0x011#9 (mdMx arr 0#3 false false 0#3) t 0#6 0#6 0#6
  | .mst arr acc neg ovw f t x row => encEn 0x012#9 (mdMx arr acc neg ovw f.code) t x.field 0#6 0#6 (0#2 ++ row)
  | .mdr arr acc ad sh f t x row => encEn 0x013#9 (mdMx arr acc ad sh f.code) t x.field 0#6 0#6 (0#2 ++ row)
  | .mza arr acc t => encEn 0x014#9 (mdMx arr acc false false 0#3) t 0#6 0#6 0#6
  | .mred arr acc neg ovw f t x row => encEn 0x015#9 (mdMx arr acc neg ovw f.code) t x.field 0#6 0#6 (0#2 ++ row)
  | .dcnt t x => encEn 0x020#9 0#16 t x.field 0#6 0#6
  | .dplan t x => encEn 0x021#9 0#16 t x.field 0#6 0#6
  | .dscat t x => encEn 0x022#9 0#16 t x.field 0#6 0#6
  | .dgath t x => encEn 0x023#9 0#16 t x.field 0#6 0#6
  | .dstat .seq t x => encEn 0x024#9 0#16 t x.field 0#6 0#6
  | .dstat .state t x => encEn 0x024#9 1#16 t x.field 0#6 0#6
  | .dstat .nplaced t x => encEn 0x024#9 2#16 t x.field 0#6 0#6
  | .dstat .ndrop t x => encEn 0x024#9 3#16 t x.field 0#6 0#6
  | .dstat .nrecv t x => encEn 0x024#9 4#16 t x.field 0#6 0#6
  | .dstat (.fill y) t x => encEn 0x024#9 5#16 t x.field y 0#6
  | .dstat (.gcount y z) t x => encEn 0x024#9 6#16 t x.field y z
  | .resamp t x w => encT 2#2 0x030#9 0#16 t x 0#6 0#6 0#8 0#6 (0#16 ++ w.code)
  | .pseed t x y => encEn 0x031#9 0#16 t x.field y.field 0#6
  | .pseedDirect t x => encEn 0x031#9 1#16 t x 0#6 0#6
  | .mcast ack t x y z w => encT 2#2 0x040#9 (mdFlag ack) t x y z 0#8 w 0#26
  | .rack t => encEn 0x041#9 0#16 t 0#6 0#6 0#6
  | .rackDev t x => encEn 0x041#9 1#16 t x 0#6 0#6
  | .peerq sel t x => encEn 0x042#9 (0#13 ++ sel.code) t x 0#6 0#6
  | .locq t x => encEn 0x043#9 0#16 t x.field 0#6 0#6
  | .locqSelf t => encEn 0x043#9 1#16 t 0#6 0#6 0#6
  | .bind t x y z => encSy 0x000#9 0#16 t x.field y.field z.field
  | .unbind t x y => encSy 0x001#9 0#16 t x.field y.field 0#6
  | .acq t x none => encSy 0x002#9 0#16 t x.field 0#6 0#6
  | .acq t x (some y) => encSy 0x002#9 0#16 t x.field y.field 0#6 0x80#8
  | .acqObs t x => encSy 0x002#9 1#16 t x.field 0#6 0#6
  | .rel t x => encSy 0x003#9 0#16 t x.field 0#6 0#6
  | .fence sc => encSy 0x004#9 (0#14 ++ sc.code) 0#6 0#6 0#6 0#6
  | .seal t x y => encSy 0x005#9 0#16 t x.field y 0#6
  | .unseal t x y => encSy 0x006#9 0#16 t x.field y 0#6
  | .arrive t x => encSy 0x010#9 0#16 t x.field 0#6 0#6
  | .bar t k => encSy 0x011#9 0#16 t 0#6 0#6 0#6 (0#6 ++ k)
  | .wait t w => encWait t w
  | .semp t x y => encSy 0x013#9 0#16 t x.field y 0#6
  | .rpush t k x => encSy 0x014#9 0#16 t x.field 0#6 0#6 (0#6 ++ k)
  | .rtake t x => encSy 0x015#9 0#16 t x.field 0#6 0#6
  | .rft => encSy 0x020#9 0#16 0#6 0#6 0#6 0#6
  | .csrr t n => encSy 0x021#9 0#16 t.field 0#6 0#6 0#6 n.code
  | .csrw n x => encSy 0x022#9 0#16 0#6 x.field 0#6 0#6 n.code
  | .haltg => encSy 0x023#9 0#16 0#6 0#6 0#6 0#6
  | .swapk t x y z => encSy 0x024#9 0#16 t x.field y z.field
  | .snap t x => encSy 0x028#9 0#16 t x 0#6 0#6
  | .txb t => encSy 0x029#9 0#16 t 0#6 0#6 0#6
  | .txc t => encSy 0x02A#9 0#16 t 0#6 0#6 0#6
  | .txa t => encSy 0x02B#9 0#16 t 0#6 0#6 0#6
  | .issueSelection _ _ | .promotion _ | .dataReturn _ _ | .doorbell _ _ _ | .qcmdWrite _ | .qcmdRead _
  | .dequeue _ _ | .crewPlacement _ _ | .timedStart _ | .watchdog _ | .launchEnd _ | .graphNodeDequeue _ _
  | .waitRound _ | .waitTimeout _ | .acqRetry _ | .acqTimeout _ | .ldxByteLanding _ | .copyCompletion _
  | .publishToggle _ | .arrayStateSwap _ _ | .mlsFill _ | .mswExchange _ | .mstPass _ _ | .mredPass _ _
  | .mzaClear _ | .mdrDrain _ | .mdrCompletion _ | .dplanCountsArrived _ | .dplanInvtagsArrived _
  | .dscatScatbAddition _ | .dgathGathtagsArrived _ | .collectivePerformance _ | .quiesce _
  | .ltcmdWriteEntry _ | .ltcmdReadEntry _ | .ltcmdWritePageMap _ | .windowCarve _ _ _ _
  | .faultRecordWrite _ | .fqcmdResume _ _ _ | .fqcmdFail _ _ | .fqctlWrite _ _ | .fqbaseWrite _ _
  | .fqnotifyWrite _ _ | .rollback _ _ | .preemption _ _ | .save _ | .crewResumption _ _
  | .drainBoundExpiry _ | .transactionPhase2 _ | .snapcmdRestore _ _ | .snapcmdFree _ _ | .linkError _
  | .linkLost _ | .dieFailure _ | .ctrclr _ _ | .slotBoundary _ _ | .writeFlit _ | .readFlit _
  | .readrespFlit _ | .atomicFlit _ _ _ | .atomrespFlit _ | .ackFlit _ _ | .mcastFlit _ _ _ | .drainFlit _ _
  | .timesyncFlit _ _ | .keyFlit _ _ | .rekey _ | .heaterEndOfRange _ _ | .colourRelock _ _
  | .coalescerTimeout _ | .relayFlitForward _ | .egressQueueSend _ _ | .egressSpaceFreed _
  | .poolRateWindow _ | .timeBaseLost | .peerSuspect _ | .rcctlArm _ | .rcctlCancel | .reconfigurationT
  | .switchBoundary _ | .darkEnd _ | .relockComplete _ | .relockTimeout _ | .packageReset _
  | .packagePowerLoss | .idleEntry | .parkedRequest | .activeWake | .powerCapWindow _
  | .thermalStepDown _ _ _ | .thermtrip _ _ _ | .dbgctlHalt _ _ | .dbgctlRun _ _ | .registerWrite _ _ _
  | .writePerformed _ | .operationCompletion _ | .slotGuard _ | .flitDiscarded _ _ | .relayTransit _
  | .fabricPathFailure _ | .windowReturn _ _ _ _ | .interfaceControlWrite _ _ _ | .allocationChange _ _ _
  | .groupTableWrite _ _ | .thermalRelease _ _ _ => []

/-- The bytes of words as they lie in memory, the first word lowest, each little-endian (R11). -/
def wordBytes : List Word → List Byte
  | [] => []
  | w :: ws => w.extractLsb' 0 8 :: w.extractLsb' 8 8 :: w.extractLsb' 16 8 :: w.extractLsb' 24 8 :: wordBytes ws

/-- The word of four bytes, lowest address first (R4). -/
def wordOfBytes (b0 b1 b2 b3 : Byte) : Word :=
  b3 ++ (b2 ++ (b1 ++ b0))

/-- Whether an instruction is a device step, which no word of a program encodes. -/
def Instr.isStep (i : Instr) : Bool :=
  (encode i).isEmpty

end Sys2Proof
end

