-- ==== Sys2Proof/Config.lean ====
section
/-! DEFINITION. What the manual leaves open: free values. Each is an opaque constant applied to a counter of the state,
so that no proof can see a value of it. -/

namespace Sys2Proof.Config

/-- How many reference ticks pass in a step of the machine: the manual fixes no latency (00_scope.md R7, R82, R213). -/
opaque ticks : Nat → Nat

/-- The value of a counter whose events the manual does not decide (DCHIT, DCMISS, LINKBYTES: 17 R427). -/
opaque counterValue : Nat → BitVec 64

/-- A byte whose value the manual leaves open: a byte read from memory that lost its content, or the part of a saved
context whose layout is not given (15 R390). -/
opaque freeByte : Nat → BitVec 8

/-- A 64-bit value that the manual leaves open. -/
opaque freeWord : Nat → BitVec 64

/-- A choice between two allowed outcomes (02 R79, 11 R310). -/
opaque choice : Nat → Bool

/-- The measured thermal and electrical readings (20 R472, R473). -/
opaque reading : Nat → BitVec 64

/-- The bandwidth limit of a pool, in bytes per window of 1,024 ticks, which the operating firmware sets (18 R442, R443). -/
opaque poolLimit : Nat → Nat

/-- Whether another device has a crew at a scratchpad byte, or has carved a window unit, at this moment: the key names the
byte (08 R228, R479). -/
opaque peerHolds : Nat → Nat → Bool

/-- Whether a die of another device is live and not fenced at this moment: the key is four times the number of the device's
tables plus the die (09 R260, 17 R418). -/
opaque peerDie : Nat → Nat → Bool

/-- Which of the words that a gang has overwritten at this key, or the present one, a fetch of it finds (02 R79). -/
opaque staleWord : Nat → Nat → Nat

/-- The byte that the home of another device, pool or host holds under this key at this moment (08 R223, 10 R286). -/
opaque peerByte : Nat → Nat → BitVec 8

/-- Whether the sector of this number, at another device or pool, holds uncorrectable data at this moment (08 R481). -/
opaque peerPoisoned : Nat → Nat → Bool

/-- Whether the granule of this number of another device's HBM is sealed at this moment (08 R251). -/
opaque peerSealed : Nat → Nat → Bool

end Sys2Proof.Config
end

