-- ==== Sys2Proof/Machine/State.lean ====
section
/-! DEFINITION. The state of one D9 device as plain data. Every structure names the rules of spec/ whose state it holds.
A field marked `model` is the model's own: it orders steps or names operations, and the manual has no such register. -/

namespace Sys2Proof.Machine

/-- Why a step of the machine can stop. -/
inductive Fault where
  /-- The package has no power (20 R470): nothing steps until a package reset. Raised by `step`. Safe. -/
  | noPower
  deriving DecidableEq, Repr

/-- Why an instruction has no meaning. -/
inductive Refusal where
  /-- The instruction's meaning is not written. Raised by the arms of Dispatch.lean. Safe. -/
  | notModelled (mnemonic : String)
  deriving DecidableEq, Repr

/-- Where an entry stands: level code, instance, interface and label (09 R258). -/
structure EntryKey where
  level : Nat
  inst : Nat
  iface : Nat
  label : Nat
  /-- 0 for this device's own tables, 1 + d for the ingress tables of device d. -/
  dev : Nat
  deriving DecidableEq, Repr

/-! ### Lanes and gangs -/

/-- One 32-bit value per lane (R90). -/
abbrev LaneReg := Vector Word 96

/-- One 64-bit value per lane (R91, R360). -/
abbrev Lane64 := Vector DWord 96

/-- A home of a byte or register (08 R223, 09 R263). `peer` is another device's place, reached over the fabric. -/
inductive Place where
  | hbm (phys : Nat)
  | scratch (core off : Nat)
  | window (die byte : Nat)
  | mmio (iface off : Nat)
  | pool (pool phys : Nat)
  | host (adapter addr : Nat)
  | peerHbm (dev phys : Nat)
  | peerScratch (dev core off : Nat)
  | peerWindow (dev die byte : Nat)
  | param (launch off : Nat)
  deriving DecidableEq, Repr

/-- A fault as an instruction or engine meets it: kind, level, instance and WHERE (15 R377, R378), and the
home of uncorrectable data, for the self-test of 16 R399. -/
structure FaultInfo where
  kind : Nat
  level : Nat
  inst : Nat
  pointer : DWord
  lanes : LaneMask
  whr : LaneMask
  home : Option Place
  deriving DecidableEq, Repr

/-- The scalar state of a gang (02 R44 to R53, 15 R384). -/
structure Scalars where
  regs : Vector Word 64
  conds : BitVec 8
  pc : DWord
  fpFlags : BitVec 5
  divZero : Bool
  latchLost : Bool
  timeCapture : Option DWord
  tvec : DWord
  handler : Bool
  trapPc : DWord
  trapCode : Word
  deriving DecidableEq, Repr

/-- The lane state of a gang (03 R86 to R95, 14 R360). `v`, `o` and `l` list the registers that are not all zero.
Predicate 0 is the constant true and its slot of `preds` is never read. -/
structure Lanes where
  present : LaneMask
  live : LaneMask
  preds : Vector LaneMask 8
  v : List (Nat × LaneReg)
  o : List (Nat × LaneReg)
  l : List (Nat × Lane64)
  latchValid : BitVec 4
  lineage : Lane64
  deriving DecidableEq, Repr

/-- The scoreboard of a gang (03 R93, 11 R312, 12 R333). `pending` lists the registers whose producer has not finished,
`marked` those whose latest writer is an LM, SLD, SATOM or EN instruction, `unread` the token registers that no
instruction has read since their EN instruction, `poisoned` those that hold an unconsumed 0x20 or 0x21 of MDR or MRED,
with that instruction's PC and the home of the uncorrectable data, and `lost` those whose remote load was discarded, with its pointer (19 R461). -/
structure Board where
  pending : List RegRef
  marked : List RegRef
  unread : List SReg
  poisoned : List (SReg × DWord × Option Place)
  lost : List (RegRef × DWord)
  deriving DecidableEq, Repr

/-- A REL or SEMP past its checks that waits for the writes it covers (10 R300, 07 R217): its result register, the binder's home
and the page-map entries that reached it, the first and last pointers of the bound regions, whether it waits for the gang's
remote writes, and the count that a SEMP adds. -/
structure Releasing where
  t : SReg
  bytes : List Place
  pages : List Nat
  regions : List (DWord × DWord)
  remote : Bool
  add : Option Word
  ptr : DWord
  route : Nat × DWord
  deriving DecidableEq, Repr

/-- What a gang that does not issue is waiting for. -/
inductive Run where
  /-- Ready to issue (07 R213). -/
  | ready
  /-- The scoreboard wait of R93 on these registers. -/
  | board (rs : List RegRef)
  /-- At no switch point: a write of registers whose loads are in flight (log entry 14). -/
  | hazard (rs : List RegRef)
  /-- Earlier writes of the gang (R301, R300, R217, R248, R252); `remote` adds acknowledgements. -/
  | drain (remote : Bool)
  /-- REL or SEMP at its wait, past its checks (R217, R300). -/
  | release (x : Releasing)
  /-- BAR in this slot (R216). -/
  | band (t : SReg) (slot : Nat)
  /-- WAIT with its deadline fixed at first issue (R221). -/
  | wait (t : SReg) (w : WaitSpec) (deadline : Option Nat)
  /-- ACQ, with its deadline and the order in which it reached the home (R299). -/
  | acq (t : SReg) (x : Pair) (deadline : Option Nat) (order : Nat)
  /-- Parked on a fault record (15 R382), named by the model's record number. -/
  | parked (record : Nat)
  /-- Arrived at a collective (14 R364), with the status register, its N and the weight register. -/
  | sieve (t : SReg) (n : Word) (w : Src)
  /-- No live lane (14 R371), with the status register of its RESAMP. -/
  | noLive (t : SReg)
  /-- Egress space (18 R440). -/
  | egress
  /-- A saved crew's scratchpad (08 R228). -/
  | savedScratch
  /-- The core's arrays hold another crew's state (12 R320). -/
  | arrays
  /-- A lookup of an entry being quiesced (09 R277). -/
  | quiesce
  /-- SEAL or UNSEAL with steps still to come, its status register and the granules changed so far (08 R252). -/
  | sealing (t : SReg) (n : Nat)
  /-- A journalled TXC whose participants have not all applied it (16 R410), with its status register. -/
  | commit (t : SReg)
  /-- A comparison point of Plumb (16 R405). -/
  | compare
  /-- Stopped at a switch point for a save, a flush or a debugger (15 R391, R392, 20 R477); its instruction has had no
  effect. -/
  | stopped
  /-- Ended by HALTG, FAIL or the watchdog (15 R387). -/
  | ended
  /-- Killed (01 R39). -/
  | killed
  deriving DecidableEq, Repr

/-- A remote write or atomic of a gang, by the model's operation number, and its device (10 R484). -/
structure RemoteOp where
  id : Nat
  dev : Nat
  deriving DecidableEq, Repr

/-- The state that schedules a gang (02 R74, 07 R213) and counts for it (15 R386). `reissue` and `finish` are the model's: the
gang waits inside an instruction that has been counted as issued, and that instruction had a request in a quiesce, so it completes
before a save (09 R280). -/
structure Sched where
  run : Run
  yieldPending : Bool
  deferred : Bool
  notIssued : Nat
  promoted : Option Nat
  age : Nat
  pipe : Nat
  reissue : Bool
  finish : Bool
  resumes : Nat
  lastFault : DWord
  issued : Nat
  deriving DecidableEq, Repr

/-- Model: what a gang's issue counter, promotion and deferral were before the latest selection of its pipe (07 R213). -/
structure Pick where
  ref : GangRef
  notIssued : Nat
  promoted : Option Nat
  deferred : Bool
  deriving DecidableEq, Repr

/-- Why a transaction is marked (16 R408). -/
inductive TxMark where
  | cut | conflicted | reserveShort | oversized
  deriving DecidableEq, Repr

/-- A transaction's copy of a granule of this device: the page of HBM that holds it, and the interface whose reserve the page is of
(16 R408). -/
structure TxCopy where
  granule : Nat
  page : Nat
  iface : Nat
  deriving DecidableEq, Repr

/-- The open transaction of a gang (16 R408 to R410): the granules it has copied, by memory key / 65,536, where the copies on this
device lie, the bytes written in other devices' granules, and the page-map entries its writes used. -/
structure Txn where
  serial : Nat
  granules : List Nat
  copies : List TxCopy
  far : List (Nat × Byte)
  pages : List Nat
  mark : Option TxMark
  deriving DecidableEq, Repr

/-- An item of the store signature that waits to be folded: a value, or the values that an operation still has to give
(16 R404). -/
inductive SigItem where
  | val (v : DWord)
  | hole (op : Nat)
  deriving DecidableEq, Repr

/-- The Plumb state of a gang (16 R404 to R407): the store-stream signature, and the items that wait behind one that is
not known yet; the count of comparison points since entry
and whether the present one has been passed; the bytes in the store buffer; the count of instructions whose value the
primary delivers, and the values delivered, by that count; and a fault that waits for the twin's. -/
structure PlumbCtx where
  sig : DWord
  late : List SigItem
  points : Nat
  passed : Bool
  buffered : Nat
  serial : Nat
  inbox : List (Nat × List DWord)
  faulted : Option (FaultInfo × DWord)
  deriving DecidableEq, Repr

/-- One gang (03 R81) with all that its saved context holds (15 R390). -/
structure Gang where
  ref : GangRef
  sc : Scalars
  la : Lanes
  bd : Board
  sch : Sched
  /-- Band numbers in slots b0 to b3 (R100). -/
  bands : List Nat
  /-- Binders held (R302), as their homes. -/
  held : List Place
  /-- Remote writes and atomics not yet acknowledged, and those discarded and unreported (R484). -/
  unacked : List RemoteOp
  discarded : List RemoteOp
  /-- The stage of a STAGED launch (R210). -/
  stage : Nat
  /-- The SHADOWED code landing of the gang and the half of it that fetches use (16 R412). -/
  fetchHalf : Option (EntryKey × Bool)
  /-- Model: words that the gang's own stores have overwritten, by the key of their first byte: a fetch may still find them (02
  R79). -/
  oldWords : List (Nat × Word)
  /-- Lanes whose register image holds uncorrectable data (14 R374). -/
  badLanes : LaneMask
  txn : Option Txn
  txSerial : Nat
  plumb : PlumbCtx
  deriving DecidableEq, Repr

/-! ### Crews, launches -/

/-- The error of a plane or accumulator (12 R318), with the home of uncorrectable data for the self-test of 16 R399. -/
structure ArrErr where
  kind : Nat
  level : Nat
  inst : Nat
  home : Option Place
  deriving DecidableEq, Repr

/-- A plane element: an exact value `± m · 2^e`, an infinity, or not a number (12 R318). -/
inductive Elem where
  | fin (neg : Bool) (m : Nat) (e : Int)
  | inf (neg : Bool)
  | nan
  deriving DecidableEq, Repr

/-- A stationary plane (12 R318): the elements that are not +0, keyed k × 32 + n. -/
structure Plane where
  fmt : MxFmt
  err : ArrErr
  elems : List (Nat × Elem)
  deriving DecidableEq, Repr

/-- An accumulator (12 R318): the words that are not +0, keyed m × 32 + n. -/
structure Accum where
  err : ArrErr
  cells : List (Nat × Word)
  deriving DecidableEq, Repr

/-- One matrix array of a crew (12 R318). -/
structure MxArray where
  active : Plane
  shadow : Plane
  accs : Vector Accum 8
  deriving DecidableEq, Repr

/-- Where a crew is (07 R198, 15 R388). -/
inductive CrewSite where
  | unplaced
  | resident (core base : Nat)
  | saved (core base : Nat)
  | ended
  deriving DecidableEq, Repr

/-- Whether and how a crew is being pre-empted (15 R388, R389): when a drain turns into a save. -/
inductive Preempt where
  | no
  | drain (deadline : Option Nat)
  | save
  | flush
  deriving DecidableEq, Repr

/-- One crew (03 R84, 15 R386, R390, 12 R318). -/
structure Crew where
  ref : CrewRef
  site : CrewSite
  /-- Scratchpad bytes saved with a crew that is not resident, as offsets and values, and its poisoned sectors as offsets / 32. -/
  savedBytes : List Host.Cell
  savedPoison : List Nat
  stageCounts : List Nat
  drainEst : DWord
  saves : Nat
  resident : Nat
  arrays : Vector MxArray 4
  /-- The crew has issued a matrix instruction since its placement (15 R390); its core's arrays hold its state (12 R320). -/
  usedMatrix : Bool
  holdsArrays : Bool
  preempt : Preempt
  placedOnce : Bool
  deriving DecidableEq, Repr

/-- A band of a launch (03 R98, 07 R216). -/
structure Band where
  members : List (Nat × Nat)
  oneCrew : Bool
  phase : Word
  arrived : List (Nat × Nat)
  deriving DecidableEq, Repr

/-- A stage of a STAGED launch (07 R209). -/
structure Stage where
  entry : DWord
  ring : Nat
  roles : BitVec 6
  minGangs : Nat
  maxGangs : Nat
  deriving DecidableEq, Repr

/-- The population state (14 R361). -/
structure Population where
  pend : Bool
  pval : Word
  serial : Nat
  ctr : BitVec 128
  deriving DecidableEq, Repr

/-- A collective that a Plumb launch's first copies have performed: r, the SERIAL before it and the cores of their crews (14
R374). -/
structure Sieved where
  r : Word
  serial : Nat
  cores : List (Nat × Nat)
  deriving DecidableEq, Repr

/-- The launch error record (01 R42). -/
structure ErrRec where
  killPc : DWord
  crew : Nat
  gang : Nat
  count : Nat
  reason : Nat
  kind : Nat
  deriving DecidableEq, Repr

/-- A launch packet as it is read at dequeue (07 R186, R187). -/
structure Packet where
  kind : Nat
  priority : Nat
  flags : BitVec 8
  code : DWord
  crews : Nat
  gangs : Nat
  vregs : Nat
  lastLanes : Nat
  scratch : Nat
  params : DWord
  paramBytes : Nat
  bands : DWord
  stages : DWord
  start : DWord
  watchdog : DWord
  bound : DWord
  done : DWord
  doneValue : DWord
  seed : DWord
  deriving DecidableEq, Repr

/-- Where a launch stands: running, stopped with a status that its end will report (15 R383, 07 R214), stopped for a
rollback (16 R398) for this fault kind, the gang that met it and its home, or ended. -/
inductive LaunchPhase where
  | running
  | failing (status : Nat)
  | rolling (kind : Nat) (g : GangRef) (home : Option Place)
  | ended
  deriving DecidableEq, Repr

/-- The Undercoat snapshot of a launch (16 R394 to R400): the pages of its set as ranges of 64 KiB granules, the granules
copied with the reserve pages of their copies, those first written without a copy, the seal bits that the launch changed and the SELs
it toggled, as they were. -/
structure Snapshot where
  set : List (Nat × Nat)
  copied : List (Nat × Nat)
  missed : List Nat
  seals : List (Nat × Bool)
  sels : List (EntryKey × Bool)
  nonReplayable : Bool
  replays : Nat
  deriving DecidableEq, Repr

/-- A patch of a graph replay (07 R207). -/
structure Patch where
  node : Nat
  offset : Nat
  bytes : List Byte
  deriving DecidableEq, Repr

/-- One launch (07). A graph node has its replay in `graph`. -/
structure Launch where
  seq : Nat
  iface : Nat
  queue : Nat
  slot : Nat
  graph : Option (Nat × Nat)
  packet : Packet
  phase : LaunchPhase
  /-- Crew index of the next crew never placed. -/
  nextCrew : Nat
  err : ErrRec
  /-- Kills in kill order: tick, crew, gang (07 R204). -/
  firstKill : Option (Nat × Nat × Nat)
  params : List Byte
  bandList : List Band
  stageList : List Stage
  population : Option Population
  /-- Collectives of a Plumb launch's first copies that the second copies have not performed yet (14 R374). -/
  sieved : List Sieved
  watch : Nat
  started : Bool
  halted : Bool
  /-- Where the contexts of a halted launch are still to be written (20 R477). -/
  dump : Option DWord
  snapshot : Option Snapshot
  /-- Committed transactions of the launch: crew, gang, serial (16 R411). -/
  journal : List (Nat × Nat × Nat)
  /-- The round-robin turn (07 R198). -/
  turn : Nat
  deriving DecidableEq, Repr

/-- A graph replay (07 R205 to R207). -/
structure Replay where
  iface : Nat
  queue : Nat
  slot : Nat
  seq : Nat
  /-- The memory key of the graph object's header. -/
  header : Nat
  packet : Packet
  nodes : Nat
  nodePtr : DWord
  edges : List (Nat × Nat)
  patches : List Patch
  /-- Nodes that have ended, with status and error record. -/
  done : List (Nat × Nat × ErrRec)
  /-- The replay was in flight when a link was lost (17 R417). -/
  discarded : Bool
  /-- Nodes that run, with their launch numbers. -/
  running : List (Nat × Nat)
  deriving DecidableEq, Repr

/-! ### Engine operations -/

/-- A shape record (11 R304). -/
structure ShapeRec where
  base : DWord
  esize : Nat
  rank : Nat
  stride0 : Int
  stride1 : Int
  stride2 : Int
  ext0 : Nat
  ext1 : Nat
  ext2 : Nat
  clip0 : Nat
  clip1 : Nat
  clip2 : Nat
  deriving DecidableEq, Repr

/-- The flag of a COPY with its operands read at issue (11 R311). -/
inductive OpFlag where
  | noFlag
  | sem (ptr : DWord) (count : Word)
  | word (ptr : DWord) (value : DWord)
  deriving DecidableEq, Repr

/-- The fields of a dispatch group descriptor (13 R337). -/
structure Descriptor where
  word0 : DWord
  word1 : DWord
  nexp : Nat
  k : Nat
  myRank : Nat
  npart : Nat
  pass : Bool
  renorm : Bool
  cap : Nat
  rowBytes : Nat
  mySlots : Nat
  ntok : Nat
  part : DWord
  emap : DWord
  ctx : DWord
  route : DWord
  rows : DWord
  out : DWord
  deriving DecidableEq, Repr

/-- The stage of a collective dispatch operation (13 R351, R354): which arrivals it waits for. -/
inductive DispStage where
  | start | counts | tags
  deriving DecidableEq, Repr

/-- One copied byte of an LDX (08 R247): its destination, its value, and whether its source was uncorrectable. -/
structure LdxByte where
  dst : Place
  val : Byte
  bad : Bool
  deriving DecidableEq, Repr

/-- Where the bytes of a remote load go (02 R69, 08 R238). -/
inductive RemoteDst where
  | scalar (t : SReg) (signed : Bool)
  | pair (t : Pair)
  | lanes (d : Dst) (signed : Bool) (lt : BitVec 2)
  deriving DecidableEq, Repr

/-- One lane of a remote access: its place, and for an atomic its operand and expected value. -/
structure RemoteItem where
  lane : Nat
  place : Place
  operand : Nat
  expect : Nat
  deriving DecidableEq, Repr

/-- One lane of a load of this device whose data has not returned: its places, and the value they held at issue. -/
structure LocalItem where
  lane : Nat
  places : List Place
  seen : Nat
  deriving DecidableEq, Repr

/-- Which limit on a gang's uncompleted operations an operation counts for (11 R315, 13 R347, 18 R448). -/
inductive EngineClass where
  | copy | dispatch | mcast | other
  deriving DecidableEq, Repr

/-- What an engine operation does when it completes. -/
inductive OpKind where
  | copy (src dst : ShapeRec) (shadow : Bool) (flag : OpFlag)
  | publish (ptr : DWord)
  | mls (arr : Fin 4) (fmt : MxFmt) (r : ShapeRec)
  | msw (arr : Fin 4)
  | mst (arr : Fin 4) (acc : Fin 8) (neg ovw : Bool) (fmt : MxFmt) (r : ShapeRec) (row : Nat)
  | mred (arr : Fin 4) (acc : Fin 8) (neg ovw : Bool) (fmt : MxFmt) (r : ShapeRec) (row : Nat)
  | mza (arr : Fin 4) (acc : Fin 8)
  | mdr (arr : Fin 4) (acc : Fin 8) (ad shadow : Bool) (df : DrainFmt) (r : ShapeRec) (row : Nat)
  /-- A drain whose rows have been taken (12 R331). -/
  | drained (vals : List Word) (err : ArrErr) (ad shadow : Bool) (df : DrainFmt) (r : ShapeRec)
  | dcnt (d : Descriptor) (area : DWord)
  | dplan (d : Descriptor) (area : DWord) (stage : DispStage)
  | dscat (d : Descriptor) (area : DWord)
  | dgath (d : Descriptor) (area : DWord) (stage : DispStage)
  | dstat (d : Descriptor) (area : DWord) (sel : DstatSel) (y z : Word)
  /-- Bytes still to land, and those that have. -/
  | ldx (bytes done : List LdxByte) (bar : Place)
  | mcast (ack : Bool) (offset : Nat) (dest : Nat) (iface : Nat) (tree : List Nat) (data : List Byte)
      (answers : List (Nat × Nat)) (sent : Bool)
  | rack (dev : Option Nat)
  | peerq (sel : PeerSel) (dev : Nat)
  /-- An operation whose value was decided at issue. -/
  | value (w : Word) (of_ : EngineClass)
  /-- An operation of a Plumb secondary outside its scratchpad (16 R403): it ends with the primary's token. -/
  | twin (of_ : EngineClass)
  /-- A remote load or atomic (18 R441): one access of one line. -/
  | remoteLoad (dst : RemoteDst) (op : Option AtomOp) (size : Nat) (items : List RemoteItem) (dev : Nat) (ptr : DWord)
      (place : Place)
  /-- Model: a load of this device that reads its home when its data returns (10 R291). -/
  | localLoad (dst : RemoteDst) (size : Nat) (regs : List RegRef) (items : List LocalItem)
  deriving DecidableEq, Repr

/-- What an operation that has done its work still does once its writes on other devices are acknowledged (11 R311, R312). -/
structure Settle where
  token : Word
  flag : OpFlag
  home : Option Place
  deriving DecidableEq, Repr

/-- An operation in flight: an agent of its own (10 R281). `id` is the model's. -/
structure Op where
  id : Nat
  owner : GangRef
  iface : Nat
  core : Nat
  pc : DWord
  token : Option SReg
  /-- The Plumb serial of the operation's token (16 R406). -/
  serial : Nat
  kind : OpKind
  /-- Its work is done, and it waits for what it sent (11 R312, 18 R440). -/
  settle : Option Settle := none
  deriving DecidableEq, Repr

/-- A write that has issued and is not performed yet (10 R291, R301), with the page-map entries it was translated by
(09 R268), the owner of its landing and the interface and pointer of its flits (18 R435). `elem` changes one T6 element of a group (08
R242), and `seal` is a step of SEAL or UNSEAL, with the device, interface and pointer of a granule of another device.
`ptrs` are the pointers through which its bytes are written, and `released` says that its gang has made a release since (10
R289). `compared` is false for a write that a Plumb copy has made since its last comparison (16 R405). -/
inductive WriteKind where
  | bytes (bs : List (Place × Byte)) (pages : List Nat) (owner : Nat) (route : Nat × DWord)
  | elem (group : List Place) (pos x : Nat) (pages : List Nat) (owner : Nat) (route : Nat × DWord)
  | seal (granule : Nat) (set : Bool) (far : Option (Nat × Nat × DWord))
  deriving DecidableEq, Repr

structure PendWrite where
  id : Nat
  owner : GangRef
  kind : WriteKind
  ptrs : List (Place × DWord)
  released : Bool
  compared : Bool
  deriving DecidableEq, Repr

/-! ### Translation -/

/-- The action of a label entry (09 R262). -/
inductive Action where
  | invalid | swap | pop | land
  deriving DecidableEq, Repr

/-- A label entry with its fields as they are stored (09 R262). -/
structure LabelEntry where
  action : Action
  gen : Byte
  r : Bool
  w : Bool
  x : Bool
  a : Bool
  s : Bool
  m : Bool
  hop : Byte
  newLabel : BitVec 12
  owner : BitVec 6
  sharedIn : BitVec 6
  limit : BitVec 22
  base : BitVec 58
  deriving DecidableEq, Repr

/-- A write of an entry or page-map entry that waits for its quiesce (09 R277). `port` names the interface whose table
port started it. -/
inductive QuiesceWhat where
  | entry (k : EntryKey) (e : LabelEntry)
  | page (addr : Nat) (m : BitVec 128)
  deriving DecidableEq, Repr

structure Quiesce where
  id : Nat
  what : QuiesceWhat
  port : Option Nat
  deriving DecidableEq, Repr

/-- A part of an interface's allocation that is being withdrawn, or with no part all of it as the interface is removed: it goes when no
entry reaches it any more (09 R480). -/
structure Withdrawal where
  iface : Nat
  part : Option AllocPart
  deriving DecidableEq, Repr

/-! ### Faults -/

/-- A fault record (15 R377 to R379). `id` is the model's; `written` is its place in the queue. -/
structure FaultRec where
  id : Nat
  iface : Nat
  time : Nat
  seq : Nat
  info : FaultInfo
  pc : DWord
  handler : Bool
  parked : Bool
  gang : GangRef
  written : Bool
  deriving DecidableEq, Repr

/-! ### Interfaces and queues -/

/-- A queue descriptor (07 R191). -/
structure Queue where
  base : DWord
  tail : Word
  head : Word
  error : Bool
  enable : Bool
  log2 : Nat
  deriving DecidableEq, Repr

/-- A persistent snapshot (16 R401). -/
structure Kept where
  name : Nat
  launch : Nat
  snap : Snapshot
  deriving DecidableEq, Repr

/-- The allocation of an interface (09 R480). -/
structure Alloc where
  granules : List (Nat × Nat)
  pools : List (Nat × Nat × Nat)
  hosts : List (Nat × Nat × Nat)
  deriving DecidableEq, Repr

/-- The control fields and the registers with behaviour of one interface (07 R197, 08 R479, 15 R380, 16 R396, 17 R427,
19 R464). Command registers and plain registers read and written whole live in `State.regs`. -/
structure Iface where
  exist : Bool
  timeOfs : DWord
  crewMax : Nat
  queues : Nat
  maxPrio : Nat
  windows : List (Nat × Nat)
  alloc : Alloc
  faultSeq : Nat
  kept : List Kept
  /-- Pages of the Undercoat reserve in use, as granules of HBM (16 R395, R396). -/
  reserveUsed : List Nat
  /-- Model: a refused entry write of the fault queue waits for a change of FQCTL or FQBASE (15 R381). -/
  fqStuck : Bool
  /-- Model: the number of the first fault record since the last ENABLE (15 R381). -/
  fqFrom : Nat
  deriving DecidableEq, Repr

/-! ### Dies, fabric and power -/

/-- The package (17 R415 to R421, 20 R475). -/
structure Package where
  boot : Nat
  dieMask : BitVec 4
  linkUp : BitVec 4
  linkRev : Nat
  lead : Nat
  epoch : Byte
  split : Bool
  hbmStacks : BitVec 16
  ordering : Nat
  device : Nat
  coresPerDie : Nat
  fenced : List Nat
  /-- Work retrying over a link: link and tick (R417). -/
  retries : List (Nat × Nat)
  deriving DecidableEq, Repr

/-- What a port is doing (18 R432, 19 R456). -/
inductive PortState where
  | down | up | dark | relock | stopped
  deriving DecidableEq, Repr

/-- A roller port (18 R430 to R436). The session secrets themselves are never visible; the generations and counters are. -/
structure Port where
  state : PortState
  tx : Nat
  lit : BitVec 16
  relocks : Byte
  calendar : List Word
  /-- The circuit of slot `slot`, the last one that began: the peer, or none in a DARK slot. -/
  circuit : Option Nat
  /-- The lit window of that slot has been closed. -/
  inGuard : Bool
  slot : Nat
  /-- A flit has left in that slot (19 R463). -/
  busy : Bool
  /-- Colours whose heaters reached the end of their range, with the TIME (R431). -/
  lost : List (Nat × Nat)
  /-- The last SEQ sent to a peer on this port, by peer and path: the direct path has the number twice the peer's, the relay path
  one more (19 R457). -/
  lastSeq : List (Nat × Nat)
  /-- Transmit key generation and flit counter per peer. -/
  keys : List (Nat × Nat × Nat)
  /-- Receive key generation per peer (KEY flits). -/
  rxKeys : List (Nat × Nat)
  linkErrors : Nat
  litWhole : List (Nat × Nat)
  deriving DecidableEq, Repr

/-- A flit that waits to be sent, with its gang if it has one, and for a multicast packet its tree and its offset in the
receivers' buffers (18 R447, R449). -/
structure OutFlit where
  flit : Flit
  owner : Option GangRef
  mcast : Option (List Nat × Nat)
  /-- It has been sent before and keeps its SEQ (19 R457). -/
  again : Bool := false
  deriving DecidableEq, Repr

/-- A flit that a port has sent and that its receiver has not acknowledged (18 R431, 19 R457). -/
structure RetryFlit where
  port : Nat
  dev : Nat
  out : OutFlit
  deriving DecidableEq, Repr

/-- A transfer of an engine operation to another device, pool or host (18 R438): it enters the queue of its path when there is room,
and its home answers it with a code. -/
structure EngineOut where
  op : Nat
  id : Nat
  flit : Flit
  pages : List Nat
  entered : Bool
  code : Option Nat
  deriving DecidableEq, Repr

/-- What the coalescer of a core holds for a destination device: the writes of one gang (18 R437). -/
structure Held where
  core : Nat
  dev : Nat
  owner : GangRef
  since : Nat
  op : Nat
  flits : List Flit
  deriving DecidableEq, Repr

/-- A remote write that is not acknowledged (18 R441), with the page-map entries of this device that it used (09 R268) and the
fields that a queued write has for 10 R289. -/
structure Unacked where
  id : Nat
  dev : Nat
  owner : GangRef
  direct : Bool
  lines : List Nat
  bytes : List (Place × Byte)
  pages : List Nat
  ptrs : List (Place × DWord)
  released : Bool
  deriving DecidableEq, Repr

/-- What a step of an arriving flit brings beside the flit. -/
inductive FlitStep where
  | write | read | readresp | atomresp
  | atomic (op : AtomOp) (size : MemSize)
  | ack (code : Byte)
  | mcast (tree : List Nat) (offset : Nat) (entry : GroupEntry)
  | drain (port : Nat)
  | timesync (slew : Int)
  | key (port : Nat)
  deriving DecidableEq, Repr

/-- A direct flit that came before its turn (18 R440). -/
structure EarlyFlit where
  flit : Flit
  step : FlitStep
  deriving DecidableEq, Repr

/-- The fabric of the device (18, 19). -/
structure Fabric where
  ports : Vector Port 16
  reach : List Nat
  relay : List (Nat × BitVec 16)
  groups : List (Nat × GroupEntry)
  coalesced : List Held
  transit : List OutFlit
  egress : List OutFlit
  egressCap : Nat
  unacked : List Unacked
  txSeq : List (Nat × Nat)
  /-- SEQ of the last direct flit performed, by source, and the direct flits that came before their turn (R440). -/
  rxSeq : List (Nat × Nat)
  early : List EarlyFlit
  /-- SEQ of the last relay flit that arrived, by source. -/
  rxRelay : List (Nat × Nat)
  /-- Flits that have arrived and wait for a lookup that is held, or behind one that does (R444). -/
  stalled : List EarlyFlit
  retry : List RetryFlit
  engine : List EngineOut
  suspects : List Nat
  lastHeard : List (Nat × Nat)
  /-- Injection rates that are not at their limits (R443), the highest load level seen and the bytes sent in the window. -/
  poolRates : List (Nat × Nat)
  poolSeen : List (Nat × Nat)
  poolSent : List (Nat × Nat)
  /-- Ticks of the pools' windows that have passed (R443, 19 R458). -/
  poolTicks : List (Nat × Nat)
  drained : List (Nat × Nat)
  slew : Int
  /-- Ticks since TIME was last corrected (R445). -/
  slewTicks : Nat
  timeLocked : Bool
  /-- Journalled transactions that unreachable devices have still to apply: device, granules, bytes (16 R409). -/
  late : List (Nat × List Nat × List Host.Cell)
  deriving DecidableEq, Repr

/-- The phases of a reconfiguration (19 R454, R456). -/
inductive RcPhase where
  | idle | armed | draining | dark | relocking
  deriving DecidableEq, Repr

/-- The reconfiguration (19 R454 to R457): what ARM took, RCSTAT, its phase, whether T has passed, and the ports that have
reached their switch boundaries. The staged registers stand in `State.regs` as those of interface 64. -/
structure Reconfig where
  t : Nat
  portMask : BitVec 16
  darkSlots : Nat
  txCols : Nat
  splitOnly : Bool
  stat : Byte
  phase : RcPhase
  taken : Bool
  switched : BitVec 16
  deriving DecidableEq, Repr

/-- Power states (20 R470). -/
inductive PState where
  | active | idle | parked | off
  deriving DecidableEq, Repr

/-- Power and temperature (20 R470 to R475). The clock is in units of 25 MHz. -/
structure Power where
  pstate : PState
  capw : Nat
  watts : Nat
  clock : Nat
  holdCap : Bool
  holdDie : BitVec 4
  holdHbm : BitVec 4
  junction : Vector Byte 4
  hbmTemp : Vector Byte 4
  refresh2x : BitVec 4
  lastStep : Nat
  idleSince : Nat
  /-- When the last window of the power cap ended (R472). -/
  lastWindow : Nat
  /-- Model: a doorbell or an admission wakes the device (R470). -/
  woken : Bool
  sramErrs : Nat
  hbmErrs : Nat
  deriving DecidableEq, Repr

/-- An event of the error log (20 R476). -/
structure LogEvent where
  time : Nat
  kind : Nat
  die : Nat
  unit : Nat
  deriving DecidableEq, Repr

/-- Package NVM: what survives the loss of power (20 R470). -/
structure Nvm where
  /-- Blocks taken of each identity key: of dies 0 to 3, and of the device (17 R423). -/
  keyBlocks : List Nat
  journal : List (Nat × Nat × Nat × Nat)
  log : List LogEvent
  deriving DecidableEq, Repr

/-- Memory at every home: bytes that are not zero, poisoned sectors, sealed granules (08). -/
structure Memory where
  cells : List Host.Cell
  poison : List Nat
  seals : List Nat
  deriving DecidableEq, Repr

/-- Model: an act that an access of the device has started and that a step of its own takes: a store to a doorbell or
register (08 R483), a command of a port (07 R193, 09 R279, 15 R380, 16 R396, 20 R477), a direct flit (18 R440). -/
inductive Act where
  | doorbell (iface queue : Nat) (v : Word)
  | register (iface offset : Nat) (v : DWord)
  | qcmdWrite (iface : Nat)
  | qcmdRead (iface : Nat)
  | ltWrite (iface : Nat)
  | ltRead (iface : Nat)
  | ltPage (iface : Nat)
  | fqResume (iface first count : Nat)
  | fqFail (iface first : Nat)
  | snapRestore (iface name : Nat)
  | snapFree (iface name : Nat)
  /-- A direct flit whose turn has come (18 R440). -/
  | flit (e : EarlyFlit)
  deriving DecidableEq, Repr

/-- The machine. `g` is the context of the gang that issues, `gangs` are the others: each gang stands in exactly one
place. -/
structure State where
  g : Gang
  gangs : List Gang
  crews : List Crew
  launches : List Launch
  replays : List Replay
  mem : Memory
  labels : List (EntryKey × LabelEntry)
  /-- Entries whose place in reserved HBM holds uncorrectable data (09 R275). -/
  labelPoison : List EntryKey
  quiesces : List Quiesce
  withdrawals : List Withdrawal
  ops : List Op
  wq : List PendWrite
  records : List FaultRec
  ifaces : List (Nat × Iface)
  queues : List (Nat × Queue)
  /-- MMIO registers that differ from zero, keyed interface × 2^17 + offset (08 R483). -/
  regs : List (Nat × DWord)
  pkg : Package
  fab : Fabric
  rc : Reconfig
  pw : Power
  nvm : Nvm
  time : Nat
  admSeq : Nat
  /-- Model: the pipe has selected `g`, and its next instruction issues in this step. -/
  issuing : Bool
  /-- Model: the gangs of the pipe that has selected `g`, as they were before the selection: it is none if the instruction waits on the
  scoreboard (07 R213). -/
  picks : List Pick
  /-- Model: steps of the environment that are still to be taken. -/
  agenda : List Instr
  /-- Model: acts that the device has started and not yet taken. -/
  acts : List Act
  /-- Model: on-device stores wait in `wq` until WRITE_PERFORMED. -/
  defer : Bool
  /-- Model: loads of this device read their home when their data returns. -/
  late : Bool
  /-- Model: the next number of an operation, write, record or quiesce. -/
  nextId : Nat
  /-- Model: the argument of the next free value. -/
  freeCtr : Nat
  deriving DecidableEq, Repr

/-! ### Reset -/

def Scalars.reset : Scalars :=
  { regs := Vector.replicate 64 0#32, conds := 0#8, pc := 0#64, fpFlags := 0#5, divZero := false, latchLost := false,
    timeCapture := none, tvec := 0#64, handler := false, trapPc := 0#64, trapCode := 0#32 }

def Lanes.reset : Lanes :=
  { present := 0#96, live := 0#96, preds := Vector.replicate 8 0#96, v := [], o := [], l := [], latchValid := 0#4,
    lineage := Vector.replicate 96 0#64 }

def Board.reset : Board :=
  { pending := [], marked := [], unread := [], poisoned := [], lost := [] }

def Sched.reset : Sched :=
  { run := .ended, yieldPending := false, deferred := false, notIssued := 0, promoted := none, age := 0, pipe := 0,
    reissue := false, finish := false, resumes := 0, lastFault := 0#64, issued := 0 }

/-- No gang. -/
def noGang : GangRef :=
  { launch := 0, crew := 0, gang := 0, twin := false }

/-- No gang: the context that stands in `State.g` when no pipe has selected a gang. -/
def Gang.reset : Gang :=
  { ref := noGang, sc := .reset, la := .reset, bd := .reset, sch := .reset, bands := [], held := [], unacked := [],
    discarded := [], stage := 0, fetchHalf := none, oldWords := [], badLanes := 0#96, txn := none, txSerial := 0,
    plumb := { sig := 0#64, late := [], points := 0, passed := false, buffered := 0, serial := 0, inbox := [], faulted := none } }

/-- No error (12 R318). -/
def ArrErr.zero : ArrErr :=
  { kind := 0, level := 0, inst := 0, home := none }

def Plane.reset : Plane :=
  { fmt := .f16, err := .zero, elems := [] }

def Accum.reset : Accum :=
  { err := .zero, cells := [] }

def MxArray.reset : MxArray :=
  { active := .reset, shadow := .reset, accs := Vector.replicate 8 .reset }

/-- A label entry after boot (09 R258, R262). -/
def LabelEntry.reset : LabelEntry :=
  { action := .invalid, gen := 0#8, r := false, w := false, x := false, a := false, s := false, m := false, hop := 0#8,
    newLabel := 0#12, owner := 0#6, sharedIn := 0#6, limit := 0#22, base := 0#58 }

def ErrRec.reset : ErrRec :=
  { killPc := 0#64, crew := 0, gang := 0, count := 0, reason := 0, kind := 0 }

def Queue.reset : Queue :=
  { base := 0#64, tail := 0#32, head := 0#32, error := false, enable := false, log2 := 0 }

def Alloc.reset : Alloc :=
  { granules := [], pools := [], hosts := [] }

def Iface.reset : Iface :=
  { exist := false, timeOfs := 0#64, crewMax := 0, queues := 0, maxPrio := 0, windows := [], alloc := .reset,
    faultSeq := 0, kept := [], reserveUsed := [], fqStuck := false, fqFrom := 0 }

/-- Before boot: phase ROM (20 R469), no die, link or stack yet known (17 R419, 20 R475: set at boot). -/
def Package.reset : Package :=
  { boot := 0x01, dieMask := 0#4, linkUp := 0#4, linkRev := 0, lead := 0, epoch := 0#8, split := false, hbmStacks := 0#16,
    ordering := 0, device := 0, coresPerDie := 0, fenced := [], retries := [] }

/-- A port before it trains (18 R432). -/
def Port.reset : Port :=
  { state := .down, tx := 8, lit := 0#16, relocks := 0#8, calendar := [], circuit := none, inGuard := false, slot := 0,
    busy := false, lost := [], lastSeq := [], keys := [], rxKeys := [], linkErrors := 0, litWhole := [] }

def Fabric.reset : Fabric :=
  { ports := Vector.replicate 16 .reset, reach := [], relay := [], groups := [], coalesced := [], transit := [],
    egress := [], egressCap := 4194304, unacked := [], txSeq := [], rxSeq := [], early := [], rxRelay := [], stalled := [],
    retry := [], engine := [], suspects := [], lastHeard := [], poolRates := [],
    poolSeen := [], poolSent := [], poolTicks := [], drained := [], slew := 0, slewTicks := 0, timeLocked := false, late := [] }

def Reconfig.reset : Reconfig :=
  { t := 0, portMask := 0#16, darkSlots := 0, txCols := 0, splitOnly := false, stat := 0#8, phase := .idle, taken := false,
    switched := 0#16 }

/-- CAPW at the TDP of the ordering code, the clock at 64 units, everything else zero (20 R475). -/
def Power.reset : Power :=
  { pstate := .active, capw := 3300, watts := 0, clock := 64, holdCap := false, holdDie := 0#4, holdHbm := 0#4,
    junction := Vector.replicate 4 0#8, hbmTemp := Vector.replicate 4 0#8, refresh2x := 0#4, lastStep := 0,
    idleSince := 0, lastWindow := 0, woken := false, sramErrs := 0, hbmErrs := 0 }

def Memory.reset : Memory :=
  { cells := [], poison := [], seals := [] }

def Nvm.reset : Nvm :=
  { keyBlocks := [0, 0, 0, 0, 0], journal := [], log := [] }

/-- The machine right after package reset, before its boot (20 R468, R469). -/
def State.reset : State :=
  { g := .reset, gangs := [], crews := [], launches := [], replays := [], mem := .reset, labels := [], labelPoison := [], quiesces := [],
    withdrawals := [],
    ops := [], wq := [], records := [], ifaces := [], queues := [], regs := [], pkg := .reset, fab := .reset,
    rc := .reset, pw := .reset, nvm := .reset, time := 0, admSeq := 0, issuing := false, picks := [], agenda := [], acts := [], defer := false, late := false,
    nextId := 0, freeCtr := 0 }

end Sys2Proof.Machine
end

