-- ==== Sys2Proof/Machine/Store.lean ====
section
/-! DEFINITION. Sparse maps in one canonical form, and memory over them: the homes of 08_memory_levels.md R223 laid out in
one space of keys, bytes, poisoned sectors (R481) and sealed granules (R251). -/

namespace Sys2Proof.Machine

/-! ### Sparse maps -/

/-- The value at key `a` of a list of keys and values, `d` where no entry stands. -/
def Sparse.get {α : Type} (d : α) : List (Nat × α) → Nat → α
  | [], _ => d
  | (k, v) :: r, a => if k = a then v else Sparse.get d r a

/-- A new entry before the first greater key. -/
def Sparse.insert {α : Type} (a : Nat) (v : α) : List (Nat × α) → List (Nat × α)
  | [] => [(a, v)]
  | (k, w) :: r => if a < k then (a, v) :: (k, w) :: r else (k, w) :: Sparse.insert a v r

/-- Write `v` at key `a`; a value equal to `d` leaves no entry. -/
def Sparse.put {α : Type} [DecidableEq α] (d : α) (l : List (Nat × α)) (a : Nat) (v : α) : List (Nat × α) :=
  let r := l.filter (fun x => x.1 != a)
  if v = d then r else Sparse.insert a v r

/-- Keys strictly rising from `lo` on, no entry equal to `d`. -/
def Sparse.wfFrom {α : Type} [DecidableEq α] (d : α) : Nat → List (Nat × α) → Bool
  | _, [] => true
  | lo, (k, v) :: r => lo ≤ k && v ≠ d && Sparse.wfFrom d (k + 1) r

/-- The canonical form. -/
def Sparse.wf {α : Type} [DecidableEq α] (d : α) (l : List (Nat × α)) : Bool :=
  Sparse.wfFrom d 0 l

/-- Insert into a rising list of numbers. -/
def insertKey (a : Nat) : List Nat → List Nat
  | [] => [a]
  | k :: r => if a < k then a :: k :: r else if a = k then k :: r else k :: insertKey a r

/-! ### Homes -/

/-- The model's layout of keys: HBM below 2^40, scratchpads from 2^44, windows from 2^45, other devices from 2^48, pools from
2^62, hosts from 2^63. -/
def hbmKey (phys : Nat) : Nat := phys

def scratchKey (core off : Nat) : Nat := 2 ^ 44 + core * 2 ^ 20 + off

def windowKey (die byte : Nat) : Nat := 2 ^ 45 + die * 2 ^ 26 + byte

def peerBase (dev : Nat) : Nat := (1 + dev) * 2 ^ 48

/-- The key of a byte's home; registers and parameter blocks are not memory. -/
def Place.key : Place → Option Nat
  | .hbm p => some (hbmKey p)
  | .scratch c o => some (scratchKey c o)
  | .window d b => some (windowKey d b)
  | .mmio _ _ => none
  | .pool p a => some (2 ^ 62 + p * 2 ^ 52 + a)
  | .host v a => some (2 ^ 63 + v * 2 ^ 46 + a)
  | .peerHbm v p => some (peerBase v + hbmKey p)
  | .peerScratch v c o => some (peerBase v + scratchKey c o)
  | .peerWindow v d b => some (peerBase v + windowKey d b)
  | .param _ _ => none

/-- The place `n` bytes further on. -/
def Place.plus : Place → Nat → Place
  | .hbm p, n => .hbm (p + n)
  | .scratch c o, n => .scratch c (o + n)
  | .window d b, n => .window d (b + n)
  | .mmio i o, n => .mmio i (o + n)
  | .pool p a, n => .pool p (a + n)
  | .host v a, n => .host v (a + n)
  | .peerHbm v p, n => .peerHbm v (p + n)
  | .peerScratch v c o, n => .peerScratch v c (o + n)
  | .peerWindow v d b, n => .peerWindow v d (b + n)
  | .param l o, n => .param l (o + n)

/-- The device, pool or host adapter that a place off this device needs the fabric to reach, with pools numbered from
4,096 on (the model's numbering of appliances). -/
def Place.remote : Place → Option Nat
  | .pool p _ => some (4096 + p)
  | .host v _ => some v
  | .peerHbm v _ => some v
  | .peerScratch v _ _ => some v
  | .peerWindow v _ _ => some v
  | .hbm _ | .scratch _ _ | .window _ _ | .mmio _ _ | .param _ _ => none

/-- HBM, of this device or another (R233, R408). -/
def Place.isHbm : Place → Bool
  | .hbm _ | .peerHbm _ _ => true
  | _ => false

/-! ### Bytes -/

/-- The byte at a key; a byte that nothing has written reads 0 (DESIGN CHOICE, log entry 3). -/
def Memory.get (m : Memory) (k : Nat) : Byte :=
  Sparse.get 0#8 m.cells k

/-- Poison of the 32-byte sector that holds a key (R481). -/
def Memory.poisoned (m : Memory) (k : Nat) : Bool :=
  m.poison.contains (k / 32)

def Memory.put (m : Memory) (k : Nat) (b : Byte) : Memory :=
  { m with cells := Sparse.put 0#8 m.cells k b }

/-- Mark the sector of a key as poisoned (R481). -/
def Memory.taint (m : Memory) (k : Nat) : Memory :=
  { m with poison := insertKey (k / 32) m.poison }

def Memory.cleanSector (m : Memory) (sector : Nat) : Memory :=
  { m with poison := m.poison.filter (· != sector) }

/-- The canonical form of memory: cells rising and not 0. -/
def Memory.wf (m : Memory) : Bool :=
  Sparse.wf 0#8 m.cells

/-- `n` bytes from key `k` on, the lowest first. -/
def Memory.bytes (m : Memory) (k : Nat) : Nat → List Byte
  | 0 => []
  | n + 1 => m.get k :: m.bytes (k + 1) n

/-- Little-endian value of bytes (00 R4). -/
def leValue : List Byte → Nat
  | [] => 0
  | b :: r => b.toNat + 256 * leValue r

/-- The low `n` bytes of a value, the lowest first. -/
def leBytes : Nat → Nat → List Byte
  | 0, _ => []
  | n + 1, v => BitVec.ofNat 8 v :: leBytes n (v / 256)

def Memory.value (m : Memory) (k n : Nat) : Nat :=
  leValue (m.bytes k n)

def Memory.putBytes (m : Memory) (k : Nat) : List Byte → Memory
  | [] => m
  | b :: r => (m.put k b).putBytes (k + 1) r

/-- Write one access: the bytes, then the poison of every sector that the access covers whole is cleared (R481). -/
def Memory.writeAccess (m : Memory) (kbs : List (Nat × Byte)) : Memory :=
  let m1 := kbs.foldl (fun m kb => m.put kb.1 kb.2) m
  let sectors := ((kbs.map (fun kb => kb.1 / 32)).filter (fun t => m.poison.contains t)).eraseDups
  sectors.foldl
    (fun m t => if (List.range 32).all (fun i => kbs.any (fun kb => kb.1 == t * 32 + i)) then m.cleanSector t else m) m1

/-- Element `j` of a T6 group (R147). -/
def t6Get (group : Nat) (j : Nat) : Nat := group / 2 ^ (6 * j) % 64

/-- A T6 group with element `j` replaced (R242). -/
def t6Set (group j x : Nat) : Nat := group - t6Get group j * 2 ^ (6 * j) + x % 64 * 2 ^ (6 * j)

/-- Take a range of bytes back to 0 and unpoisoned (R226, R229). -/
def Memory.zero (m : Memory) (lo n : Nat) : Memory :=
  { m with
    cells := m.cells.filter (fun c => c.1 < lo || lo + n ≤ c.1)
    poison := m.poison.filter (fun t => t * 32 < lo || lo + n ≤ t * 32) }

/-- The cells that lie in a range, in their order. -/
def Memory.cut (m : Memory) (lo n : Nat) : List Host.Cell :=
  m.cells.filter (fun c => lo ≤ c.1 && c.1 < lo + n)

/-- The cells of a range replaced by `cs`, whose keys lie in the range. -/
def Memory.paste (m : Memory) (lo n : Nat) (cs : List Host.Cell) : Memory :=
  cs.foldl (fun m c => m.put c.1 c.2) { m with cells := m.cells.filter (fun c => c.1 < lo || lo + n ≤ c.1) }

/-- Granule `g` copied into granule `h`: its bytes and its poison (16 R395, R400). -/
def Memory.copyTo (m : Memory) (g h : Nat) : Memory :=
  let n := m.paste (h * 65536) 65536 ((m.cut (g * 65536) 65536).map (fun c => (h * 65536 + c.1 % 65536, c.2)))
  let bad := (m.poison.filter (fun t => t / 2048 == g)).map (fun t => h * 2048 + t % 2048)
  { n with poison := bad.foldl (fun ps t => insertKey t ps) (n.poison.filter (fun t => t / 2048 != h)) }

/-- The sealed bit of the granule of an HBM byte (R251). -/
def Memory.isSealed (m : Memory) (phys : Nat) : Bool :=
  m.seals.contains (phys / 65536)

def Memory.setSeal (m : Memory) (granule : Nat) (v : Bool) : Memory :=
  { m with seals := if v then insertKey granule m.seals else m.seals.filter (· != granule) }

end Sys2Proof.Machine
end

