-- ==== Sys2Proof/Machine/Ops.lean ====
section
/-! DEFINITION. The named operations over registers, gangs, crews and launches, the kill of 01 R39 to R43, and the shared
operations of taking an exception: a precise fault (15 R375 to R383), the entry to handler mode (02 R73, 15 R384) and the
return from it (15 R385). -/

namespace Sys2Proof

/-- The crew of a gang. -/
def GangRef.crewRef (r : GangRef) : CrewRef := { launch := r.launch, crew := r.crew, twin := r.twin }

/-- The other copy of a Plumb gang (R403). -/
def GangRef.other (r : GangRef) : GangRef := { r with twin := !r.twin }

/-- The registers that can be written: s0 discards writes. -/
def RegRef.real : RegRef → Bool
  | .s r => r != 0#6
  | .v _ | .o _ => true

/-- REASON and KIND of a kill (R42). -/
def KillReason.kind : KillReason → Nat
  | .encoding | .context => 0x03
  | .role => 0x04

def KillReason.reason : KillReason → Nat
  | .encoding => 1
  | .context | .role => 2

end Sys2Proof

namespace Sys2Proof.Machine

/-- What a meaning answers. -/
abbrev Out := Host.Outcome State Fault Refusal

/-! ### Scalar registers -/

/-- The register s(2k) of a pair. -/
def pairLo (p : Pair) : SReg := p ++ 0#1

/-- The register s(2k+1) of a pair. -/
def pairHi (p : Pair) : SReg := p ++ 1#1

/-- The link pair s62.d (R44). -/
def linkPair : Pair := 31#5

/-- Read a scalar register; s0 reads as zero (R44). -/
def Scalars.rd (c : Scalars) (r : SReg) : Word :=
  if r = 0#6 then 0#32 else c.regs[r.toNat]'(r.isLt)

/-- What a write to `r` stores: s56, s57 and s58 keep the live bits only (R46). -/
def storedWord (live : LaneMask) (r : SReg) (w : Word) : Word :=
  if r = 56#6 then w &&& live.extractLsb' 0 32
  else if r = 57#6 then w &&& live.extractLsb' 32 32
  else if r = 58#6 then w &&& live.extractLsb' 64 32
  else w

/-- Write a scalar register; a write to s0 is discarded (R44). -/
def Gang.wr (g : Gang) (r : SReg) (w : Word) : Gang :=
  if r = 0#6 then g
  else { g with sc := { g.sc with regs := g.sc.regs.set r.toNat (storedWord g.la.live r w) r.isLt } }

def Gang.rd (g : Gang) (r : SReg) : Word := g.sc.rd r

/-- Read a pair: the high word above the low word (R45). -/
def Gang.rdP (g : Gang) (p : Pair) : DWord := g.rd (pairHi p) ++ g.rd (pairLo p)

/-- Write a pair; each register by its own role (R45, R75). -/
def Gang.wrP (g : Gang) (p : Pair) (v : DWord) : Gang :=
  (g.wr (pairLo p) (v.extractLsb' 0 32)).wr (pairHi p) (v.extractLsb' 32 32)

/-- The exec mask em2:em1:em0 (R44, R88). -/
def Gang.exec (g : Gang) : LaneMask := g.rd 58#6 ++ g.rd 57#6 ++ g.rd 56#6

/-- Give a gang a live mask; the exec mask loses the bits that the live mask loses (R88). -/
def Gang.setLive (g : Gang) (m : LaneMask) : Gang :=
  let h := { g with la := { g.la with live := m } }
  ((h.wr 56#6 (g.rd 56#6)).wr 57#6 (g.rd 57#6)).wr 58#6 (g.rd 58#6)

/-- Set the exec mask (R46). -/
def Gang.setExec (g : Gang) (m : LaneMask) : Gang :=
  ((g.wr 56#6 (m.extractLsb' 0 32)).wr 57#6 (m.extractLsb' 32 32)).wr 58#6 (m.extractLsb' 64 32)

/-! ### Gangs, crews and launches -/

/-- Put the issuing gang back among the others. -/
def State.deselect (s : State) : State :=
  if s.g.ref = noGang then s else { s with g := Gang.reset, gangs := s.gangs ++ [s.g] }

/-- Make a gang the one whose context stands in `g`. -/
def State.select (s : State) (r : GangRef) : State :=
  if s.g.ref = r then s
  else
    match s.gangs.find? (fun h => h.ref == r) with
    | none => s
    | some h => { s.deselect with g := h, gangs := s.deselect.gangs.filter (fun k => k.ref != r) }

/-- Act for a gang, whichever gang issues. -/
def State.asGang (s : State) (r : GangRef) (f : State → State) : State :=
  let t := f (s.select r)
  if s.g.ref = r then t
  else if s.g.ref = noGang then t.deselect
  else t.select s.g.ref

def State.modG (s : State) (f : Gang → Gang) : State := { s with g := f s.g }

/-- The gang with this name, wherever it stands. -/
def State.gang? (s : State) (r : GangRef) : Option Gang :=
  if s.g.ref = r then some s.g else s.gangs.find? (fun h => h.ref == r)

def State.modGang (s : State) (r : GangRef) (f : Gang → Gang) : State :=
  if s.g.ref = r then { s with g := f s.g }
  else { s with gangs := s.gangs.map (fun h => if h.ref = r then f h else h) }

/-- Change every gang that `p` selects. -/
def State.modGangs (s : State) (p : Gang → Bool) (f : Gang → Gang) : State :=
  { s with
    g := if p s.g then f s.g else s.g
    gangs := s.gangs.map (fun h => if p h then f h else h) }

def State.allGangs (s : State) : List Gang := s.g :: s.gangs

def State.crew? (s : State) (r : CrewRef) : Option Crew := s.crews.find? (fun c => c.ref == r)

def State.modCrew (s : State) (r : CrewRef) (f : Crew → Crew) : State :=
  { s with crews := s.crews.map (fun c => if c.ref = r then f c else c) }

def State.launch? (s : State) (n : Nat) : Option Launch := s.launches.find? (fun l => l.seq == n)

def State.modLaunch (s : State) (n : Nat) (f : Launch → Launch) : State :=
  { s with launches := s.launches.map (fun l => if l.seq = n then f l else l) }

/-- The launch of the issuing gang. -/
def State.myLaunch? (s : State) : Option Launch := s.launch? s.g.ref.launch

/-- The crew of the issuing gang. -/
def State.myCrew? (s : State) : Option Crew := s.crew? s.g.ref.crewRef

/-- A packet with every field zero. -/
def Packet.zero : Packet :=
  { kind := 0, priority := 0, flags := 0#8, code := 0#64, crews := 0, gangs := 0, vregs := 0, lastLanes := 0,
    scratch := 0, params := 0#64, paramBytes := 0, bands := 0#64, stages := 0#64, start := 0#64, watchdog := 0#64,
    bound := 0#64, done := 0#64, doneValue := 0#64, seed := 0#64 }

/-- The packet of the issuing gang's launch. -/
def State.packet (s : State) : Packet :=
  match s.myLaunch? with
  | some l => l.packet
  | none => Packet.zero

/-- The flags of R186. -/
def Packet.snapshot (p : Packet) : Bool := p.flags.getLsbD 0 || p.flags.getLsbD 1
def Packet.plumb (p : Packet) : Bool := p.flags.getLsbD 1
def Packet.cosched (p : Packet) : Bool := p.flags.getLsbD 2
def Packet.isPopulation (p : Packet) : Bool := p.flags.getLsbD 3
def Packet.overlap (p : Packet) : Bool := p.flags.getLsbD 4
def Packet.idempotent (p : Packet) : Bool := p.flags.getLsbD 5
def Packet.timed (p : Packet) : Bool := p.flags.getLsbD 6
def Packet.staged (p : Packet) : Bool := p.flags.getLsbD 7

/-- The interface of a launch. -/
def State.ifaceOf (s : State) (launch : Nat) : Nat :=
  match s.launch? launch with
  | some l => l.iface
  | none => 0

/-- The interface of the issuing gang's launch. -/
def State.myIface (s : State) : Nat := s.ifaceOf s.g.ref.launch

/-- The core of a crew, 160 to a die (R263), and its allocation's first byte there (R226). -/
def CrewSite.core : CrewSite → Nat
  | .resident c _ | .saved c _ => c
  | .unplaced | .ended => 0

def CrewSite.base : CrewSite → Nat
  | .resident _ b | .saved _ b => b
  | .unplaced | .ended => 0

def CrewSite.isResident : CrewSite → Bool
  | .resident _ _ => true
  | .saved _ _ | .unplaced | .ended => false

def State.coreOf (s : State) (r : CrewRef) : Nat :=
  match s.crew? r with
  | some c => c.site.core
  | none => 0

def State.myCore (s : State) : Nat := s.coreOf s.g.ref.crewRef

/-- The die of the issuing core. -/
def State.myDie (s : State) : Nat := s.myCore / 160

def State.myBase (s : State) : Nat :=
  match s.myCrew? with
  | some c => c.site.base
  | none => 0

/-- The bytes of a crew's allocation: SCRATCH rounded up to 256 (R226). -/
def allocBytes (scratch : Nat) : Nat := (scratch + 255) / 256 * 256

def State.myAlloc (s : State) : Nat := allocBytes s.packet.scratch

/-! ### Interfaces and their registers -/

def State.ifc (s : State) (n : Nat) : Iface := Sparse.get Iface.reset s.ifaces n

def State.setIfc (s : State) (n : Nat) (i : Iface) : State :=
  { s with ifaces := Sparse.put Iface.reset s.ifaces n i }

/-- A register of an interface's MMIO block that is held as it was written (R483). -/
def State.reg (s : State) (iface off : Nat) : DWord := Sparse.get 0#64 s.regs (iface * 2 ^ 17 + off)

def State.setReg (s : State) (iface off : Nat) (v : DWord) : State :=
  { s with regs := Sparse.put 0#64 s.regs (iface * 2 ^ 17 + off) v }

/-- The time view of an interface (R197). -/
def State.view (s : State) (iface : Nat) : DWord :=
  BitVec.ofNat 64 s.time + (s.ifc iface).timeOfs

/-- A queue of an interface, keyed interface × 1,024 + number. -/
def State.queue (s : State) (iface q : Nat) : Queue := Sparse.get Queue.reset s.queues (iface * 1024 + q)

def State.setQueue (s : State) (iface q : Nat) (v : Queue) : State :=
  { s with queues := Sparse.put Queue.reset s.queues (iface * 1024 + q) v }

/-- A model number for an operation, write, record or quiesce. -/
def State.fresh (s : State) : Nat × State := (s.nextId, { s with nextId := s.nextId + 1 })

/-- The argument of the next free value. -/
def State.free (s : State) : Nat × State := (s.freeCtr, { s with freeCtr := s.freeCtr + 1 })

/-! ### The scoreboard (R93, R312) -/

/-- An EN operation of this gang will still write this register. -/
def State.tokenPending (s : State) (r : GangRef) (t : SReg) : Bool :=
  s.ops.any (fun o => o.owner == r && o.token == some t)

/-- The register has a producer that has not finished. -/
def State.isPending (s : State) (r : RegRef) : Bool :=
  s.g.bd.pending.contains r ||
  match r with
  | .s t => s.tokenPending s.g.ref t
  | .v _ | .o _ => false

/-- An instruction that is no LM, SLD, SATOM or EN instruction writes `r`: its mark goes, but for a token register that
nothing has read (R93). -/
def Board.wrote (b : Board) (r : RegRef) : Board :=
  if (match r with | .s t => b.unread.contains t | .v _ | .o _ => false) then b
  else { b with marked := b.marked.filter (· != r), pending := b.pending.filter (· != r), lost := b.lost.filter (fun x => x.1 != r) }

/-- An instruction reads `r`. -/
def Board.read (b : Board) (r : RegRef) : Board :=
  match r with
  | .s t => { b with unread := b.unread.filter (· != t) }
  | .v _ | .o _ => b

/-- An LM, SLD or SATOM instruction writes `r`; `inFlight` until its data returns (R93). -/
def Board.loads (b : Board) (r : RegRef) : Board :=
  if r.real then
    { b with
      marked := if b.marked.contains r then b.marked else r :: b.marked
      pending := if b.pending.contains r then b.pending else r :: b.pending
      lost := b.lost.filter (fun x => x.1 != r) }
  else b

/-- An EN instruction names `t` as its token register (R312). -/
def Board.token (b : Board) (t : SReg) : Board :=
  if t = 0#6 then b
  else
    { b with
      marked := if b.marked.contains (.s t) then b.marked else .s t :: b.marked
      unread := if b.unread.contains t then b.unread else t :: b.unread
      lost := b.lost.filter (fun x => x.1 != .s t) }

def State.modBoard (s : State) (f : Board → Board) : State :=
  s.modG (fun g => { g with bd := f g.bd })

/-- Write a scalar register as a plain instruction does. -/
def State.wr (s : State) (r : SReg) (w : Word) : State :=
  s.modG (fun g => { g.wr r w with bd := g.bd.wrote (.s r) })

def State.wrP (s : State) (p : Pair) (v : DWord) : State :=
  s.modG (fun g => { g.wrP p v with bd := (g.bd.wrote (.s (pairLo p))).wrote (.s (pairHi p)) })

def State.rd (s : State) (r : SReg) : Word := s.g.rd r

def State.rdP (s : State) (p : Pair) : DWord := s.g.rdP p

/-- Advance the PC past an instruction of `n` bytes (R12). -/
def State.advance (s : State) (n : Nat) : State :=
  s.modG (fun g => { g with sc := { g.sc with pc := g.sc.pc + BitVec.ofNat 64 n } })

def State.setPc (s : State) (v : DWord) : State :=
  s.modG (fun g => { g with sc := { g.sc with pc := v } })

/-- The state of the gang when it no longer issues for a while. -/
def State.setRun (s : State) (r : Run) : State :=
  s.modG (fun g => { g with sch := { g.sch with run := r } })

/-- Wait inside the instruction: it issues again from its start and is not counted again. -/
def State.again (s : State) (r : Run) : State :=
  s.modG (fun g => { g with sch := { g.sch with run := r, reissue := true } })

/-! ### Bands (03 R98 to R101, 07 R216) -/

def Run.isOver : Run → Bool
  | .ended | .killed => true
  | _ => false

/-- The gang has ended or been killed; both copies of a Plumb gang stand for one member. -/
def State.isOver (s : State) (launch crew gang : Nat) : Bool :=
  match s.gang? { launch := launch, crew := crew, gang := gang, twin := false } with
  | some h => h.sch.run.isOver
  | none => false

/-- Let every gang that waits in BAR for band `b` of the launch go on with the new phase. -/
def bandRelease (launch : Nat) (b : Nat) (phase : Word) (h : Gang) : Gang :=
  match h.sch.run with
  | .band t slot =>
    if h.ref.launch = launch ∧ h.bands[slot]? = some b then
      let k := { h.wr t phase with bd := h.bd.wrote (.s t) }
      { k with
        sc := { k.sc with pc := k.sc.pc + 12#64 }
        sch := { k.sch with run := .ready, reissue := false } }
    else h
  | _ => h

/-- A Plumb copy that waits for its twin issues again. -/
def wakeCompare (h : Gang) : Gang :=
  if h.sch.run = .compare then { h with sch := { h.sch with run := .ready } } else h

/-- Deliver a primary's value to its twin, which may wait for it (R406). -/
def deliver (serial : Nat) (v : List DWord) (h : Gang) : Gang :=
  wakeCompare { h with plumb := { h.plumb with inbox := h.plumb.inbox ++ [(serial, v)] } }

/-- Every secondary of a gang released from band `b` receives the phase, under the serial its primary used. -/
def bandDeliver (s : State) (launch b : Nat) (phase : Word) : State :=
  s.allGangs.foldl
    (fun s h =>
      match h.sch.run with
      | .band _ slot =>
        if h.ref.launch = launch ∧ h.bands[slot]? = some b ∧ (s.gang? h.ref.other).isSome then
          s.modGang h.ref.other (deliver (h.plumb.serial - 1) [phase.setWidth 64])
        else s
      | _ => s) s

/-- Complete every band of a launch whose members have all arrived or are permanently arrived (R101, R216). -/
def State.settleBands (s : State) (launch : Nat) : State :=
  match s.launch? launch with
  | none => s
  | some l =>
    (List.range l.bandList.length).foldl
      (fun s b =>
        match l.bandList[b]? with
        | none => s
        | some band =>
          if band.arrived ≠ [] ∧ band.members.all (fun m => band.arrived.contains m || s.isOver launch m.1 m.2) then
            let phase := band.phase + 1#32
            let s1 := bandDeliver s launch b phase
            let s2 := s1.modLaunch launch (fun l =>
              { l with bandList := l.bandList.set b { band with phase := phase, arrived := [] } })
            s2.modGangs (fun _ => true) (bandRelease launch b phase)
          else s) s

/-! ### Ending a gang -/

/-- When every gang of a population launch has ended, been killed or parked without a live lane, the parked ones end
(R371). -/
def State.settlePopulation (s : State) (launch : Nat) : State :=
  let mine := s.allGangs.filter (fun h => h.ref.launch == launch)
  let noLive (h : Gang) : Bool := match h.sch.run with | .noLive _ => true | _ => false
  if mine.all (fun h => h.sch.run.isOver || noLive h) && s.launches.all (fun l => l.seq != launch || l.packet.crews ≤ l.nextCrew) then
    s.modGangs (fun h => h.ref.launch == launch && noLive h) (fun h => { h with sch := { h.sch with run := .ended } })
  else s

/-- An operation that a gang's end abandons: one that waits for other devices (13 R357), or for a Plumb primary's token. -/
def OpKind.abandoned (k : OpKind) : Bool :=
  match k with
  | .dplan _ _ .counts | .dplan _ _ .tags | .dgath _ _ .counts | .dgath _ _ .tags | .twin _ => true
  | _ => false

/-- The place lies in the scratchpad allocation of the crew (08 R226). -/
def State.inAllocation (s : State) (r : CrewRef) (p : Place) : Bool :=
  match p with
  | .scratch c o =>
    c == s.coreOf r &&
      (match s.crew? r with
       | some k => k.site.base ≤ o && o < k.site.base + allocBytes (match s.launch? r.launch with
           | some l => l.packet.scratch
           | none => 0)
       | none => false)
  | .hbm _ | .window _ _ | .mmio _ _ | .pool _ _ | .host _ _ | .peerHbm _ _ | .peerScratch _ _ _ | .peerWindow _ _ _
  | .param _ _ => false

/-- The places that a queued write reaches; none for a step of SEAL or UNSEAL. -/
def PendWrite.places (w : PendWrite) : List Place :=
  match w.kind with
  | .bytes bs _ _ _ => bs.map Prod.fst
  | .elem g _ _ _ _ _ => g
  | .seal _ _ _ => []

/-- A queued write that is no step of SEAL or UNSEAL. -/
def PendWrite.isBytes (w : PendWrite) : Bool :=
  match w.kind with
  | .bytes _ _ _ _ | .elem _ _ _ _ _ _ => true
  | .seal _ _ _ => false

/-- A queued write that waits for a comparison: one of a Plumb copy, outside the copy's own allocation (16 R405, R407). -/
def State.isBuffered (s : State) (w : PendWrite) : Bool :=
  w.isBytes && !w.compared && (match s.launch? w.owner.launch with | some l => l.packet.plumb | none => false) &&
    !w.places.all (s.inAllocation w.owner.crewRef)

/-- A gang ends or is killed: it issues nothing further, its lanes leave the live mask (R41, R87, R387), and what waited
for it goes on. Stores of a Plumb copy that no comparison has followed are never performed (16 R405). -/
def State.stopGang (s0 : State) (r : GangRef) (how : Run) : State :=
  let s := { s0 with
    ops := s0.ops.filter (fun o => !(o.owner == r && o.kind.abandoned))
    wq := s0.wq.filter (fun w => !(w.owner == r && s0.isBuffered w)) }
  let s1 := s.modGang r (fun h =>
    let k := h.setLive 0#96
    { k with sch := { k.sch with run := how, yieldPending := false, deferred := false, promoted := none } })
  (s1.settleBands r.launch).settlePopulation r.launch

/-- The order in which kills fill the record: tick, crew, gang (R204). -/
def killBefore (a b : Nat × Nat × Nat) : Bool :=
  a.1 < b.1 || (a.1 == b.1 && (a.2.1 < b.2.1 || (a.2.1 == b.2.1 && a.2.2 < b.2.2)))

/-- Count a kill in the launch error record; the first in kill order fills it (R42, R204). -/
def Launch.killed (l : Launch) (tick : Nat) (crew gang : Nat) (pc : DWord) (why : KillReason) : Launch :=
  let n := min (l.err.count + 1) 0xFFFF
  let here := (tick, crew, gang)
  let first := match l.firstKill with
    | none => true
    | some k => killBefore here k
  if first then
    { l with
      firstKill := some here
      err := { killPc := pc, crew := crew, gang := gang, count := n, reason := why.reason, kind := why.kind } }
  else { l with err := { l.err with count := n } }

/-- Kill the gang at its PC: no effect but the kill (R39 to R42). -/
def State.killNow (s : State) (r : GangRef) (pc : DWord) (why : KillReason) : State :=
  let s1 := s.modLaunch r.launch (fun l => l.killed (s.view l.iface).toNat r.crew r.gang pc why)
  s1.stopGang r .killed

/-! ### Faults (15 R375 to R383) -/

/-- Kinds of faults (R375). -/
def kPartialMask : Nat := 0x02
def kNullDepth : Nat := 0x10
def kLabelInvalid : Nat := 0x11
def kProtection : Nat := 0x12
def kLimit : Nat := 0x13
def kPageAbsent : Nat := 0x14
def kSealedStore : Nat := 0x15
def kFormat : Nat := 0x16
def kAlign : Nat := 0x17
def kLandingAbsent : Nat := 0x18
def kData : Nat := 0x20
def kResidue : Nat := 0x21
def kSignature : Nat := 0x22
def kPeer : Nat := 0x30
def kWatchdog : Nat := 0x40
def kTrap : Nat := 0x41
def kBrk : Nat := 0x42

/-- A fault with no access behind it. -/
def FaultInfo.plain (kind : Nat) : FaultInfo :=
  { kind := kind, level := 0, inst := 0, pointer := 0#64, lanes := 0#96, whr := 0#96, home := none }

/-- Word 0x00 of a fault record (R377). -/
def recordWord0 (time : DWord) (seq : Nat) (f : FaultInfo) : DWord :=
  time.extractLsb' 10 32 ++ BitVec.ofNat 16 seq ++ BitVec.ofNat 8 f.kind ++ BitVec.ofNat 3 f.level ++ BitVec.ofNat 5 f.inst

/-- The order of faults of one tick: launch admission, crew index, gang index (R381). -/
def refBefore (a b : GangRef) : Bool :=
  a.launch < b.launch || (a.launch == b.launch && (a.crew < b.crew || (a.crew == b.crew && a.gang < b.gang)))

/-- A record of the same tick, numbered since the last ENABLE, that comes after one of gang `r`: no record is written in the tick of
its fault (R381, log entry 130). -/
def FaultRec.follows (x : FaultRec) (iface time first : Nat) (r : GangRef) : Bool :=
  x.iface == iface && x.time == time && !x.written && first ≤ x.id && refBefore r x.gang

/-- A record takes its SEQ: the next value of the counter, or its place among the faults of the same tick, whose later ones move up
(R381). The LASTFAULT of each is the first word of its record (R386). -/
def State.numberRecord (s : State) (r : FaultRec) : State :=
  let ifc := s.ifc r.iface
  let next := (ifc.faultSeq + 1) % 65536
  let after := s.records.filter (fun x => x.follows r.iface r.time ifc.fqFrom r.gang)
  let moved (x : FaultRec) : FaultRec := { x with seq := (x.seq + 1) % 65536 }
  let mark (s : State) (x : FaultRec) : State := s.modGang x.gang
    (fun h => { h with sch := { h.sch with lastFault := recordWord0 (BitVec.ofNat 64 x.time) x.seq x.info } })
  let mine := { r with seq := if after.isEmpty then next else (after.headD r).seq }
  let s1 := mark (s.setIfc r.iface { ifc with faultSeq := next }) mine
  let s2 := after.foldl (fun s x => mark s (moved x)) s1
  { s2 with
    records := s2.records.filter (fun x => !x.follows r.iface r.time ifc.fqFrom r.gang) ++ [mine] ++ after.map moved
    nextId := s.nextId + 1 }

/-- Number a record and put it in the backlog (R381); the gang's LASTFAULT becomes its first word (R386). -/
def State.record (s : State) (r : GangRef) (pc : DWord) (f : FaultInfo) (parked : Bool) : Nat × State :=
  let iface := s.ifaceOf r.launch
  let handler := match s.gang? r with
    | some h => h.sc.handler
    | none => false
  (s.nextId, s.numberRecord
    { id := s.nextId, iface := iface, time := (s.view iface).toNat, seq := 0, info := f, pc := pc, handler := handler,
      parked := parked, gang := r, written := false })

/-- The disposition Rollback of R375. -/
def rollsBack (kind : Nat) : Bool := kind == kData || kind == kResidue || kind == kSignature

/-- The gang stops at once when its launch must stop: it is parked or waits (R214, R383, R398). A ready gang stops at its
next switch point; SEAL, UNSEAL and a journalled commit go on to their end (08 R252, 16 R414). -/
def Run.stopsAtOnce : Run → Bool
  | .ready | .hazard _ | .sealing _ _ | .commit _ | .ended | .killed => false
  | .board _ | .drain _ | .release _ | .band _ _ | .wait _ _ _ | .acq _ _ _ _ | .parked _ | .sieve _ _ _ | .noLive _ | .egress
  | .savedScratch | .arrays | .quiesce | .compare | .stopped => true

/-- Stop a launch: for a rollback of some kind (R398), or to end it with a status (R214, R383). -/
def State.stopLaunch (s : State) (launch : Nat) (p : LaunchPhase) : State :=
  match s.launch? launch with
  | none => s
  | some l =>
    if l.phase ≠ .running then s
    else
      let s1 := s.modLaunch launch (fun l => { l with phase := p })
      let mine := (s1.allGangs.filter (fun h => h.ref.launch == launch && h.sch.run.stopsAtOnce)).map Gang.ref
      mine.foldl (fun s r => s.stopGang r .ended) s1

/-- A gang of a launch that is already stopping ends at the error that it meets: it counts as the same one (16 R398, R414). -/
def State.endStopped (s : State) (r : GangRef) : State :=
  match s.launch? r.launch, s.gang? r with
  | some l, some h => if l.phase ≠ .running ∧ h.sch.run.isOver = false then s.stopGang r .ended else s
  | _, _ => s

/-- Raise a fault in gang `r` at `pc`: park, or record and roll back (R375). The instruction has had no effect. -/
def State.raiseNow (s : State) (r : GangRef) (pc : DWord) (f : FaultInfo) : State :=
  if rollsBack f.kind then
    let (n, s1) := s.record r pc f false
    ((s1.modGang r (fun h => { h with sch := { h.sch with run := .parked n, reissue := false } })).stopLaunch r.launch
      (.rolling f.kind r f.home)).endStopped r
  else
    let (n, s1) := s.record r pc f true
    s1.modGang r (fun h => { h with sch := { h.sch with run := .parked n, reissue := false } })

/-! ### Plumb pairs (16 R403 to R407, 15 R393) -/

/-- The gang belongs to a Plumb pair that both still run. -/
def State.twin? (s : State) : Option Gang :=
  if s.packet.plumb then s.gang? s.g.ref.other else none

/-- The copies have diverged: SIGNATURE, with the record of the primary, and both copies stop for the rollback (R398, R405). -/
def State.diverge (s : State) : State :=
  let r := { s.g.ref with twin := false }
  ((s.raiseNow r s.g.sc.pc (.plain kSignature)).endStopped r).endStopped s.g.ref

/-- Both copies reach the same stop: `act` is taken once for the primary, and the secondary is left as it is (R43,
R393). The first copy waits for its twin. -/
def State.pairedStop (s : State) (f : FaultInfo) (act : State → State) : State :=
  match s.twin? with
  | none => act s
  | some t =>
    match t.plumb.faulted with
    | some w => if w.1.kind = f.kind ∧ w.2 = s.g.sc.pc then act s else s.diverge
    | none =>
      if t.sch.run.isOver then s.diverge
      else
        ((s.modG (fun g => { g with plumb := { g.plumb with faulted := some (f, g.sc.pc) } })).again .compare).modGang
          s.g.ref.other wakeCompare

/-- Park or stop the other copy of a gang as the first one (R393). -/
def State.followTwin (s : State) : State :=
  let p := { s.g.ref with twin := false }
  match s.gang? p with
  | none => s
  | some h =>
    (s.modGang p.other (fun k =>
      { k with sch := { k.sch with run := h.sch.run, lastFault := h.sch.lastFault, reissue := false }
               plumb := { k.plumb with faulted := none } })).modGang p
      (fun k => { k with plumb := { k.plumb with faulted := none } })

/-- A precise fault of the issuing gang at its PC (R376). -/
def State.raise (s : State) (f : FaultInfo) : State :=
  if s.packet.plumb then
    s.pairedStop f (fun s =>
      (s.raiseNow { s.g.ref with twin := false } s.g.sc.pc f).followTwin)
  else s.raiseNow s.g.ref s.g.sc.pc f

/-- The stores that a Plumb primary has made since its last comparison may be performed: a comparison has matched (16 R405). -/
def State.passBuffer (s : State) (r : GangRef) : State :=
  { s with wq := s.wq.map (fun w => if w.owner = r then { w with compared := true } else w) }

/-- A Plumb pair is killed at one PC. Its end is a comparison point (16 R405): where the signatures match, what the primary has stored
becomes visible as if it had gone on (R41). -/
def State.killPair (s : State) (why : KillReason) : State :=
  let first := { s.g.ref with twin := false }
  let dies (s : State) : State :=
    ((s.killNow first s.g.sc.pc why).stopGang { first with twin := true } .killed).followTwin
  match s.twin? with
  | none => dies (s.passBuffer first)
  | some t =>
    if s.g.plumb.late ≠ [] ∨ t.plumb.late ≠ [] then s.again .compare
    else if s.g.plumb.sig = t.plumb.sig then dies (s.passBuffer first)
    else s.diverge

/-- The issuing gang is killed at its PC (R39, R43). -/
def State.kill (s : State) (why : KillReason) : State :=
  if s.packet.plumb then s.pairedStop (.plain why.kind) (fun s => s.killPair why)
  else s.killNow s.g.ref s.g.sc.pc why

/-! ### Handler mode (02 R73, 15 R384, R385) -/

/-- TRAP and BRK: enter handler mode, or become a fault record (R73, R384). -/
def State.takeTrap (s : State) (kind : Nat) (code : BitVec 19) : State :=
  if s.g.sc.tvec ≠ 0#64 ∧ s.g.sc.handler = false then
    s.modG (fun g =>
      { g with
        sc := { g.sc with
          trapPc := g.sc.pc + 4#64
          trapCode := BitVec.ofNat 8 kind ++ 0#5 ++ code
          handler := true
          pc := g.sc.tvec } })
  else s.raise (.plain kind)

/-- RFT: return from handler mode (R385). -/
def State.returnFromHandler (s : State) : State :=
  if s.g.sc.handler = false then s.kill .context
  else if s.g.sc.trapPc.extractLsb' 0 2 ≠ 0#2 then s.raise (.plain kAlign)
  else
    s.modG (fun g =>
      { g with sc := { g.sc with handler := false, pc := g.sc.trapPc, trapPc := 0#64, trapCode := 0#32 } })

end Sys2Proof.Machine
end

