-- ==== Sys2Proof/Machine/Translate.lean ====
section
/-! DEFINITION. Label-stack translation (09_label_stack_translation.md R255 to R273): the lookup of a pointer level by
level, the checks of R265, the landings of R263 and their page maps, and the path trace. -/

namespace Sys2Proof.Machine

/-! ### Requests -/

/-- What a request's kind needs at every level (R266). -/
structure Perms where
  r : Bool
  w : Bool
  x : Bool
  a : Bool
  s : Bool
  deriving DecidableEq, Repr

def Perms.read : Perms := { r := true, w := false, x := false, a := false, s := false }
def Perms.write : Perms := { r := false, w := true, x := false, a := false, s := false }
def Perms.readWrite : Perms := { r := true, w := true, x := false, a := false, s := false }
def Perms.fetch : Perms := { r := false, w := false, x := true, a := false, s := false }
def Perms.atomic : Perms := { r := false, w := false, x := false, a := true, s := false }
def Perms.seal : Perms := { r := false, w := true, x := false, a := false, s := true }

/-- The parts of a request that do not come from its pointer (R259). `half` overrides the half of a SHADOWED landing
for the fetches of a gang (16 R412); `shadow` is the shadow write of R271. -/
structure Req where
  iface : Nat
  launch : Nat
  core : Nat
  base : Nat
  alloc : Nat
  twin : Bool
  need : Perms
  size : Nat
  shadow : Bool
  half : Option (EntryKey × Bool)
  deriving DecidableEq, Repr

/-- Why a request does not reach a place. -/
inductive Stop where
  /-- A refusal: kind, level, instance, the path trace as WHERE holds it (R273, R378), and the home of uncorrectable data. -/
  | fault (kind level inst : Nat) (trace : LaneMask) (home : Option Place)
  /-- A wait that is no fault: a quiesced entry (R277), a saved crew's scratchpad (R228). -/
  | wait (r : Run)
  deriving DecidableEq, Repr

/-- Where a request lands. `type` is R263's code, 0x10 for the crew window and 0x11 for the parameter window; `page` is
the key and content of the page-map entry it used. -/
structure Landing where
  key : EntryKey
  entry : LabelEntry
  level : Nat
  inst : Nat
  type : Nat
  owner : Nat
  o : Nat
  bytes : List Place
  pages : List (Nat × BitVec 128)
  trace : LaneMask
  out? : Option (Nat × Nat × DWord)
  deriving DecidableEq, Repr

def tHbm : Nat := 0x01
def tScratch : Nat := 0x02
def tWindow : Nat := 0x03
def tPool : Nat := 0x04
def tHost : Nat := 0x05
def tRelay : Nat := 0x06
def tMmio : Nat := 0x07
def tCrew : Nat := 0x10
def tParam : Nat := 0x11

/-! ### Pointers (R255) -/

def ptrDepth (p : DWord) : Nat := (p.extractLsb' 62 2).toNat

/-- The labels of a pointer, the top first. -/
def ptrLabels (p : DWord) : List Nat :=
  ([p.extractLsb' 50 12, p.extractLsb' 38 12, p.extractLsb' 26 12].map BitVec.toNat).take (ptrDepth p)

/-- The width of the offset field at a depth. -/
def offsetWidth (depth : Nat) : Nat := 62 - 12 * depth

def ptrOffset (p : DWord) : Nat := p.toNat % 2 ^ offsetWidth (ptrDepth p)

/-- The pointer of a label stack and an offset. -/
def makePtr (labels : List Nat) (o : Nat) : DWord :=
  BitVec.ofNat 64 (labels.length * 2 ^ 62 +
    (labels.foldl (fun (acc : Nat × Nat) l => (acc.1 + l * 2 ^ acc.2, acc.2 - 12)) (0, 50)).1 + o)

/-! ### Entries -/

/-- The 128 bits of an entry (R262). -/
def LabelEntry.bits (e : LabelEntry) : BitVec 128 :=
  (match e.action with | .invalid => 0#2 | .swap => 1#2 | .pop => 2#2 | .land => 3#2) ++ e.gen ++ BitVec.ofBool e.r ++
    BitVec.ofBool e.w ++ BitVec.ofBool e.x ++ BitVec.ofBool e.a ++ BitVec.ofBool e.s ++ BitVec.ofBool e.m ++ e.hop ++
    e.newLabel ++ e.owner ++ e.sharedIn ++ e.limit ++ e.base

/-- The entry of 128 bits. -/
def LabelEntry.ofBits (b : BitVec 128) : LabelEntry :=
  { action := match (b.extractLsb' 126 2).toNat with | 0 => .invalid | 1 => .swap | 2 => .pop | _ => .land
    gen := b.extractLsb' 118 8
    r := b.getLsbD 117, w := b.getLsbD 116, x := b.getLsbD 115, a := b.getLsbD 114, s := b.getLsbD 113, m := b.getLsbD 112
    hop := b.extractLsb' 104 8
    newLabel := b.extractLsb' 92 12
    owner := b.extractLsb' 86 6
    sharedIn := b.extractLsb' 80 6
    limit := b.extractLsb' 58 22
    base := b.extractLsb' 0 58 }

/-- The code of an action in a trace record (R272). -/
def Action.code : Action → Nat
  | .invalid => 0
  | .swap => 1
  | .pop => 2
  | .land => 3

def State.entry (s : State) (k : EntryKey) : LabelEntry :=
  match s.labels.find? (fun p => p.1 == k) with
  | some p => p.2
  | none => LabelEntry.reset

/-- Store an entry; an entry equal to the boot value is not listed. A whole write clears what was uncorrectable (R481). -/
def State.setEntry (s : State) (k : EntryKey) (e : LabelEntry) : State :=
  let rest := s.labels.filter (fun p => p.1 != k)
  { s with
    labels := if e = LabelEntry.reset then rest else rest ++ [(k, e)]
    labelPoison := s.labelPoison.filter (· != k) }

/-- Level codes (R258). -/
def lvC : Nat := 0
def lvD : Nat := 1
def lvP : Nat := 2
def lvF : Nat := 3
def lvRP : Nat := 4
def lvRD : Nat := 5

/-- The next hops that an entry of a level may name (R260). -/
def hopLegal (level : Nat) (hop : Byte) : Bool :=
  let h := hop.toNat
  let die := 0x20 ≤ h && h ≤ 0x23
  if level = lvC then die || h == 0x40 || h == 0x60
  else if level = lvD then h == 0x40 || h == 0x60
  else if level = lvP then die || h == 0x60
  else if level = lvF then h == 0x80
  else if level = lvRP then 0xA0 ≤ h && h ≤ 0xA3
  else false

/-- The signed bias of a SWAP or POP (R262). -/
def LabelEntry.bias (e : LabelEntry) (level : Nat) : Int :=
  if level = lvF then (e.base.extractLsb' 0 46).toInt else e.base.toInt

/-- The destination device of an F entry (R262). -/
def LabelEntry.device (e : LabelEntry) : Nat := (e.base.extractLsb' 46 12).toNat

/-- PAGE of a page-mapped LAND (R264). -/
def LabelEntry.psz (e : LabelEntry) : Nat := (e.newLabel.extractLsb' 0 2).toNat
def LabelEntry.shadowed (e : LabelEntry) : Bool := e.newLabel.getLsbD 2
def LabelEntry.sel (e : LabelEntry) : Bool := e.newLabel.getLsbD 3

/-- Bytes of a page (R264). -/
def LabelEntry.pageBytes (e : LabelEntry) : Nat :=
  match e.psz with
  | 0 => 65536
  | 1 => 2097152
  | _ => 1073741824

def LabelEntry.limitBytes (e : LabelEntry) : Nat := e.limit.toNat * 65536

/-- Pages in the landing (R270). -/
def LabelEntry.pageCount (e : LabelEntry) : Nat := (e.limitBytes + e.pageBytes - 1) / e.pageBytes

/-- The target types that a level may land (R258, R263). -/
def typeLegal (level type : Nat) : Bool :=
  if level = lvD then type == tHbm || type == tScratch || type == tWindow || type == tRelay || type == tMmio
  else if level = lvF then type == tPool || type == tHost
  else if level = lvRD then type == tHbm || type == tScratch || type == tWindow
  else false

/-- The fields of bits 57:0 that must be zero hold (R263). A core number of 160 or more names no place (R228): it is met at
the access. -/
def LabelEntry.baseOk (e : LabelEntry) : Bool :=
  match e.hop.toNat with
  | 0x01 => e.base.extractLsb' 40 18 == 0#18 && e.base.extractLsb' 0 4 == 0#4
  | 0x02 => e.base.extractLsb' 48 10 == 0#10 && e.base.extractLsb' 20 20 == 0#20 && e.base.extractLsb' 0 8 == 0#8
  | 0x03 => e.base.extractLsb' 26 32 == 0#32 && e.base.extractLsb' 0 20 == 0#20
  | 0x04 => e.base.extractLsb' 40 12 == 0#12 && e.base.extractLsb' 0 4 == 0#4
  | 0x05 => e.base.extractLsb' 0 16 == 0#16
  | 0x06 => true
  | 0x07 => e.base == 0#58
  | _ => false

/-- A page-mapped target. -/
def LabelEntry.paged (e : LabelEntry) : Bool := e.hop == 0x01#8 || e.hop == 0x04#8

/-- A structural defect of a LAND entry that its own bits show (R261, R263, R264). -/
def LabelEntry.landDefect (e : LabelEntry) (level : Nat) : Bool :=
  !typeLegal level e.hop.toNat || !e.baseOk ||
    (if e.paged then e.psz == 3 || e.limit == 0#22 else e.newLabel != 0#12)

/-! ### The walk (R259) -/

/-- A request on its way. `die` is the die of the issuing core, which stands for the instance of level C in traces and in
fault records (00 R1, R258). -/
structure Walk where
  die : Nat
  lv : Nat
  inst : Nat
  dev : Nat
  cur : Nat
  from? : Option Nat
  labels : List Nat
  o : Int
  visited : List (Nat × Nat)
  trace : List Nat
  dropped : Bool
  /-- Where the request left level F for another device: the device, the interface and the pointer of its flits (18 R435). -/
  out? : Option (Nat × Nat × DWord)
  deriving DecidableEq, Repr

/-- The instance that a record of this lookup names: at level C the die of the issuing core (00 R1, R258, R272). -/
def Walk.shownInst (w : Walk) : Nat := if w.lv = lvC then w.die else w.inst

/-- Append a trace record; the four most recent are kept (R272). -/
def Walk.note (w : Walk) (label action : Nat) : Walk :=
  let t := w.trace ++ [w.lv * 2 ^ 19 + w.shownInst * 2 ^ 14 + label * 4 + action]
  if t.length > 4 then { w with trace := t.drop 1, dropped := true } else { w with trace := t }

/-- The path trace (R273). -/
def Walk.path (w : Walk) : LaneMask :=
  BitVec.ofNat 96
    ((if w.dropped then 2 ^ 91 else 0) + w.trace.length * 2 ^ 88 +
      (w.trace.foldl (fun (acc : Nat × Nat) t => (acc.1 + t * 2 ^ acc.2, acc.2 + 22)) (0, 0)).1)

def Walk.refuse (w : Walk) (kind : Nat) : Stop :=
  .fault kind w.lv w.shownInst w.path none

/-- A walker meets uncorrectable data at this home of a table of its device (R275). -/
def Walk.meets (w : Walk) (home : Place) : Stop :=
  .fault kData w.lv w.shownInst w.path (if w.dev = 0 then some home else none)

/-- The key of the entry that a walk looks up. -/
def Walk.key (w : Walk) (label : Nat) : EntryKey :=
  { level := w.lv, inst := w.inst, iface := w.cur, label := label, dev := w.dev }

/-- M is needed in an entry whose NEXTHOP is F, at level F, and at the ingress levels (R266). -/
def needsM (level : Nat) (e : LabelEntry) : Bool :=
  level == lvF || level == lvRP || level == lvRD ||
    (match e.action with
     | .swap | .pop => e.hop == 0x60#8
     | .land | .invalid => false)

/-- Every permission that the request and the level need (R266). -/
def permitted (p : Perms) (level : Nat) (e : LabelEntry) : Bool :=
  (!p.r || e.r) && (!p.w || e.w) && (!p.x || e.x) && (!p.a || e.a) && (!p.s || e.s) && (!needsM level e || e.m)

/-- LIMIT on the arriving offset (R265, check 5). -/
def withinLimit (e : LabelEntry) (o : Int) (size : Nat) : Bool :=
  decide (0 ≤ o) && (e.limit == 0#22 || decide (o + size ≤ e.limitBytes))

/-- A structural defect of the entry on this walk (R260, R261, R263), or a POP or LAND of another owner (R265,
check 3). -/
def structural (w : Walk) (e : LabelEntry) : Bool :=
  match e.action with
  | .invalid => false
  | .swap | .pop =>
    (e.action == .pop && (e.owner.toNat != w.cur || w.labels.length ≤ 1)) ||
      !hopLegal w.lv e.hop || w.visited.contains (e.hop.toNat / 32, e.hop.toNat % 32)
  | .land => e.owner.toNat != w.cur || w.labels.length != 1 || e.landDefect w.lv

/-- The first check of R265 that fails. -/
def checkEntry (w : Walk) (e : LabelEntry) (need : Perms) (size : Nat) : Option Nat :=
  if e.action = .invalid then some kLabelInvalid
  else if (match w.from? with | some f => e.sharedIn.toNat != f || e.sharedIn == e.owner | none => false) then
    some kProtection
  else if structural w e then some kLabelInvalid
  else if !permitted need w.lv e then some kProtection
  else if !withinLimit e w.o size then some kLimit
  else none

/-! ### Landing (R228, R263, R270, R479) -/

/-- Every gang of the crew is over and nothing it started is left (R39, R40, R387). -/
def State.crewEnded (s : State) (r : CrewRef) : Bool :=
  s.allGangs.all (fun h => h.ref.crewRef != r || h.sch.run.isOver) && s.ops.all (fun o => o.owner.crewRef != r) &&
    s.wq.all (fun w => w.owner.crewRef != r) && s.fab.unacked.all (fun u => u.owner.crewRef != r)

/-- The crew of an interface whose allocation holds this scratchpad byte (R228), a resident one before a saved one; Plumb
secondaries only for their own gangs (16 R407). -/
def State.scratchOwner (s : State) (iface core byte : Nat) (req : Req) : Option Crew :=
  (s.crews.filter (fun c => c.site.isResident) ++ s.crews.filter (fun c => !c.site.isResident)).find? (fun c =>
    (match c.site with
     | .resident k b | .saved k b =>
       k == core && b ≤ byte && byte < b + allocBytes (match s.launch? c.ref.launch with
         | some l => l.packet.scratch
         | none => 0)
     | .unplaced | .ended => false) &&
      s.ifaceOf c.ref.launch == iface &&
      (c.ref.twin == false || (req.twin && c.ref.launch == req.launch && req.core == core)))

/-- The base key and capacity of page maps: those of this device, or of the remote device (R263). -/
def pmapKey (dev pmap : Nat) : Nat := if dev = 0 then pmap else peerBase (dev - 1) + pmap

/-- A page-map entry's content. -/
def State.pageEntry (s : State) (key : Nat) : BitVec 128 := BitVec.ofNat 128 (s.mem.value key 16)

/-- Reserved bits of a page-map entry are zero and its PPN is aligned for the page size (R268, R270). -/
def pageOk (m : BitVec 128) (psz : Nat) : Bool :=
  m.extractLsb' 16 35 == 0#35 && m.extractLsb' 3 5 == 0#5 &&
    (match psz with
     | 0 => true
     | 1 => m.extractLsb' 92 5 == 0#5
     | _ => m.extractLsb' 92 14 == 0#14)

def pagePpn (m : BitVec 128) : Nat := (m.extractLsb' 92 36).toNat
def pageFormat (m : BitVec 128) : Nat := (m.extractLsb' 12 4).toNat
def pageGeom (m : BitVec 128) : Nat := (m.extractLsb' 10 2).toNat
def pageCow (m : BitVec 128) : Bool := m.getLsbD 1

/-- Bytes of HBM on a die (R223). -/
def dieHbmBytes : Nat := 192 * 2 ^ 30

/-- One page of a page-mapped landing: the key and content of its entry and the place of its first byte (R270). -/
def State.resolvePage (s : State) (w : Walk) (e : LabelEntry) (half : Bool) (i : Nat) :
    Except Stop (Nat × BitVec 128 × Place) :=
  let key := pmapKey w.dev (e.base.extractLsb' 0 40).toNat +
    16 * ((if e.shadowed && half then e.pageCount else 0) + i)
  if s.quiesces.any (fun q => match q.what with | .page a _ => a == key | .entry _ _ => false) then .error (.wait .quiesce)
  else if s.mem.poisoned key then .error (w.meets (.hbm key))
  else
    let m := s.pageEntry key
    let phys := pagePpn m * 65536
    if !pageOk m e.psz then .error (w.refuse kPageAbsent)
    else if m.getLsbD 0 = false then .error (w.refuse kPageAbsent)
    else if e.hop = 0x01#8 ∧ (phys / 2 ^ 38 ≠ w.inst ∨ phys % 2 ^ 38 ≥ dieHbmBytes) then
      .error (w.refuse kLandingAbsent)
    else if m.extractLsb' 8 2 = 3#2 then .error (w.refuse kProtection)
    else
      .ok (key, m,
        if e.hop = 0x04#8 then .pool (e.base.extractLsb' 52 6).toNat phys
        else if w.dev = 0 then .hbm phys
        else .peerHbm (w.dev - 1) phys)

/-- `n` places from `p` on. -/
def Place.run (p : Place) (n : Nat) : List Place := (List.range n).map p.plus

/-- Resolve a page-mapped landing; a request over a page boundary uses both pages (log entry 9). -/
def State.landPaged (s : State) (w : Walk) (e : LabelEntry) (half : Bool) (size : Nat) :
    Except Stop (List Place × List (Nat × BitVec 128)) :=
  let o := w.o.toNat
  let p := e.pageBytes
  match s.resolvePage w e half (o / p) with
  | .error x => .error x
  | .ok (k, m, base) =>
    let first := min size (p - o % p)
    if first = size then .ok ((base.plus (o % p)).run size, [(k, m)])
    else
      match s.resolvePage w e half (o / p + 1) with
      | .error x => .error x
      | .ok (k2, m2, base2) => .ok ((base.plus (o % p)).run first ++ base2.run (size - first), [(k, m), (k2, m2)])

/-- The window unit of a byte is carved for the interface (R479). -/
def State.windowOk (s : State) (iface die byte : Nat) : Bool :=
  byte / 2 ^ 20 < 64 && (s.ifc iface).windows.contains (die, byte / 2 ^ 20)

/-- A byte past the last unit of a window (R479) lies in no window, whichever device it is on. -/
def Place.inWindow (p : Place) : Bool :=
  match p with
  | .window _ b | .peerWindow _ _ b => b / 2 ^ 20 < 64
  | .hbm _ | .scratch _ _ | .mmio _ _ | .pool _ _ | .host _ _ | .peerHbm _ _ | .peerScratch _ _ _ | .param _ _ => true

/-- A scratchpad or window byte of another device: whether one of its crews holds the byte, or the unit is carved, is not in this
device's state, so both outcomes are open (log entry 34); past the window's last unit there is nothing. -/
def State.landPeer (s : State) (w : Walk) (ps : List Place) : Except Stop (List Place) :=
  if ps.all (fun p => p.inWindow && (match p.key with | some k => Config.peerHolds s.freeCtr k | none => false)) then .ok ps
  else .error (w.refuse kLandingAbsent)

/-- Resolve a SCRATCHPAD landing (R228); a die has cores 0 to 159 (R263), so nothing lies behind a greater number. -/
def State.landScratch (s : State) (w : Walk) (e : LabelEntry) (req : Req) : Except Stop (List Place) :=
  let core := w.inst * 160 + (e.base.extractLsb' 40 8).toNat
  let b := (e.base.extractLsb' 0 20).toNat + w.o.toNat
  if (e.base.extractLsb' 40 8).toNat ≥ 160 then .error (w.refuse kLandingAbsent)
  else if w.dev ≠ 0 then s.landPeer w ((Place.peerScratch (w.dev - 1) core b).run req.size)
  else
    let owners := (List.range req.size).map (fun i => s.scratchOwner e.owner.toNat core (b + i) req)
    if owners.any (fun c => match c with | none => true | some k => k.site.isResident && s.crewEnded k.ref) then
      .error (w.refuse kLandingAbsent)
    else if owners.any (fun c => match c with | none => false | some k => !k.site.isResident) then
      .error (.wait .savedScratch)
    else .ok ((Place.scratch core b).run req.size)

/-- LAND: the place that the entry names (R263). -/
def State.land (s : State) (w : Walk) (label : Nat) (e : LabelEntry) (req : Req) : Except Stop Landing :=
  let o := w.o.toNat
  let mk (bytes : List Place) (pages : List (Nat × BitVec 128)) : Landing :=
    { key := w.key label, entry := e, level := w.lv, inst := w.inst, type := e.hop.toNat, owner := e.owner.toNat, o := o,
      bytes := bytes, pages := pages, trace := w.path, out? := w.out? }
  match e.hop.toNat with
  | 0x01 | 0x04 =>
    let half := match req.half with
      | some (k, h) => if k = w.key label then h else e.sel
      | none => e.sel
    match s.landPaged w e (half ^^ req.shadow) req.size with
    | .error x => .error x
    | .ok (bytes, pages) => .ok (mk bytes pages)
  | 0x02 =>
    match s.landScratch w e req with
    | .error x => .error x
    | .ok bytes => .ok (mk bytes [])
  | 0x03 =>
    let b := (e.base.extractLsb' 20 6).toNat * 2 ^ 20 + o
    if w.dev ≠ 0 then (s.landPeer w ((Place.peerWindow (w.dev - 1) w.inst b).run req.size)).map (fun ps => mk ps [])
    else if (List.range req.size).all (fun i => s.windowOk e.owner.toNat w.inst (b + i)) then
      .ok (mk ((Place.window w.inst b).run req.size) [])
    else .error (w.refuse kLandingAbsent)
  | 0x05 => .ok (mk ((Place.host e.device ((e.base.extractLsb' 0 46).toNat + o)).run req.size) [])
  | 0x06 => .error (w.refuse kProtection)
  | _ => .ok (mk ((Place.mmio e.owner.toNat o).run req.size) [])

/-- The running offset fits the offset field of the remaining depth (18 R435). -/
def fitsDepth (o : Int) (depth : Nat) : Bool := decide (0 ≤ o) && decide (o < 2 ^ offsetWidth depth)

/-- The die behind a hop to level D or REMOTE-D cannot be reached because it is fenced (R260, 17 R418): on this device the
die mask says so; the die masks of other devices are not in this device's state (log entry 94). -/
def State.hopFenced (s : State) (dev lv inst : Nat) : Bool :=
  (lv == lvD || lv == lvRD) &&
    (if dev = 0 then !s.pkg.dieMask.getLsbD inst else !Config.peerDie s.freeCtr (dev * 4 + inst))

/-- The walk at the next hop of a SWAP or POP entry (R259, R260, R262). -/
def State.hop (s : State) (w w1 : Walk) (below : List Nat) (e : LabelEntry) : Except Stop Walk :=
  let lv := e.hop.toNat / 32
  let inst := e.hop.toNat % 32
  let labels := if e.action = .pop then below else e.newLabel.toNat :: below
  let o := w.o + e.bias w.lv
  let crossed := decide (e.action = .swap ∧ e.owner.toNat ≠ w.cur)
  if s.hopFenced w.dev lv inst then .error (w1.refuse kLandingAbsent)
  else if lv = lvRP ∧ s.fab.reach.contains e.device = false then .error (w1.refuse kPeer)
  else if lv = lvRP ∧ fitsDepth o labels.length = false then .error (w1.refuse kLimit)
  else
    .ok { w1 with
      lv := lv, inst := inst, labels := labels, o := o
      dev := if lv = lvRP then e.device + 1 else w.dev
      cur := if crossed then e.owner.toNat else w.cur
      from? := if crossed then some w.cur else none
      visited := w.visited ++ [(lv, inst)]
      out? := if lv = lvRP then some (e.device, if crossed then e.owner.toNat else w.cur, makePtr labels o.toNat)
        else w.out? }

/-- Where in reserved HBM a walker finds uncorrectable data of a label table: the manual gives the tables no place (R275). -/
def State.tableHome (s : State) : Place := .hbm ((Config.reading s.freeCtr).toNat % (4 * dieHbmBytes))

/-- Where a walk without permissions, page maps and data ends (17 R426); none while it must wait. -/
def State.locate (s : State) (req : Req) : Nat → Walk → Option (Except Stop (Walk × LabelEntry))
  | 0, w => some (.error (w.refuse kLabelInvalid))
  | n + 1, w =>
    match w.labels with
    | [] => some (.error (w.refuse kLabelInvalid))
    | label :: below =>
      let k := w.key label
      let e := s.entry k
      let w1 := w.note label e.action.code
      let free : Perms := { r := false, w := false, x := false, a := false, s := false }
      if s.quiesces.any (fun q => match q.what with | .entry j _ => j == k | .page _ _ => false) then none
      else if s.labelPoison.contains k then some (.error (w.meets (s.tableHome)))
      else
        match checkEntry w1 { e with m := true } free 1 with
        | some kind => some (.error (w1.refuse kind))
        | none =>
          match e.action with
          | .land => some (.ok (w1, e))
          | .invalid | .swap | .pop =>
            match s.hop w w1 below e with
            | .error x => some (.error x)
            | .ok w2 => s.locate req n w2

/-- One lookup: land, or the walk at the next hop (R259). -/
def State.lookup (s : State) (w : Walk) (req : Req) : Except Stop (Landing ⊕ Walk) :=
  match w.labels with
  | [] => .error (w.refuse kLabelInvalid)
  | label :: below =>
    let k := w.key label
    let e := s.entry k
    let w1 := w.note label e.action.code
    if s.quiesces.any (fun q => match q.what with | .entry j _ => j == k | .page _ _ => false) then .error (.wait .quiesce)
    else if s.labelPoison.contains k then
      .error (w.meets s.tableHome)
    else
      match checkEntry w1 e req.need req.size with
      | some kind => .error (w1.refuse kind)
      | none =>
        match e.action with
        | .land =>
          match s.land w1 label e req with
          | .error x => .error x
          | .ok l => .ok (.inl l)
        | .invalid | .swap | .pop =>
          match s.hop w w1 below e with
          | .error x => .error x
          | .ok w2 => .ok (.inr w2)

/-- A walk of at most `n` lookups (R261: 12 at most). -/
def State.walk (s : State) (req : Req) : Nat → Walk → Except Stop Landing
  | 0, w => .error (w.refuse kLabelInvalid)
  | n + 1, w =>
    match s.lookup w req with
    | .error x => .error x
    | .ok (.inl l) => .ok l
    | .ok (.inr w1) => s.walk req n w1

/-- The label entry of the crew window and of the parameter window, which no table holds (R189, R227). -/
def coreEntry (writable : Bool) : LabelEntry :=
  { LabelEntry.reset with action := .land, r := true, w := writable, a := writable }

/-- The two windows that the core provides at level C (R189, R227, R258). -/
def State.coreWindow (w : Walk) (label : Nat) (req : Req) : Except Stop Landing :=
  let crew := label == 0xFFF
  let w1 := w.note label 3
  let e := coreEntry crew
  let o := w.o.toNat
  let size := if crew then req.alloc else 4096
  if w.labels.length ≠ 1 then .error (w1.refuse kLabelInvalid)
  else if !permitted req.need lvC e then .error (w1.refuse kProtection)
  else if o + req.size > size then .error (w1.refuse kLimit)
  else
    .ok { key := w.key label, entry := e, level := lvC, inst := w.die, type := if crew then tCrew else tParam, owner := req.iface,
          o := o, pages := [], trace := w1.path, out? := none
          bytes := if crew then (Place.scratch req.core (req.base + o)).run req.size
            else (Place.param req.launch o).run req.size }

/-- A request's walk at level C of the issuing interface (R259). -/
def Walk.start (die iface : Nat) (labels : List Nat) (o : Int) : Walk :=
  { die := die, lv := lvC, inst := 0, dev := 0, cur := iface, from? := none, labels := labels, o := o, visited := [(lvC, 0)],
    trace := [], dropped := false, out? := none }

/-- Translate a pointer (R256, R259). A request of no launch finds no window of a core. -/
def State.translate (s : State) (req : Req) (p : DWord) : Except Stop Landing :=
  let w := Walk.start (req.core / 160) req.iface (ptrLabels p) (ptrOffset p)
  match ptrLabels p with
  | [] => .error (w.refuse kNullDepth)
  | label :: _ =>
    if req.launch ≠ 0 ∧ (label = 0xFFF ∨ label = 0xFFE) then State.coreWindow w label req
    else s.walk req 12 w

/-- Translate a request that arrives from another device at REMOTE-P of this one (R258, 18 R435). `crossed` is the interface that a
crossing at the sender's level F left: the first lookup here checks it (R267, log entry 108). -/
def State.translateIngress (s : State) (req : Req) (crossed : Option Nat) (p : DWord) : Except Stop Landing :=
  let w := { Walk.start 0 req.iface (ptrLabels p) (ptrOffset p) with lv := lvRP, from? := crossed, visited := [(lvRP, 0)] }
  match ptrLabels p with
  | [] => .error (w.refuse kNullDepth)
  | _ :: _ => s.walk req 2 w

/-! ### What the issuing gang asks for -/

/-- A request of the issuing gang. -/
def State.request (s : State) (need : Perms) (size : Nat) : Req :=
  { iface := s.myIface, launch := s.g.ref.launch, core := s.myCore, base := s.myBase, alloc := s.myAlloc,
    twin := s.g.ref.twin, need := need, size := size, shadow := false, half := none }

/-- The LAND entry permits the target to be read, written or sealed (R233): `op` names what is asked. -/
inductive TargetOp where
  | load | store | ldx | atomic | element | sealing
  deriving DecidableEq, Repr

/-- The rules of R233: the kind of the fault for a target that does not have the operation. MMIO accesses are checked
against the register that they name (R483). -/
def targetFault (op : TargetOp) (type : Nat) : Option Nat :=
  match op with
  | .load => none
  | .ldx => if type = tMmio then some kProtection else none
  | .store => if type = tParam then some kProtection else none
  | .atomic => if type = tHost ∨ type = tMmio ∨ type = tParam then some kProtection else none
  | .element => if type = tHbm ∨ type = tPool then none else some kFormat
  | .sealing => if type = tHbm then none else some kProtection

end Sys2Proof.Machine
end

