-- ==== Sys2Proof/Machine/Registers.lean ====
section
/-! DEFINITION. The registers of an interface's MMIO block as a load finds them (08 R225, R479, R483; 07 R193; 09 R279;
15 R380; 16 R396; 17 R419, R420, R427; 18 R432; 19 R464; 20 R468, R475, R477). -/

namespace Sys2Proof.Machine

/-- Offsets of registers that other definitions name. -/
def rLtSel : Nat := 0x200
def rLtData0 : Nat := 0x208
def rLtData1 : Nat := 0x210
def rLtCmd : Nat := 0x218
def rLtAux : Nat := 0x220
def rLtStat : Nat := 0x228
def rFqBase : Nat := 0x300
def rFqCtl : Nat := 0x308
def rFqHead : Nat := 0x310
def rFqTail : Nat := 0x318
def rFqNotify : Nat := 0x320
def rFqBacklog : Nat := 0x328
def rFqCmd : Nat := 0x330
def rFqStat : Nat := 0x338
def rUcBase : Nat := 0x400
def rUcPages : Nat := 0x408
def rUcFree : Nat := 0x410
def rSnapCmd : Nat := 0x418
def rSnapStat : Nat := 0x420
def rRelCnt : Nat := 0x428
def rCtrClr : Nat := 0x600
def rDbgCtl : Nat := 0x880
def rDbgCtx : Nat := 0x888
def rQSel : Nat := 0x900
def rQData : Nat := 0x908
def rQCmd : Nat := 0x928
def rQStat : Nat := 0x930
def rLostNotify : Nat := 0x940
def rLostLast : Nat := 0x948
def rLostCount : Nat := 0x950

/-- The counter `k` of die `d` (R427). -/
def rCounter (d k : Nat) : Nat := 0x500 + 0x40 * d + 8 * k

/-- The bits of a register held as it was written that read back; the others are reserved (R5). -/
def regMask (off : Nat) : Option DWord :=
  if off = rLtSel then some 0xFF0FFF#64
  else if off = rLtData0 ∨ off = rLtData1 then some (~~~ 0#64)
  else if off = rLtCmd then some 0x3#64
  else if off = rLtAux then some 0x1FFFFFFFF#64
  else if off = rLtStat then some 0xFF#64
  else if off = rFqBase ∨ off = rFqNotify then some (~~~ 0#64)
  else if off = rFqCtl then some 0x21F#64
  else if off = rFqHead ∨ off = rFqTail then some 0xFFFFFFFF#64
  else if off = rFqCmd then some 0xFFFFFFFF00000003#64
  else if off = rFqStat then some 0xFFFFFFFF#64
  else if off = rUcBase then some (~~~ 0#64)
  else if off = rUcPages then some 0xFFFFFFFF#64
  else if off = rSnapCmd then some 0xFFFFFFFF00000003#64
  else if off = rSnapStat then some 0xFF#64
  else if off = rRelCnt then some (~~~ 0#64)
  else if off = rCtrClr then some 0#64
  else if off = rDbgCtl then some 0xFFFFFFFF00000003#64
  else if off = rDbgCtx then some (~~~ 0#64)
  else if off = rQSel then some 0x3FF#64
  else if rQData ≤ off ∧ off ≤ rQData + 24 ∧ off % 8 = 0 then some (~~~ 0#64)
  else if off = rQCmd then some 0x3#64
  else if off = rQStat then some 0xFF#64
  else if off = rLostNotify ∨ off = rLostLast then some (~~~ 0#64)
  else if off = rLostCount then some 0xFFFFFFFF#64
  else none

/-- Number of set bits. -/
def popCount {n : Nat} (b : BitVec n) : Nat :=
  (List.range n).foldl (fun a i => if b.getLsbD i then a + 1 else a) 0

/-- Scratchpad bytes per core (R225): the upper dies are fused off on JV-D9P-768N. -/
def State.spadBytes (s : State) : Nat := if s.pkg.ordering = 1 then 0x80000 else 0x100000

def State.spadCap (s : State) : DWord :=
  BitVec.ofNat 64 ((if s.pkg.ordering = 1 then 0 else 2 ^ 32) + s.spadBytes)

/-- PKGSTAT (R419). -/
def State.pkgStat (s : State) : DWord :=
  let n := popCount s.pkg.dieMask
  0#24 ++ s.pkg.epoch ++ 0#12 ++ s.pkg.linkUp ++ 0#4 ++ s.pkg.dieMask ++ BitVec.ofNat 2 s.pkg.lead ++ BitVec.ofNat 3 n ++
    0#1 ++ BitVec.ofBool s.pkg.split ++ BitVec.ofBool (n < 4 || s.pkg.linkUp != 0xF#4)

/-- LINKREV: the revision of each link that is up, and 0 for one that is down (R420). -/
def State.linkRevReg (s : State) : DWord :=
  BitVec.ofNat 64
    ((List.range 4).foldl
      (fun a k => if s.pkg.linkUp.getLsbD k then a + (s.pkg.linkRev / 2 ^ (16 * k) % 2 ^ 16) * 2 ^ (16 * k) else a) 0)

/-- Cores of a die fenced since boot. -/
def State.fencedCores (s : State) (d : Nat) : Nat := (s.pkg.fenced.filter (fun c => c / 160 == d)).length

/-- INVCORE (R475). -/
def State.invCore (s : State) : DWord :=
  BitVec.ofNat 64
    ((List.range 4).foldl
      (fun a d => if s.pkg.dieMask.getLsbD d then
          a + (s.fencedCores d * 256 + (s.pkg.coresPerDie - s.fencedCores d)) * 2 ^ (16 * d)
        else a) 0)

/-- Live stacks: those of live dies (R475). -/
def State.liveStacks (s : State) : BitVec 16 :=
  BitVec.ofNat 16
    ((List.range 16).foldl
      (fun a i => if s.pkg.dieMask.getLsbD (i / 4) && s.pkg.hbmStacks.getLsbD i then a + 2 ^ i else a) 0)

def State.hbmBytes (s : State) : DWord := BitVec.ofNat 64 (48 * 2 ^ 30 * popCount s.liveStacks)

def State.invId (s : State) : DWord := BitVec.ofNat 64 (s.pkg.ordering % 16 * 2 ^ 16 + s.pkg.device % 4096)

/-- The code of a power state (R470); a package without power answers no load. -/
def PState.code : PState → Nat
  | .active => 0
  | .idle => 1
  | .parked => 2
  | .off => 3

/-- PWRSTAT (R475). -/
def State.pwrStat (s : State) : DWord :=
  BitVec.ofNat 16 s.pw.capw ++ BitVec.ofNat 16 s.pw.watts ++ 0#9 ++ BitVec.ofNat 7 s.pw.clock ++ 0#8 ++
    BitVec.ofBool (s.pw.holdHbm != 0#4) ++ BitVec.ofBool (s.pw.holdDie != 0#4) ++ BitVec.ofBool s.pw.holdCap ++ 0#3 ++
    BitVec.ofNat 2 s.pw.pstate.code

/-- THERM: live dies only (R475). -/
def State.therm (s : State) : DWord :=
  let live (d : Nat) (b : Byte) : Byte := if s.pkg.dieMask.getLsbD d then b else 0#8
  live 3 s.pw.hbmTemp[3] ++ live 2 s.pw.hbmTemp[2] ++ live 1 s.pw.hbmTemp[1] ++ live 0 s.pw.hbmTemp[0] ++
    live 3 s.pw.junction[3] ++ live 2 s.pw.junction[2] ++ live 1 s.pw.junction[1] ++ live 0 s.pw.junction[0]

def State.eccCnt (s : State) : DWord :=
  BitVec.ofNat 32 (min s.pw.sramErrs 0xFFFFFFFF) ++ BitVec.ofNat 32 (min s.pw.hbmErrs 0xFFFFFFFF)

/-- The code of a port's state (R432). -/
def PortState.code : PortState → Nat
  | .down => 0
  | .up => 1
  | .dark => 2
  | .relock => 3
  | .stopped => 4

/-- The circuit that holds port `p` at a TIME: of the slot that this TIME lies in, and in its lit window (R433, R434). -/
def Port.circuitAt (c : Port) (p time : Nat) : Option Nat :=
  if 256 * p ≤ time ∧ c.slot = (time - 256 * p) / 4096 ∧ (time - 256 * p) % 4096 < 3840 then c.circuit else none

/-- Transmit key generation of the circuit that holds the port in its slot (R432). -/
def Port.keyGen (c : Port) (p time : Nat) : Nat :=
  if c.state = .up then
    match c.circuitAt p time with
    | none => 0
    | some d =>
      match c.keys.find? (fun k => k.1 == d) with
      | some k => k.2.1
      | none => 0
  else 0

/-- PORTSTAT (R432). -/
def Port.status (c : Port) (p time : Nat) : DWord :=
  0#16 ++ BitVec.ofNat 8 (c.keyGen p time) ++ c.relocks ++ c.lit ++ BitVec.ofNat 4 (16 - c.tx) ++ BitVec.ofNat 4 c.tx ++ 0#5 ++
    BitVec.ofNat 3 c.state.code

/-- Records of an interface that wait for space (R381). -/
def State.backlog (s : State) (iface : Nat) : Nat :=
  (s.records.filter (fun r => r.iface == iface && !r.written)).length

/-- WINDOWS[d] (R479). -/
def State.windowsReg (s : State) (iface d : Nat) : DWord :=
  BitVec.ofNat 64
    ((List.range 64).foldl (fun a u => if (s.ifc iface).windows.contains (d, u) then a + 2 ^ u else a) 0)

/-- No access of the interface has been counted since its counters were cleared (R427). -/
def State.uncounted (s : State) (iface : Nat) : Bool :=
  (List.range 4).all (fun d => [1, 2, 3].all (fun k => s.reg iface (rCounter d k) == 0#64))

/-- The counters that the manual leaves to the caches and links: 0 before any access, and then free (R427, log entry 5); those of a
fenced die stand still. -/
def State.freeCounter (s : State) (iface off : Nat) : DWord :=
  if s.pkg.dieMask.getLsbD ((off - 0x500) / 0x40) = false then s.reg iface off
  else if s.uncounted iface then 0#64
  else Config.counterValue (s.freeCtr * 2 ^ 24 + iface * 2 ^ 17 + off)

/-- A 64-bit register of an MMIO block, where one stands at this offset (R483). -/
def State.mmioRead (s : State) (iface off : Nat) : Option DWord :=
  match regMask off with
  | some m => some (s.reg iface off &&& m)
  | none =>
    if off % 8 ≠ 0 then none
    else if off = 0x100 then some s.spadCap
    else if off = rFqBacklog then some (BitVec.ofNat 64 (s.backlog iface))
    else if off = rUcFree then some (BitVec.ofNat 64 ((s.reg iface rUcPages).toNat % 2 ^ 32 - (s.ifc iface).reserveUsed.length))
    else if off = 0x480 then some s.pkgStat
    else if off = 0x488 then some s.linkRevReg
    else if 0x500 ≤ off ∧ off < 0x600 then
      (if off % 0x40 = 0x38 then some 0#64
       else if 0x20 ≤ off % 0x40 then some (s.freeCounter iface off)
       else some (s.reg iface off))
    else if 0x700 ≤ off ∧ off < 0x780 then
      (match s.fab.ports.toList[(off - 0x700) / 8]? with
       | some c => some (c.status ((off - 0x700) / 8) s.time)
       | none => none)
    else if off = 0x800 then some s.invCore
    else if off = 0x808 then some (s.liveStacks.setWidth 64)
    else if off = 0x810 then some s.hbmBytes
    else if off = 0x818 then some s.invId
    else if off = 0x840 then some s.pwrStat
    else if off = 0x848 then some s.therm
    else if off = 0x850 then some s.eccCnt
    else if off = 0x860 then some (BitVec.ofNat 64 s.pkg.boot)
    else if 0xA00 ≤ off ∧ off < 0xA20 then some (s.windowsReg iface ((off - 0xA00) / 8))
    else none

/-- The queue whose doorbell stands at this offset (R193). -/
def doorbellQueue (off : Nat) : Option Nat :=
  if 0x10000 ≤ off ∧ off < 0x12000 ∧ off % 8 = 0 then some ((off - 0x10000) / 8) else none

/-- The access of R483 has a register to act on: size D at a 64-bit register, size W at a doorbell. -/
def State.mmioOk (s : State) (iface off size : Nat) : Bool :=
  (size == 8 && (s.mmioRead iface off).isSome) || (size == 4 && (doorbellQueue off).isSome)

/-- What a load of an MMIO landing returns: a register, or TAIL at a doorbell (R193). -/
def State.mmioLoad (s : State) (iface off : Nat) : DWord :=
  match doorbellQueue off with
  | some q => (s.queue iface q).tail.setWidth 64
  | none =>
    match s.mmioRead iface off with
    | some v => v
    | none => 0#64

/-- Add to a counter of the interface on a die; those of a fenced die stand still (R427). -/
def State.count (s : State) (iface d k n : Nat) : State :=
  if s.pkg.dieMask.getLsbD d then
    s.setReg iface (rCounter d k) (s.reg iface (rCounter d k) + BitVec.ofNat 64 n)
  else s

end Sys2Proof.Machine
end

