-- ==== Sys2Proof/Machine/Access.lean ====
section
/-! DEFINITION. Reading and writing memory for a gang: the checks of 02 R70 and 08 R236 in their order, what a load sees
(02 R77, 16 R407, R408), performing a write at its home (08 R481, 09 R268, 16 R395, R397, R408), and the remote accesses of
18 R437 to R441. -/

namespace Sys2Proof.Machine

/-- Why an access does not take place. -/
inductive Fail where
  | fault (f : FaultInfo)
  | wait (r : Run)
  deriving DecidableEq, Repr

/-! ### Checks (R236) -/

/-- The fault of a translation that stopped, with the refusing level and instance (15 R377, 19 R460). -/
def Stop.fail (x : Stop) (p : DWord) : Fail :=
  match x with
  | .fault kind level inst trace home =>
    .fault { kind := kind, level := level, inst := inst, pointer := p, lanes := 0#96, whr := trace, home := home }
  | .wait r => .wait r

/-- A fault of an access past its translation; LEVEL and INST are those of the landing only for a translation fault
(R377). -/
def Landing.fault (l : Landing) (kind : Nat) (p : DWord) : Fail :=
  let atLevel := kind == kProtection || kind == kLimit || kind == kLandingAbsent || kind == kPeer
  .fault { kind := kind, level := if atLevel then l.level else 0, inst := if atLevel then l.inst else 0, pointer := p,
           lanes := 0#96, whr := l.trace, home := none }

def alignFail (p : DWord) : Fail :=
  .fault { FaultInfo.plain kAlign with pointer := p }

/-- WHERE in sector form (R378). -/
def sectorWhere (p : Place) : LaneMask :=
  let (pool, a) := match p with
    | .pool _ a => (true, a)
    | .hbm a | .window _ a | .scratch _ a | .mmio _ a | .host _ a | .peerHbm _ a | .peerScratch _ _ a | .peerWindow _ _ a
    | .param _ a => (false, a)
  BitVec.ofNat 96 (2 ^ 95 + (if pool then 2 ^ 40 else 0) + a % 2 ^ 40 / 32 * 32)

/-- The byte lies in a sealed granule of HBM (R251); what another device has sealed is not in this device's state (log entry
38). -/
def State.sealedAt (s : State) (p : Place) : Bool :=
  p.isHbm && (match p.key with
    | some k => if p.remote.isNone then s.mem.isSealed k else Config.peerSealed s.freeCtr (k / 65536)
    | none => false)

/-- Some byte lies in a sealed granule of HBM (R251). -/
def State.sealedBytes (s : State) (bs : List Place) : Bool := bs.any s.sealedAt

/-- The byte's sector holds uncorrectable data (R481): of this device as its memory says, of another home as that home finds it
(log entry 38). A host holds no poison. -/
def State.poisonedAt (s : State) (p : Place) : Bool :=
  match p, p.key with
  | .host _ _, _ | _, none => false
  | _, some k => if p.remote.isNone then s.mem.poisoned k else Config.peerPoisoned s.freeCtr (k / 32)

/-- A poisoned byte among those read (R481). -/
def State.poisonedByte (s : State) (bs : List Place) : Option Place := bs.find? s.poisonedAt

/-- The landing's host adapter is not reachable: no rule names the refusal of a HOST landing, and the model takes that of R460 and
10 R285, after the target type (log entry 95). -/
def State.hostGone (s : State) (l : Landing) : Bool :=
  l.bytes.any (fun p => match p with
    | .host v _ => !s.fab.reach.contains v
    | .hbm _ | .scratch _ _ | .window _ _ | .mmio _ _ | .pool _ _ | .peerHbm _ _ | .peerScratch _ _ _ | .peerWindow _ _ _
    | .param _ _ => false)

/-- Steps 1 to 3 of R236: alignment, translation, target type. -/
def State.checkLand (s : State) (req : Req) (op : TargetOp) (align : Nat) (p : DWord) : Except Fail Landing :=
  if p.toNat % align ≠ 0 then .error (alignFail p)
  else
    match s.translate req p with
    | .error x => .error (x.fail p)
    | .ok l =>
      match targetFault op l.type with
      | some kind => .error (l.fault kind p)
      | none =>
        if l.type = tMmio ∧ s.mmioOk l.owner l.o req.size = false then .error (l.fault kProtection p)
        else if s.hostGone l then .error (l.fault kPeer p)
        else .ok l

/-- Steps 1 to 4 of R236: alignment, translation, target type, sealing. -/
def State.checkTarget (s : State) (req : Req) (op : TargetOp) (align : Nat) (p : DWord) : Except Fail Landing :=
  match s.checkLand req op align p with
  | .error x => .error x
  | .ok l =>
    if (req.need.w || req.need.a) && op != .sealing && s.sealedBytes l.bytes then .error (l.fault kSealedStore p) else .ok l

/-- Step 6 of R236: uncorrectable data among the bytes read. -/
def State.checkData (s : State) (l : Landing) (p : DWord) : Except Fail Landing :=
  match s.poisonedByte l.bytes with
  | some b => .error (.fault { FaultInfo.plain kData with pointer := p, whr := sectorWhere b, home := some b })
  | none => .ok l

/-- A whole check of one access at its home. -/
def State.checkAt (s : State) (req : Req) (op : TargetOp) (align : Nat) (p : DWord) : Except Fail Landing :=
  match s.checkTarget req op align p with
  | .error x => .error x
  | .ok l => if req.need.r || req.need.a then s.checkData l p else .ok l

/-- The open transaction that the issuing gang's loads see; a Plumb secondary sees its primary's (R407, R408). -/
def State.myTxn (s : State) : Option Txn :=
  if s.g.ref.twin then (s.gang? s.g.ref.other).bind Gang.txn else s.g.txn

/-- The key of a byte of this device in a transaction's copy of its granule (R408). -/
def Txn.copyKey (t : Txn) (p : Place) : Option Nat :=
  match p.key with
  | some k =>
    if p.remote.isNone then (t.copies.find? (fun c => c.granule == k / 65536)).map (fun c => c.page * 65536 + k % 65536) else none
  | none => none

/-- The byte's sector holds uncorrectable data as the issuing gang's own access finds it: in its transaction's copy where it has one
(R408), else at its home. -/
def State.ownPoisoned (s : State) (p : Place) : Bool :=
  match s.myTxn.bind (fun t => t.copyKey p) with
  | some k => s.mem.poisoned k
  | none => s.poisonedAt p

/-- Step 6 of R236 for an access of the issuing gang. -/
def State.checkOwnData (s : State) (l : Landing) (p : DWord) : Except Fail Landing :=
  match l.bytes.find? s.ownPoisoned with
  | some b => .error (.fault { FaultInfo.plain kData with pointer := p, whr := sectorWhere b, home := some b })
  | none => .ok l

/-- A whole check of one access of the issuing gang. -/
def State.check (s : State) (req : Req) (op : TargetOp) (align : Nat) (p : DWord) : Except Fail Landing :=
  match s.checkTarget req op align p with
  | .error x => .error x
  | .ok l => if req.need.r || req.need.a then s.checkOwnData l p else .ok l

/-- An access of the crew's allocation by offset, without translation (R244): ALIGN, LIMIT, DATA-UNCORRECTABLE. -/
def State.checkOffset (s : State) (read : Bool) (size align : Nat) (o : Nat) : Except Fail Landing :=
  let p := BitVec.ofNat 64 o
  let l : Landing :=
    { key := { level := lvC, inst := 0, iface := s.myIface, label := 0xFFF, dev := 0 }, entry := coreEntry true, level := lvC,
      inst := 0, type := tCrew, owner := s.myIface, o := o, bytes := (Place.scratch s.myCore (s.myBase + o)).run size,
      pages := [], trace := 0#96, out? := none }
  if o % align ≠ 0 then .error (alignFail p)
  else if o + size > s.myAlloc then .error (l.fault kLimit p)
  else if read then s.checkData l p
  else .ok l

/-- The home of a binder or other object is on a device that is not reachable (R285): such a fault names no level. -/
def Landing.device? (l : Landing) : Option Nat :=
  match l.bytes with
  | [] => none
  | p :: _ => p.remote

/-! ### What a load sees -/

/-- The byte of a T6 group at index `j` with element `pos` replaced (R242). -/
def t6Byte (pos x j : Nat) (b : Byte) : Byte := BitVec.ofNat 8 (t6Set (b.toNat * 256 ^ j) pos x / 256 ^ j)

/-- A byte after a queued write. -/
def PendWrite.over (w : PendWrite) (p : Place) (b : Byte) : Byte :=
  match w.kind with
  | .bytes bs _ _ _ => bs.foldl (fun a x => if x.1 = p then x.2 else a) b
  | .elem g pos x _ _ _ => (match g.findIdx? (· == p) with | some j => t6Byte pos x j b | none => b)
  | .seal _ _ _ => b

/-- The byte after the writes of the gang that are not performed yet, where `b` is the byte before them. -/
def State.overlay (s : State) (r : GangRef) (p : Place) (b : Byte) : Byte :=
  s.wq.foldl (fun acc w => if w.owner = r then w.over p acc else acc) b

/-- A write of the gang that is not performed yet gives the whole byte. -/
def State.isQueued (s : State) (r : GangRef) (p : Place) : Bool :=
  s.wq.any (fun w => w.owner == r && (match w.kind with
    | .bytes bs _ _ _ => bs.any (fun x => x.1 == p)
    | .elem _ _ _ _ _ _ | .seal _ _ _ => false))

/-- A write of the gang that is not performed yet reaches the byte. -/
def State.isTouched (s : State) (r : GangRef) (p : Place) : Bool :=
  s.wq.any (fun w => w.owner == r && (match w.kind with
    | .bytes bs _ _ _ => bs.any (fun x => x.1 == p)
    | .elem g _ _ _ _ _ => g.contains p
    | .seal _ _ _ => false))

/-- The latest write of the gang to this byte that is not performed yet. -/
def State.queuedByte (s : State) (r : GangRef) (p : Place) : Option Byte :=
  if s.isQueued r p then some (s.overlay r p 0#8) else none

/-- A byte of a launch's parameter block; past PARAMBYTES it reads as zero (R189). -/
def State.paramByte (s : State) (launch off : Nat) : Byte :=
  match s.launch? launch with
  | some l => l.params.getD off 0#8
  | none => 0#8

/-- The byte as its home holds it. What a pool, a host or another device holds is not in this device's state: the value is free
(log entry 38). -/
def State.homeByte (s : State) (p : Place) : Byte :=
  match p.key with
  | some k => if p.remote.isNone then s.mem.get k else Config.peerByte s.freeCtr k
  | none =>
    match p with
    | .param l o => s.paramByte l o
    | .mmio i o => (s.mmioLoad i (o / 8 * 8)).extractLsb' (o % 8 * 8) 8
    | .hbm _ | .scratch _ _ | .window _ _ | .pool _ _ | .host _ _ | .peerHbm _ _ | .peerScratch _ _ _
    | .peerWindow _ _ _ => 0#8

/-- The byte as a transaction's copies hold it, where it lies in a granule that they hold (R408). Of another device's granule
only the bytes written are known here. -/
def State.txnByte (s : State) (t : Txn) (p : Place) : Option Byte :=
  match t.copyKey p, p.key with
  | some k, _ => some (s.mem.get k)
  | none, some k => if p.remote.isNone then none else (t.far.find? (fun c => c.1 == k)).map Prod.snd
  | none, none => none

/-- The byte as the issuing gang's own load finds it where its home gives `b`: its transaction's copy (R408), then its own writes
(R77, R407). Writes that had issued before the copy was made are in it; stores in a Plumb copy's buffer come after it. -/
def State.ownOver (s : State) (p : Place) (b : Byte) : Byte :=
  match s.myTxn.bind (fun t => s.txnByte t p) with
  | some c => { s with wq := s.wq.filter s.isBuffered }.overlay s.g.ref p c
  | none => s.overlay s.g.ref p b

/-- The byte as the issuing gang's own load finds it. -/
def State.ownByte (s : State) (p : Place) : Byte := s.ownOver p (s.homeByte p)

/-- The value of bytes, the lowest first. -/
def State.ownValue (s : State) (bs : List Place) : Nat := leValue (bs.map s.ownByte)

/-- Bytes with their places. -/
def placed (bs : List Place) (v : Nat) : List (Place × Byte) := bs.zip (leBytes bs.length v)

/-- Places with the pointers of their bytes, for an access at pointer `p` (10 R289). -/
def pointed (bs : List Place) (p : DWord) : List (Place × DWord) :=
  bs.zip ((List.range bs.length).map (fun j => p + BitVec.ofNat 64 j))

/-! ### Performing a write at its home -/

/-- A range of granules holds this one. -/
def inRanges (rs : List (Nat × Nat)) (g : Nat) : Bool := rs.any (fun r => r.1 ≤ g && g < r.1 + r.2)

/-- A request of the device itself for an interface. -/
def cpReq (iface : Nat) (need : Perms) (size : Nat) : Req :=
  { iface := iface, launch := 0, core := 0, base := 0, alloc := 0, twin := false, need := need, size := size,
    shadow := false, half := none }

/-- Page `i` of an interface's Undercoat reserve, as a granule of this device's HBM: what UCBASE leads to with R and W, on a boundary
of 64 KiB (R396). The device has made these lookups before a quiesce of their entries begins, and that quiesce ends after the copy that
they serve (09 R277, log entry 65). -/
def State.reserveAt (s : State) (iface i : Nat) : Option Nat :=
  match { s with quiesces := [] }.translate (cpReq iface .readWrite 65536) (s.reg iface rUcBase + BitVec.ofNat 64 (65536 * i)) with
  | .ok l => (match l.bytes.head? with | some (.hbm a) => if a % 65536 = 0 then some (a / 65536) else none | _ => none)
  | .error _ => none

/-- The first page of an interface's reserve that is reached and not in use, from page `i` on, among as many as the last argument
says. -/
def State.findPage (s : State) (iface i : Nat) : Nat → Option Nat
  | 0 => none
  | n + 1 =>
    match s.reserveAt iface i with
    | some q => if (s.ifc iface).reserveUsed.contains q then s.findPage iface (i + 1) n else some q
    | none => s.findPage iface (i + 1) n

/-- A free page of an interface's Undercoat reserve, while fewer than UCPAGES are in use: the first (R395, log entry 65). -/
def State.freePage (s : State) (iface : Nat) : Option Nat :=
  let n := (s.reg iface rUcPages).toNat % 2 ^ 32
  if (s.ifc iface).reserveUsed.length < n then s.findPage iface 0 n else none

/-- A granule copied into a page of HBM (R395). -/
def State.copyOut (s : State) (g page : Nat) : State := { s with mem := s.mem.copyTo g page }

/-- A page of an interface's reserve takes a copy of a granule (R395). -/
def State.takeReserve (s : State) (iface g page : Nat) : State :=
  (s.setIfc iface { s.ifc iface with reserveUsed := (s.ifc iface).reserveUsed ++ [page] }).copyOut g page

/-- Pages of an interface's reserve are free again. -/
def State.freeReserve (s : State) (iface : Nat) (pages : List Nat) : State :=
  s.setIfc iface { s.ifc iface with reserveUsed := (s.ifc iface).reserveUsed.filter (fun q => !pages.contains q) }

/-- The granule is copied, or has been written without a copy: at most one copy is taken (R395). -/
def Snapshot.past (p : Snapshot) (g : Nat) : Bool := p.copied.any (fun c => c.1 == g) || p.missed.contains g

/-- A snapshot that still needs a copy of the granule before it is written (R395). -/
def Snapshot.wants (p : Snapshot) (g : Nat) : Bool := inRanges p.set g && !p.past g

/-- The granule is written without a copy (R395). -/
def Snapshot.miss (p : Snapshot) (g : Nat) : Snapshot := { p with missed := p.missed ++ [g] }

/-- The granule's copy lies in this page of the reserve (R395). -/
def Snapshot.take (p : Snapshot) (g page : Nat) : Snapshot := { p with copied := p.copied ++ [(g, page)] }

/-- A launch with a snapshot becomes non-replayable (R397) and is counted in NONREPL (R395, R396). -/
def State.nonReplayable (s : State) (launch : Nat) : State :=
  match s.launch? launch with
  | none => s
  | some l =>
    match l.snapshot with
    | none => s
    | some p =>
      if p.nonReplayable then s
      else
        let s1 := s.modLaunch launch (fun l => { l with snapshot := some { p with nonReplayable := true } })
        let v := s1.reg l.iface rRelCnt
        s1.setReg l.iface rRelCnt (v.extractLsb' 32 32 ++ (v.extractLsb' 0 32 + 1#32))

/-- A kept snapshot of a launch that still runs is the launch's snapshot (R401). -/
def State.shareKept (s : State) (k : Kept) : Kept :=
  match (s.launch? k.launch).bind Launch.snapshot with
  | some p => { k with snap := { p with seals := k.snap.seals, sels := k.snap.sels } }
  | none => k

/-- A kept snapshot of interface `i` whose launch is gone takes its own copy of the granule, or is past it (R395, R401). -/
def State.copyKept (s : State) (g i : Nat) (k : Kept) : State :=
  if k.snap.wants g = false then s
  else
    let page := s.freePage i
    let s1 := match page with | some q => s.takeReserve i g q | none => s
    let snap := match page with | some q => k.snap.take g q | none => k.snap.miss g
    s1.setIfc i { s1.ifc i with kept := (s1.ifc i).kept.map (fun x => if x.name = k.name then { x with snap := snap } else x) }

/-- The copy-on-write path of one granule: every running launch and every kept snapshot that holds it in its set and
lacks a copy takes one from its interface's reserve; a kept snapshot of a launch that runs shares its copies (R395, R401). -/
def State.copyGranule (s : State) (g : Nat) : State :=
  let s1 := s.launches.foldl
    (fun s l =>
      match l.snapshot with
      | none => s
      | some p =>
        if l.phase ≠ .ended ∧ p.wants g then
          match s.freePage l.iface with
          | some q => (s.takeReserve l.iface g q).modLaunch l.seq (fun l => { l with snapshot := some (p.take g q) })
          | none => (s.nonReplayable l.seq).modLaunch l.seq (fun l => { l with snapshot := l.snapshot.map (fun p => p.miss g) })
        else s) s
  let s2 := { s1 with ifaces := s1.ifaces.map (fun (ki : Nat × Iface) => (ki.1, { ki.2 with kept := ki.2.kept.map s1.shareKept })) }
  s2.ifaces.foldl (fun s ki => ki.2.kept.foldl (fun s k => s.copyKept g ki.1 k) s) s2

/-- No snapshot that holds the granule's page still lacks a copy of any of its granules; one written without a copy lacks it (R395). -/
def State.cowDone (s : State) (g : Nat) : Bool :=
  let doneIn (p : Snapshot) : Bool :=
    p.set.all (fun r => !(r.1 ≤ g && g < r.1 + r.2) || (List.range r.2).all (fun i => p.copied.any (fun c => c.1 == r.1 + i)))
  s.launches.all (fun l => match l.snapshot with | some p => l.phase == .ended || doneIn p | none => true) &&
    s.ifaces.all (fun ki => ki.2.kept.all (fun k => doneIn k.snap))

/-- DIRTY is set, and COW cleared once no copy is wanted any more, in a page-map entry a write used (R268, R395). -/
def State.markPage (s : State) (pm : Nat) : State :=
  let m := s.pageEntry pm
  let g := pagePpn m
  let m1 := m ||| 4#128
  let m2 := if pageCow m && s.cowDone g then m1 &&& ~~~ 2#128 else m1
  if m2 = m then s else { s with mem := s.mem.putBytes pm (leBytes 16 m2.toNat) }

/-- Granules (memory key / 65,536) written to by bytes. -/
def granulesOf (kbs : List (Nat × Byte)) : List Nat := (kbs.map (fun kb => kb.1 / 65536)).eraseDups

/-- The open transactions of other gangs that hold a copy of a granule are marked conflicted (R408). -/
def State.markConflicts (s : State) (who : GangRef) (gs : List Nat) : State :=
  s.modGangs
    (fun h => h.ref != who && (match h.txn with
      | some t => t.mark == none && gs.any (fun g => t.granules.contains g)
      | none => false))
    (fun h => { h with txn := h.txn.map (fun t => { t with mark := some .conflicted }) })

/-- The gang keeps the words that its bytes change, as they were: its fetches are not ordered with its own stores (02 R79). -/
def State.noteOld (s : State) (who : GangRef) (kbs : List (Nat × Byte)) : State :=
  if who = noGang then s
  else
    let old := ((kbs.map (fun kb => kb.1 / 4 * 4)).eraseDups).map (fun k => (k, BitVec.ofNat 32 (s.mem.value k 4)))
    s.modGang who (fun h => { h with oldWords := (h.oldWords ++ old).eraseDups })

/-- Perform one access's bytes at their homes, in one step. What another home holds is not in this device's state (log entry 38). -/
def State.performBytes (s : State) (who : GangRef) (bs : List (Place × Byte)) (pages : List Nat) : State :=
  let kbs := (bs.filter (fun b => b.1.remote.isNone)).filterMap (fun b => b.1.key.map (fun k => (k, b.2)))
  let gs := granulesOf (bs.filterMap (fun b => b.1.key.map (fun k => (k, b.2))))
  let s1 := gs.foldl (fun s g => if g < 2 ^ 24 then s.copyGranule g else s) (s.noteOld who kbs)
  let s2 := { s1 with mem := s1.mem.writeAccess kbs }
  let s3 := pages.eraseDups.foldl State.markPage s2
  s3.markConflicts who gs

/-- Poison the sectors of these places on this device (R481). -/
def State.taintPlaces (s : State) (ps : List Place) : State :=
  ps.foldl (fun s p => if p.remote.isSome then s else
    match p.key with
    | some k => { s with mem := s.mem.taint k }
    | none => s) s

/-! ### Replay (R397) -/

/-- A performed write to this place leaves the launch replayable. -/
def State.keepsReplay (s : State) (r : GangRef) (p : Place) : Bool :=
  match p with
  | .scratch _ _ => s.inAllocation r.crewRef p
  | .hbm a =>
    (match s.launch? r.launch with
     | some l => (match l.snapshot with
       | some sn => inRanges sn.set (a / 65536)
       | none => true)
     | none => true)
  | .window _ _ | .mmio _ _ | .pool _ _ | .host _ _ | .peerHbm _ _ | .peerScratch _ _ _ | .peerWindow _ _ _
  | .param _ _ => false

def State.noteReplay (s : State) (r : GangRef) (ps : List Place) : State :=
  if ps.all (s.keepsReplay r) then s else s.nonReplayable r.launch

/-! ### Remote accesses (18 R437 to R441) -/

/-- The relay transit reserve, in flits of 256 bytes (R435, R439): 8 MiB of each live die (R229, 17 R418). -/
def State.transitFlits (s : State) : Nat := ((List.range 4).filter (fun d => s.pkg.dieMask.getLsbD d)).length * (8 * 2 ^ 20 / 256)

/-- Flits that wait in the coalescers and the relay reserve. -/
def State.relayLoad (s : State) : Nat :=
  s.fab.transit.length + (s.fab.coalesced.map (fun h => h.flits.length)).sum

/-- The interface and pointer of the flits of a landing (R435). A pool or host request carries its physical address
(log entry 12). -/
def Landing.route (l : Landing) : Nat × DWord :=
  match l.out? with
  | some (_, i, p) => (i, p)
  | none =>
    match l.bytes with
    | .pool _ a :: _ => (l.owner, BitVec.ofNat 64 a)
    | .host _ a :: _ => (l.owner, BitVec.ofNat 64 a)
    | _ => (l.owner, 0#64)

/-- A flit from this device. -/
def State.flit (s : State) (dev : Nat) (type : FlitType) (bulk : Bool) (route : Nat × DWord) (payload : List Byte)
    (tag : Nat) : Flit :=
  { dst := dev, src := s.pkg.device, type := type, relay := !bulk, hops := 0, bulk := bulk, iface := route.1, load := 0,
    seq := 0, ptr := route.2, payload := payload, tag := tag }

/-- The line of a place on its device. -/
def Place.line (p : Place) : Nat :=
  match p.key with
  | some k => k / 64
  | none => 0

/-- Flits that a payload needs (R435). -/
def flitCount (payload : List Byte) : Nat := (payload.length + 223) / 224

/-- Egress flits queued for a device. -/
def State.egressLoad (s : State) (dev : Nat) : Nat :=
  ((s.fab.egress.filter (fun o => o.flit.dst == dev)).map (fun o => max 1 (flitCount o.flit.payload))).sum

/-- The egress queue of a device has no room for `n` more flits (R440). -/
def State.egressNoRoom (s : State) (dev n : Nat) : Bool := (s.egressLoad dev + n) * 256 > s.fab.egressCap

/-- The relay reserve has no room for `n` more flits (R439, R440). -/
def State.egressFull (s : State) (n : Nat) : Bool := s.relayLoad + n > s.transitFlits && n != 0

/-- Put one access into the issuing core's coalescer. -/
def State.coalesce (s : State) (dev op : Nat) (f : Flit) : State :=
  { s with fab := { s.fab with coalesced := s.fab.coalesced ++
      [{ core := s.myCore, dev := dev, owner := s.g.ref, since := s.time, op := op, flits := [f] }] } }

/-- An unacknowledged write or atomic of the issuing gang (R441, R484). -/
def State.addUnacked (s : State) (u : Unacked) : State :=
  let s1 := { s with fab := { s.fab with unacked := s.fab.unacked ++ [u] } }
  s1.modG (fun g => { g with unacked := g.unacked ++ [{ id := u.id, dev := u.dev }] })

/-- The pointers of these bytes. -/
def ptrsOf (ptrs : List (Place × DWord)) (bs : List (Place × Byte)) : List (Place × DWord) :=
  ptrs.filter (fun x => bs.any (fun b => b.1 == x.1))

/-- A byte put into its place among bytes in the order of their keys; it replaces the byte of its own place. -/
def putByte (b : Place × Byte) : List (Place × Byte) → List (Place × Byte)
  | [] => [b]
  | c :: r =>
    if b.1 = c.1 then b :: r
    else if b.1.key.getD 0 < c.1.key.getD 0 then b :: c :: r
    else c :: putByte b r

/-- Bytes in the order of their keys. -/
def inOrder (bs : List (Place × Byte)) : List (Place × Byte) := bs.foldl (fun a b => putByte b a) []

/-- The flit of a remote write of these bytes, which are in order: it is BULK and takes the direct path when it does not fit one
flit (R438). Bytes that do not follow each other carry their offsets (log entry 61). -/
def State.writeFlit (s : State) (dev : Nat) (route : Nat × DWord) (bs : List (Place × Byte)) (id : Nat) : Flit :=
  let base := match bs with | [] => 0 | b :: _ => b.1.key.getD 0
  let offs := bs.map (fun b => b.1.key.getD 0 - base)
  { s.flit dev .write (bs.length > 224) route (bs.map Prod.snd) id with
    offs := if offs = List.range bs.length then [] else offs }

/-- An access that an unacknowledged one of the same gang to one of its lines comes before (R441). -/
def unackedBefore (h : Held) (lines : List Nat) (v : Unacked) : Bool :=
  v.owner == h.owner && v.dev == h.dev && v.id < h.op && v.lines.any lines.contains

/-- The lines of an access that a coalescer holds. -/
def State.heldLines (s : State) (h : Held) : List Nat :=
  match s.fab.unacked.find? (fun u => u.id == h.op) with
  | some u => u.lines
  | none =>
    match (s.ops.find? (fun o => o.id == h.op)).map Op.kind with
    | some (.remoteLoad _ _ _ _ _ _ place) => [place.line]
    | _ => []

/-- The access is a write. -/
def State.heldWrite (s : State) (h : Held) : Bool := s.fab.unacked.any (fun u => u.id == h.op && !u.bytes.isEmpty)

/-- An earlier access of the same gang to the line is not acknowledged: a later one is held behind it, but for a write behind a
direct write (R441). -/
def State.lineHeld (s : State) (h : Held) : Bool :=
  s.fab.unacked.any (fun v => unackedBefore h (s.heldLines h) v && !(v.direct && s.heldWrite h))

/-- A remote line to which the issuing gang has an unacknowledged write (18 R441). -/
def State.lineBusy (s : State) (ps : List Place) : Bool :=
  ps.any (fun p => s.fab.unacked.any (fun u => u.owner == s.g.ref && p.remote == some u.dev && u.lines.contains p.line))

/-- The flits of an access that leaves the coalescer: behind a direct write to its line a write takes the direct path, whatever its
size (R441). -/
def State.heldOut (s : State) (h : Held) : List OutFlit :=
  let direct := s.fab.unacked.any (unackedBefore h (s.heldLines h))
  h.flits.map (fun f => { flit := if direct then { f with relay := false } else f, owner := some h.owner, mcast := none })

/-- The flits have room in the egress queue of their device, if they take the direct path (R440). -/
def State.heldRoom (s : State) (h : Held) : Bool :=
  (s.heldOut h).all (fun o => o.flit.relay || !s.egressNoRoom o.flit.dst (max 1 (flitCount o.flit.payload)))

/-- One access leaves the coalescer. -/
def State.sendOne (s : State) (h : Held) : State :=
  let out := s.heldOut h
  let direct := out.any (fun o => !o.flit.relay)
  { s with fab := { s.fab with
      coalesced := s.fab.coalesced.filter (fun (x : Held) => x.op != h.op)
      transit := s.fab.transit ++ out.filter (fun (o : OutFlit) => o.flit.relay)
      egress := s.fab.egress ++ out.filter (fun (o : OutFlit) => !o.flit.relay)
      unacked := s.fab.unacked.map (fun (u : Unacked) => if u.id = h.op ∧ direct then { u with direct := true } else u) } }

/-- Send what a coalescer holds where `p` selects it and no line hold stands against it, as far as there is room. -/
def State.sendHeld (s : State) (p : Held → Bool) : State :=
  s.fab.coalesced.foldl (fun s h => if p h && !s.lineHeld h && s.heldRoom h then s.sendOne h else s) s

/-- The bytes of an access that a coalescer holds become these (R437, R441). -/
def State.rewrite (s : State) (h : Held) (dev : Nat) (route : Nat × DWord) (pages : List Nat) (ptrs : List (Place × DWord))
    (bs : List (Place × Byte)) : State :=
  let f := s.writeFlit dev route bs h.op
  let change (u : Unacked) : Unacked :=
    if u.id = h.op then
      { u with bytes := bs, lines := (bs.map (fun b => b.1.line)).eraseDups, pages := u.pages ++ pages, ptrs := u.ptrs ++ ptrs }
    else u
  { s with fab := { s.fab with
      coalesced := s.fab.coalesced.map (fun (x : Held) => if x.op = h.op then { x with flits := [f] } else x)
      unacked := s.fab.unacked.map change } }

/-- The pointer of an access over these bytes: that of its lowest one. -/
def lowestRoute (old new : List (Place × Byte)) (r q : Nat × DWord) : Nat × DWord :=
  let first (l : List (Place × Byte)) : Nat := match l with | [] => 0 | b :: _ => b.1.key.getD 0
  if first new < first old then q else r

/-- A remote write that stands for itself. -/
def State.newWrite (s : State) (dev : Nat) (route : Nat × DWord) (pages : List Nat) (ptrs : List (Place × DWord))
    (bs : List (Place × Byte)) (line : Nat) : State :=
  let id := s.nextId
  let s1 := { s with nextId := id + 1 }
  let s2 := s1.addUnacked
    { id := id, dev := dev, owner := s1.g.ref, direct := false, lines := [line], bytes := bs, pages := pages,
      ptrs := ptrsOf ptrs bs, released := false }
  s2.coalesce dev id (s2.writeFlit dev route bs id)

/-- One remote write: the bytes of one line, which are in order (R437). One that meets a held write of its line merges with it
(R441); one that follows the gang's last write to the device may make a run of up to 4 KiB with it. -/
def State.remoteWrite (s : State) (dev : Nat) (route : Nat × DWord) (pages : List Nat) (ptrs : List (Place × DWord))
    (bytes : List (Place × Byte)) : State :=
  let bs := inOrder bytes
  match bs with
  | [] => s
  | b :: _ =>
    let mine := s.fab.coalesced.filter (fun h => h.owner == s.g.ref && h.dev == dev)
    let bytesOf (h : Held) : List (Place × Byte) := match s.fab.unacked.find? (fun u => u.id == h.op) with | some u => u.bytes | none => []
    let routeOf (h : Held) : Nat × DWord := match h.flits with | f :: _ => (f.iface, f.ptr) | [] => (0, 0#64)
    let inLine (h : Held) : Bool := s.heldWrite h && s.lineHeld h && (routeOf h).1 == route.1 && s.heldLines h == [b.1.line]
    match mine.getLast?, s.free with
    | some h, (n, s1) =>
      let old := bytesOf h
      let follows : Bool := match old.getLast? with
        | some c => c.1.key.map (fun k => k + 1) == b.1.key && b.1.line != c.1.line
        | none => false
      if inLine h then s.rewrite h dev (lowestRoute old bs (routeOf h) route) pages (ptrsOf ptrs bs) (inOrder (old ++ bs))
      else if follows && (routeOf h).1 == route.1 && old.length + bs.length ≤ 4096 && Config.choice n then
        s1.rewrite h dev (routeOf h) pages (ptrsOf ptrs bs) (old ++ bs)
      else s.newWrite dev route pages ptrs bs b.1.line
    | none, _ => s.newWrite dev route pages ptrs bs b.1.line

/-- REL, FENCE, RACK and SEMP send at once what the gang has in its coalescer (R437). -/
def State.flushCoalescer (s : State) : State := s.sendHeld (fun h => h.owner == s.g.ref)

/-- Group bytes by line. -/
def byLine : List (Place × Byte) → List (List (Place × Byte))
  | bs => ((bs.map (fun b => b.1.line)).eraseDups).map (fun l => bs.filter (fun b => b.1.line == l))

/-! ### Pending writes -/

/-- The die of a home on this device. -/
def Place.die : Place → Option Nat
  | .hbm p => some (p / 2 ^ 38)
  | .scratch c _ => some (c / 160)
  | .window d _ => some d
  | .mmio _ _ | .param _ _ => none
  | .pool _ _ | .host _ _ | .peerHbm _ _ | .peerScratch _ _ _ | .peerWindow _ _ _ => none

/-- The page-map entries that a queued write used. -/
def PendWrite.pages (w : PendWrite) : List Nat :=
  match w.kind with
  | .bytes _ pages _ _ => pages
  | .elem _ _ _ pages _ _ => pages
  | .seal _ _ _ => []

/-- A queued write of a granule's bytes. -/
def PendWrite.inGranule (w : PendWrite) (g : Nat) : Bool :=
  match w.kind with
  | .seal h _ _ => h == g
  | .bytes _ _ _ _ | .elem _ _ _ _ _ _ => w.places.any (fun p => match p.key with | some k => k / 65536 == g | none => false)

/-- Perform one T6 element at its home (R242). -/
def State.performElem (s : State) (who : GangRef) (g : List Place) (pos x : Nat) (pages : List Nat) : State :=
  s.performBytes who (placed g (t6Set (leValue (g.map s.homeByte)) pos x)) pages

/-- Perform the bytes of a write. -/
def State.performWrite (s : State) (w : PendWrite) : State :=
  match w.kind with
  | .bytes bs pages _ _ => s.performBytes w.owner bs pages
  | .elem g pos x pages _ _ => s.performElem w.owner g pos x pages
  | .seal _ _ _ => s

/-- A step of SEAL or UNSEAL on one granule: writes that have issued reach the home first (R252). The seal bits that a
launch changed are kept as they were with its snapshot (R400). Answers whether the bit changed. -/
def State.sealStep (s : State) (who : GangRef) (g : Nat) (v : Bool) : Bool × State :=
  let early := s.wq.filter (fun w => !s.isBuffered w && w.inGranule g && w.isBytes)
  let s1 := early.foldl State.performWrite { s with wq := s.wq.filter (fun w => !early.any (fun e => e.id == w.id)) }
  let was := s1.mem.seals.contains g
  if was = v then (false, s1)
  else
    let note (p : Snapshot) : Snapshot := if p.seals.any (fun x => x.1 == g) then p else { p with seals := p.seals ++ [(g, was)] }
    (true, ({ s1 with mem := s1.mem.setSeal g v }).modLaunch who.launch (fun l => { l with snapshot := l.snapshot.map note }))

/-- A step of SEAL or UNSEAL on a granule of another device: it is made at its home, whose old bit is not in this device's state (R252,
log entry 38). -/
def State.sealFar (s : State) (dev : Nat) (route : Nat × DWord) (v : Bool) : Bool × State :=
  let (n, s1) := s.free
  let f := s1.flit dev .atomic false route [if v then 1#8 else 0#8] s1.nextId
  (Config.choice n,
    { s1 with
      nextId := s1.nextId + 1
      fab := { s1.fab with transit := s1.fab.transit ++ [{ flit := f, owner := none, mcast := none }] } })

/-- A step of SEAL or UNSEAL, on this device or another. -/
def State.sealOne (s : State) (who : GangRef) (g : Nat) (v : Bool) (far : Option (Nat × Nat × DWord)) : Bool × State :=
  match far with
  | none => s.sealStep who g v
  | some (dev, iface, p) => s.sealFar dev (iface, p) v

/-- Count a granule that a waiting SEAL or UNSEAL changed (R252). -/
def countSeal (changed : Bool) (h : Gang) : Gang :=
  match h.sch.run with
  | .sealing t n => { h with sch := { h.sch with run := .sealing t (if changed then n + 1 else n) } }
  | _ => h

/-- Perform one queued write. -/
def State.performQueued (s : State) (w : PendWrite) : State :=
  let s1 := { s with wq := s.wq.filter (fun v => v.id != w.id) }
  match w.kind with
  | .bytes _ _ _ _ | .elem _ _ _ _ _ _ => s1.performWrite w
  | .seal g v far =>
    let (changed, s2) := s1.sealOne w.owner g v far
    s2.modGang w.owner (countSeal changed)

/-- Two queued writes reach a common byte. -/
def PendWrite.overlaps (a b : PendWrite) : Bool :=
  match a.kind, b.kind with
  | .seal _ _ _, .seal _ _ _ => true
  | .seal g _ _, _ => b.inGranule g
  | _, .seal g _ _ => a.inGranule g
  | _, _ => a.places.any (fun p => b.places.contains p)

/-- The dies of this device on which a queued write has its homes. -/
def PendWrite.dies (w : PendWrite) : List Nat :=
  match w.kind with
  | .bytes _ _ _ _ | .elem _ _ _ _ _ _ => w.places.filterMap Place.die
  | .seal g _ _ => if g < 2 ^ 24 then [g / 2 ^ 22] else []

/-- A queued write must be performed before a later one: they are of one gang and reach a common byte (R77), or are steps of one
SEAL or UNSEAL, which go in ascending order (R252), or one core sent both to one home die (17 R416, log entry 7). -/
def State.precedes (s : State) (v w : PendWrite) : Bool :=
  v.id < w.id &&
    ((v.owner == w.owner && v.overlaps w) ||
      (s.coreOf v.owner.crewRef == s.coreOf w.owner.crewRef && v.dies.any (fun d => w.dies.contains d)))

/-- The queued writes that must be performed before `w`, and `w` itself, in order. -/
def State.mustPrecede (s : State) (w : PendWrite) : List PendWrite :=
  ((s.wq.filter (fun v => v.id < w.id && !s.isBuffered v)).foldr
    (fun v acc => if acc.any (fun a => s.precedes v a) then v :: acc else acc) [w])

/-- Perform a queued write and those before it. -/
def State.performFrom (s : State) (w : PendWrite) : State := (s.mustPrecede w).foldl State.performQueued s

/-- Perform the queued writes that must come before an access of this gang to these places. -/
def State.flushTo (s : State) (r : GangRef) (ps : List Place) : State :=
  if s.wq.isEmpty then s
  else
    let now : PendWrite :=
      { id := s.nextId, owner := r, kind := .bytes (ps.map (fun p => (p, 0#8))) [] 0 (0, 0#64), ptrs := [], released := false,
        compared := true }
    ((s.mustPrecede now).filter (fun w => w.id != s.nextId)).foldl State.performQueued s

/-! ### Stores of a gang -/

/-- A byte that the transaction takes (R408). -/
def State.transactional (s : State) (p : Place) : Bool := s.g.txn.isSome && p.isHbm

/-- Devices that hold a granule of a transaction. -/
def granuleDevices (gs : List Nat) : Nat := ((gs.map (fun g => g / 2 ^ 32)).eraseDups).length

/-- A transactional write reaches this byte: its granule is copied at the first such write. Past 64 devices or 4,096 granules the
transaction is oversized; without a free reserve page it is reserve-short (R408). -/
def State.txnReach (s : State) (iface : Nat) (p : Place) : State :=
  match s.g.txn, p.key with
  | some t, some k =>
    let g := k / 65536
    let put (s : State) (t : Txn) : State := s.modG (fun h => { h with txn := some t })
    if t.granules.contains g then s
    else if t.granules.length ≥ 4096 ∨ granuleDevices (g :: t.granules) > 64 then put s { t with mark := t.mark.or (some .oversized) }
    else if p.remote.isSome then put s { t with granules := t.granules ++ [g] }
    else
      match s.freePage iface with
      | none => put s { t with mark := t.mark.or (some .reserveShort) }
      | some q => put (s.takeReserve iface g q)
          { t with granules := t.granules ++ [g], copies := t.copies ++ [{ granule := g, page := q, iface := iface }] }
  | some _, none | none, _ => s

/-- One access written into the transaction's copies (R408); what lies in a granule that has no copy is performed nowhere. -/
def State.txnWrite (s : State) (iface : Nat) (bs : List (Place × Byte)) : State :=
  let s1 := bs.foldl (fun s b => s.txnReach iface b.1) s
  match s1.g.txn with
  | none => s1
  | some t =>
    let near := bs.filterMap (fun b => (t.copyKey b.1).map (fun k => (k, b.2)))
    let far := bs.filterMap (fun b => b.1.key.bind (fun k =>
      if b.1.remote.isSome && t.granules.contains (k / 65536) then some (k, b.2) else none))
    let put (l : List (Nat × Byte)) (c : Nat × Byte) : List (Nat × Byte) := c :: l.filter (fun d => d.1 != c.1)
    { s1 with mem := s1.mem.writeAccess near }.modG (fun h => { h with txn := some { t with far := far.foldl put t.far } })

/-- The page-map entries that a transaction's writes used receive DIRTY when it commits (R268). -/
def State.txnPages (s : State) (pages : List Nat) : State :=
  s.modG (fun h => { h with txn := h.txn.map (fun t => { t with pages := t.pages ++ pages }) })

/-- Writes of the gang that had issued before a granule is copied are in the copy (R408). -/
def State.flushGranules (s : State) (bs : List (Place × Byte)) : State :=
  (s.wq.filter (fun w => w.owner == s.g.ref && !s.isBuffered w && w.isBytes &&
    bs.any (fun b => match b.1.key with | some k => w.inGranule (k / 65536) | none => false))).foldl State.performFrom s

/-- Queue a write that a step of its own performs (R291), or that a comparison of Plumb copies must come before (16 R405). -/
def State.enqueue (s : State) (bs : List (Place × Byte)) (pages : List Nat) (owner : Nat) (route : Nat × DWord)
    (ptrs : List (Place × DWord)) (compared : Bool := true) : State :=
  { s with
    wq := s.wq ++
      [{ id := s.nextId, owner := s.g.ref, kind := .bytes bs pages owner route, ptrs := ptrsOf ptrs bs, released := false,
         compared := compared }]
    nextId := s.nextId + 1 }

/-- The accesses that a queued store is made of: an access of 16 bytes is two of 8 (R291), so a write of more than 8 bytes falls
into its aligned double words. One that meets a poisoned sector stays whole, since one access may clear it (08 R481). -/
def State.pieces (s : State) (bs : List (Place × Byte)) : List (List (Place × Byte)) :=
  if bs.length ≤ 8 || bs.any (fun b => s.poisonedAt b.1) then [bs]
  else ((bs.map (fun b => b.1.key.map (fun k => k / 8))).eraseDups).map (fun d => bs.filter (fun b => b.1.key.map (fun k => k / 8) == d))

/-- One T6 element of a group that lies at another home: the change of its six bits is made there (R242, log entry 82). -/
def State.remoteElem (s : State) (dev : Nat) (a : WriteKind) (ptrs : List (Place × DWord)) : State :=
  match a with
  | .elem g pos x pages _ route =>
    let id := s.nextId
    let s1 := { s with nextId := id + 1 }
    let s2 := s1.addUnacked
      { id := id, dev := dev, owner := s1.g.ref, direct := false, lines := [(g.headD (.hbm 0)).line], bytes := [], pages := pages,
        ptrs := ptrs, released := false }
    s2.coalesce dev id (s2.flit dev .atomic false route [BitVec.ofNat 8 pos, BitVec.ofNat 8 x] id)
  | .bytes _ _ _ _ | .seal _ _ _ => s

/-- One T6 element past its Plumb comparison: in the transaction's copy, over the fabric, or at its home on this device, where it
is one indivisible read-modify-write (R242). -/
def State.elemThrough (s : State) (g : List Place) (pos x : Nat) (pages : List Nat) (owner : Nat) (route : Nat × DWord)
    (ptrs : List (Place × DWord)) : State :=
  if g.all s.transactional then
    let s1 := s.flushGranules (placed g 0)
    (s1.txnWrite owner (placed g (t6Set (leValue (g.map s1.ownByte)) pos x))).txnPages pages
  else
    let s1 := s.noteReplay s.g.ref g
    match g.findSome? Place.remote with
    | some dev => s1.remoteElem dev (.elem g pos x pages owner route) ptrs
    | none => (s1.flushTo s1.g.ref g).performElem s1.g.ref g pos x pages

/-- A store of the issuing gang past its Plumb comparison: into the transaction, over the fabric, or to its home on this
device. Its earlier writes to the same bytes, and those of its core to the same home dies, are performed before it. -/
def State.storeThrough (s : State) (owner : Nat) (route : Nat × DWord) (pages : List Nat) (ptrs : List (Place × DWord))
    (bs : List (Place × Byte)) : State :=
  let tx := bs.filter (fun b => s.transactional b.1)
  let rest := bs.filter (fun b => !s.transactional b.1)
  let s1 := if tx.isEmpty then s else ((s.flushGranules tx).txnWrite owner tx).txnPages pages
  let s2 := s1.noteReplay s1.g.ref (rest.map Prod.fst)
  let near := rest.filter (fun b => b.1.remote.isNone)
  let far := rest.filter (fun b => b.1.remote.isSome)
  let s3 := if near.isEmpty then s2
    else if s2.defer then (s2.pieces near).foldl (fun s x => s.enqueue x pages owner route ptrs) s2
    else (s2.flushTo s2.g.ref (near.map Prod.fst)).performBytes s2.g.ref near pages
  (byLine far).foldl
    (fun s line =>
      match line with
      | [] => s
      | b :: _ =>
        match b.1.remote with
        | some dev => s.remoteWrite dev route pages ptrs line
        | none => s) s3

/-- The place lies in the issuing crew's own allocation (16 R407). -/
def State.ownScratch (s : State) (p : Place) : Bool :=
  match p with
  | .scratch c o => c == s.myCore && s.myBase ≤ o && o < s.myBase + s.myAlloc
  | .hbm _ | .window _ _ | .mmio _ _ | .pool _ _ | .host _ _ | .peerHbm _ _ | .peerScratch _ _ _ | .peerWindow _ _ _
  | .param _ _ => false

/-- Start the act of an MMIO store: the register write or the doorbell comes as a step of its own (R78, R483). -/
def State.mmioStore (s : State) (l : Landing) (size v : Nat) : State :=
  let act : Act := match doorbellQueue l.o with
    | some q => if size = 4 then .doorbell l.owner q (BitVec.ofNat 32 v) else .register l.owner l.o (BitVec.ofNat 64 v)
    | none => .register l.owner l.o (BitVec.ofNat 64 v)
  { s with acts := s.acts ++ [act] }

/-- Bytes of one access group: those of one landing's owner, on this device those of one page-map entry (09 R268), and off it those of
one 64-byte line (R437). `line` has the interface of the flits, the device and the line. -/
structure StoreGroup where
  owner : Nat
  line : Option (Nat × Nat × Nat)
  route : Nat × DWord
  pages : List Nat
  ptrs : List (Place × DWord)
  bytes : List (Place × Byte)
  deriving DecidableEq, Repr

/-- The line of a landing off this device (R437). -/
def Landing.farLine (l : Landing) : Option (Nat × Nat × Nat) :=
  match l.bytes with
  | p :: _ => p.remote.map (fun d => (l.route.1, d, p.line))
  | [] => none

/-- The landing's bytes belong to the group. -/
def StoreGroup.takes (g : StoreGroup) (l : Landing) : Bool :=
  g.owner == l.owner && g.line == l.farLine && (g.line.isSome || g.pages == l.pages.map Prod.fst)

/-- Add a landing's bytes to its group; the group's pointer is that of its lowest byte. -/
def addGroup (gs : List StoreGroup) (p : DWord) (l : Landing) (bs : List (Place × Byte)) : List StoreGroup :=
  if gs.any (fun g => g.takes l) then
    gs.map (fun g => if g.takes l then
      { g with
        route := lowestRoute (inOrder g.bytes) (inOrder bs) g.route l.route
        pages := if g.line.isSome then g.pages ++ l.pages.map Prod.fst else g.pages, ptrs := g.ptrs ++ pointed l.bytes p, bytes := g.bytes ++ bs } else g)
  else
    gs ++ [{ owner := l.owner, line := l.farLine, route := l.route, pages := l.pages.map Prod.fst, ptrs := pointed l.bytes p,
             bytes := bs }]

/-- Store one group. Under Plumb, writes outside the copy's own allocation wait in its store buffer (16 R407). -/
def State.storeGroup (s : State) (g : StoreGroup) : State :=
  if s.packet.plumb then
    let own := g.bytes.filter (fun b => s.ownScratch b.1)
    let out := g.bytes.filter (fun b => !s.ownScratch b.1)
    let s1 := if own.isEmpty then s else s.storeThrough g.owner g.route [] g.ptrs own
    if out.isEmpty then s1
    else
      (s1.enqueue out g.pages g.owner g.route g.ptrs false).modG
        (fun h => { h with plumb := { h.plumb with buffered := h.plumb.buffered + out.length } })
  else s.storeThrough g.owner g.route g.pages g.ptrs g.bytes

/-- The bytes of one instruction's store, in the order of its lanes: of two lanes that store one byte the later stays
(R237). -/
def laneBytes : List (DWord × Landing × Nat) → List (DWord × Landing × List (Place × Byte))
  | [] => []
  | (p, l, v) :: rest =>
    let later := (rest.map (fun x => x.2.1.bytes)).flatten
    (p, l, (placed l.bytes v).filter (fun b => !later.contains b.1)) :: laneBytes rest

/-- The stores of one instruction: MMIO registers one by one, everything else as one access (R237, R481, R483). -/
def State.storeLanes (s : State) (items : List (DWord × Landing × Nat)) : State :=
  let io := items.filter (fun i => i.2.1.type == tMmio)
  let mem := items.filter (fun i => i.2.1.type != tMmio)
  let s1 := io.foldl
    (fun s i => if s.g.ref.twin then s else (s.noteReplay s.g.ref i.2.1.bytes).mmioStore i.2.1 i.2.1.bytes.length i.2.2) s
  ((laneBytes mem).foldl (fun gs x => addGroup gs x.1 x.2.1 x.2.2) []).foldl State.storeGroup s1

/-! ### Releases (10 R287, R289) -/

/-- A release of the gang: what it has written and is not performed yet may be waited for by a later release of another agent. -/
def State.markReleased (s : State) (r : GangRef) : State :=
  { s with
    wq := s.wq.map (fun w => if w.owner = r then { w with released := true } else w)
    fab := { s.fab with unacked := s.fab.unacked.map (fun u => if u.owner = r then { u with released := true } else u) } }

/-- A pointer lies in one of some regions, each given by its first and last pointer (R284). -/
def inRegions (rs : List (DWord × DWord)) (p : DWord) : Bool := rs.any (fun r => r.1.toNat ≤ p.toNat && p.toNat ≤ r.2.toNat)

/-- Every write that happens before a release of gang `r` and lies in its regions is performed: its own, and those of gangs that
have made a release since (log entry 97). With `remote` all its own remote writes are acknowledged (R290, R300). -/
def State.relDone (s : State) (r : GangRef) (rs : List (DWord × DWord)) (remote : Bool) : Bool :=
  s.wq.all (fun w => s.isBuffered w || !((w.owner == r || w.released) && w.ptrs.any (fun x => inRegions rs x.2))) &&
    s.fab.unacked.all (fun u =>
      !(remote && u.owner == r) && !((u.owner == r || u.released) && u.ptrs.any (fun x => inRegions rs x.2)))

/-- Every write on this device that a release of all memory covers is performed: the gang's own, and those of gangs that have made a
release since (R287, log entry 97). -/
def State.allPerformed (s : State) (r : GangRef) : Bool :=
  s.wq.all (fun w => s.isBuffered w || !(w.owner == r || w.released))

/-- Every write of the gang is performed: on this device, and with `remote` on every other device too (R301). -/
def State.writesDone (s : State) (r : GangRef) (remote : Bool) : Bool :=
  s.wq.all (fun w => w.owner != r || s.isBuffered w) && (!remote || s.fab.unacked.all (fun u => u.owner != r))

/-! ### Counters (17 R427) -/

/-- The counter that an access to this home adds to, for an issuing die: the parameter window is on it (R426). -/
def accessCounter (die : Nat) (p : Place) : Option Nat :=
  match p with
  | .param _ _ => some 1
  | .hbm _ | .scratch _ _ | .window _ _ | .mmio _ _ | .pool _ _ | .host _ _ | .peerHbm _ _ | .peerScratch _ _ _
  | .peerWindow _ _ _ =>
    match p.remote with
    | some _ => some 3
    | none =>
      match p.die with
      | some d => some (if d = die then 1 else 2)
      | none => none

/-- Count the lines that an access of an interface issued on a die reaches. -/
def State.countFor (s : State) (iface die : Nat) (firsts : List Place) : State :=
  let lines := firsts.foldl (fun (acc : List Place) p => if acc.any (fun q => q.line == p.line) then acc else acc ++ [p]) []
  lines.foldl
    (fun s p => match accessCounter die p with
      | some k => s.count iface die k 1
      | none => s) s

/-- Count the lines that one instruction reaches. -/
def State.countLines (s : State) (firsts : List Place) : State := s.countFor s.myIface s.myDie firsts

end Sys2Proof.Machine
end

