-- ==== Sys2Proof/Machine/Issue.lean ====
section
/-! DEFINITION. What every instruction does around its own effect, in the order of 03 R104: the consuming fault (12 R333, 19
R461), the clearing of the latch valid bits at a switch point with a pending YIELD (R94, 02 R74), the scoreboard wait
(R93), and the comparison of Plumb copies (16 R405, R406). -/

namespace Sys2Proof.Machine

/-- What an instruction reads and writes of the registers that the scoreboard tracks, whether it is a switch point of its
own (R93), whether it is a comparison point (16 R405), and whether it may go before earlier loads of the gang have read their
homes (10 R291, log entry 6). -/
structure Uses where
  reads : List RegRef
  writes : List RegRef
  switch : Bool
  point : Bool
  passes : Bool := false
  deriving DecidableEq, Repr

/-- An instruction that is neither a switch point of its own nor a comparison point. -/
def Uses.plain (reads writes : List RegRef) : Uses :=
  { reads := reads, writes := writes, switch := false, point := false }

/-- A switch point. -/
def Uses.switching (reads writes : List RegRef) : Uses :=
  { reads := reads, writes := writes, switch := true, point := false }

/-- A load or a store, which nothing orders behind the gang's earlier loads of other places (10 R291). -/
def Uses.loading (reads writes : List RegRef) : Uses :=
  { reads := reads, writes := writes, switch := true, point := false, passes := true }

/-- A switch point that is a comparison point too. -/
def Uses.comparing (reads writes : List RegRef) : Uses :=
  { reads := reads, writes := writes, switch := true, point := true }

/-- The registers of a pair. -/
def pairRegs (p : Pair) : List RegRef := [.s (pairLo p), .s (pairHi p)]

/-- The fault of an instruction that reads or writes a token register that holds 0x20 or 0x21 of MDR or MRED (R333), or
reads a register whose remote load was discarded (19 R461). -/
def State.consumed (s : State) (u : Uses) : Option FaultInfo :=
  match s.g.bd.poisoned.find? (fun p => u.reads.contains (.s p.1) || u.writes.contains (.s p.1)) with
  | some p => some { FaultInfo.plain ((s.g.rd p.1).toNat % 256) with home := p.2.2 }
  | none =>
    match s.g.bd.lost.find? (fun p => u.reads.contains p.1) with
    | some p => some { FaultInfo.plain kPeer with pointer := p.2 }
    | none => none

/-- The tokens that trap and that the instruction reads or writes are consumed by its fault (R333), in both Plumb copies once both have
met it. -/
def State.consume (s : State) (u : Uses) : State :=
  let gone (h : Gang) : Gang := { h with bd := { h.bd with
    poisoned := h.bd.poisoned.filter (fun p => !(u.reads.contains (.s p.1) || u.writes.contains (.s p.1))) } }
  if s.g.sch.run = .compare then s else s.modGangs (fun h => h.ref == s.g.ref || h.ref == s.g.ref.other) gone

/-- A switch point: the latch valid bits are cleared, and a pending YIELD becomes a deferral (R94, R74). -/
def State.atSwitch (s : State) : State :=
  s.modG (fun g =>
    { g with
      la := { g.la with latchValid := 0#4 }
      sch := { g.sch with yieldPending := false, deferred := g.sch.deferred || g.sch.yieldPending } })

/-- The registers of the issuing gang's loads of this device whose data has not returned. -/
def State.lateRegs (s : State) : List RegRef :=
  (s.ops.map (fun o => match o.kind with
    | .localLoad _ _ rs _ => if o.owner = s.g.ref then rs else []
    | _ => [])).flatten

/-- The registers whose producers hold the instruction: pending ones that it reads, registers of loads in flight that it would
write (log entry 14), and at a switch point that is no load those of every load that has not read its home (log entry 6). -/
def State.waitsFor (s : State) (u : Uses) : List RegRef :=
  u.reads.filter s.isPending ++ u.writes.filter (fun r => s.g.bd.pending.contains r) ++
    (if u.switch && !u.passes then s.lateRegs.filter (fun r => s.g.bd.pending.contains r) else [])

/-- A reader of a register that an LM, SLD, SATOM or EN instruction wrote last is a scoreboard wait (R93). -/
def State.isBoardWait (s : State) (u : Uses) : Bool := u.reads.any (fun r => s.g.bd.marked.contains r)

/-! ### Plumb -/

/-- The place is on a device that is not reachable any more (19 R460). -/
def State.cutOff (s : State) (p : Place) : Bool :=
  match p.remote with
  | some d => d < 4096 && !s.fab.reach.contains d
  | none => false

/-- Writes of the issuing gang to devices that are not reachable any more are discarded, and reported as such (19 R461, 10 R484). -/
def State.discardWrites (s : State) (ps : List Place) : State :=
  let devs := ((ps.filter s.cutOff).filterMap Place.remote).eraseDups
  devs.foldl
    (fun s d => ({ s with nextId := s.nextId + 1 }).modG (fun g => { g with discarded := g.discarded ++ [({ id := s.nextId, dev := d } : RemoteOp)] })) s

/-- A store of a Plumb primary past its comparison, in a step of its gang (R405). Bytes whose granule has been sealed since are not
stored (08 R251, log entry 120), and those for a device that is not reachable any more are discarded (19 R461). -/
def State.performStore (s : State) (w : PendWrite) : State :=
  let stops (p : Place) : Bool := s.cutOff p || (p.remote.isNone && s.sealedAt p)
  match w.kind with
  | .bytes bs pages owner route =>
    (s.discardWrites (bs.map Prod.fst)).storeThrough owner route pages w.ptrs (bs.filter (fun b => !stops b.1))
  | .elem g pos x pages owner route =>
    if g.any stops then s.discardWrites g else s.elemThrough g pos x pages owner route w.ptrs
  | .seal _ _ _ => s

/-- Perform what a Plumb primary has buffered at its homes, or discard what a secondary has (R405, R407). -/
def State.releaseBuffer (s : State) (r : GangRef) : State :=
  let mine := s.wq.filter (fun w => w.owner == r && s.isBuffered w)
  let s1 := { s with wq := s.wq.filter (fun w => !(w.owner == r && s.isBuffered w)) }
  if r.twin then s1
  else { { s1 with defer := false }.asGang r (fun s => mine.foldl State.performStore s) with defer := s.defer }

/-- Both copies have passed the comparison: SIG restarts at 0 (R404, R405). -/
def afterCompare (waiting : Bool) (h : Gang) : Gang :=
  { h with
    plumb := { h.plumb with sig := 0#64, points := h.plumb.points + 1, buffered := 0, passed := waiting }
    sch := if waiting then { h.sch with run := .ready } else h.sch }

/-- A comparison point (R405). -/
def State.compare (s : State) (body : State → Out) : Out :=
  if s.g.plumb.passed then body (s.modG (fun g => { g with plumb := { g.plumb with passed := false } }))
  else
    match s.gang? s.g.ref.other with
    | none => body s
    | some t =>
      if t.plumb.faulted.isSome then .next s.diverge
      else if s.g.plumb.late ≠ [] then .next (s.again .compare)
      else if t.sch.run = .compare ∧ t.plumb.late = [] ∧ t.plumb.points = s.g.plumb.points ∧ t.plumb.passed = false then
        if t.plumb.sig = s.g.plumb.sig then
          let s1 := (s.releaseBuffer { s.g.ref with twin := false }).releaseBuffer { s.g.ref with twin := true }
          body ((s1.modG (afterCompare false)).modGang s.g.ref.other (afterCompare true))
        else .next s.diverge
      else if t.sch.run.isOver then .next s.diverge
      else .next (s.again .compare)

/-- Fold items into the store signature of a Plumb gang (R404). -/
def foldSig (sig : DWord) (v : DWord) : DWord := (sig.rotateLeft 5 ^^^ v) * 0x9E3779B97F4A7C15#64

/-- Fold the known items at the head of those that wait. -/
def PlumbCtx.settle (p : PlumbCtx) : List SigItem → PlumbCtx
  | .val v :: r => PlumbCtx.settle { p with sig := foldSig p.sig v } r
  | l => { p with late := l }

/-- Append items to the signature in program order. -/
def PlumbCtx.sign (p : PlumbCtx) (vs : List SigItem) : PlumbCtx := p.settle (p.late ++ vs)

def State.sign (s : State) (vs : List DWord) : State :=
  if s.packet.plumb then s.modG (fun g => { g with plumb := g.plumb.sign (vs.map SigItem.val) }) else s

/-- The values of an operation take their place in its gang's signature (R404). -/
def fillSig (op : Nat) (vs : List DWord) (g : Gang) : Gang :=
  let put (i : SigItem) : List SigItem := if i = .hole op then vs.map SigItem.val else [i]
  wakeCompare { g with plumb := g.plumb.settle ((g.plumb.late.map put).flatten) }

/-- The issuing gang is the secondary of a Plumb pair. -/
def State.isSecondary (s : State) : Bool := s.g.ref.twin && s.packet.plumb

/-- The primary's value of an instruction whose value the secondary receives (R406). -/
def State.sendTwin (s : State) (vs : List DWord) : State :=
  if s.packet.plumb && !s.g.ref.twin then
    let n := s.g.plumb.serial
    (s.modG (fun g => { g with plumb := { g.plumb with serial := n + 1 } })).modGang s.g.ref.other (deliver n vs)
  else s

/-- The secondary takes the primary's value of this instruction, or waits for it (R406). -/
def State.fromTwin (s : State) (body : State → List DWord → Out) : Out :=
  let n := s.g.plumb.serial
  match s.g.plumb.inbox.find? (fun p => p.1 == n) with
  | some p =>
    body (s.modG (fun g =>
      { g with plumb := { g.plumb with serial := n + 1, inbox := g.plumb.inbox.filter (fun q => q.1 != n) } })) p.2
  | none =>
    match s.twin? with
    | some t =>
      match t.plumb.faulted with
      | some w => if w.2 = s.g.sc.pc then .next (s.raise w.1) else .next s.diverge
      | none => .next (s.again .compare)
    | none => .next (s.again .compare)

/-! ### Issue -/

/-- An instruction that waits inside itself past its comparison does not compare again when it issues again. -/
def keepPassed (o : Out) : Out :=
  match o with
  | .next t => .next (if t.g.sch.reissue then t.modG (fun g => { g with plumb := { g.plumb with passed := true } }) else t)
  | .fault f => .fault f
  | .refused r => .refused r

/-- What stops the issuing gang at its next switch point: its launch stops (R214, R383, R398), or its crew is saved, flushed
or halted (R391, R392, 20 R477). -/
def State.stopAt (s : State) : Option Run :=
  match s.myLaunch? with
  | none => none
  | some l =>
    if l.phase ≠ .running then some .ended
    else if l.halted then some .stopped
    else
      match s.myCrew? with
      | none => none
      | some c => (match c.preempt with
        | .save | .flush => some .stopped
        | .no | .drain _ => none)

/-- The gang has been killed, or parked on a fault of the instruction it issues. -/
def Run.faulted : Run → Bool
  | .parked _ | .killed => true
  | _ => false

/-- The instruction that the gang issued has met a fault or kill: it parked or was killed, its launch stops for a rollback, or a Plumb
copy waits for its twin's (15 R393, 20 R478). -/
def State.hasFaulted (s : State) : Bool :=
  s.g.sch.run.faulted || s.g.plumb.faulted.isSome || s.myLaunch?.any (fun l => l.phase != .running)

/-- A gang that must stop does so at this switch point, before its instruction has an effect. A fault or kill of the instruction
wins over a save (R104, R393), and a request that waited in a quiesce completes first (09 R280); where the launch itself stops
(R383, R398), the gang is ended whatever its instruction met. -/
def State.heedStop (s : State) (o : Out) : Out :=
  match s.stopAt with
  | none => o
  | some r =>
    match o with
    | .next t =>
      if t.hasFaulted ∧ r ≠ .ended then .next t
      else if r = .stopped ∧ s.g.sch.finish = true then .next t
      else if r = .ended then .next (s.stopGang s.g.ref .ended)
      else .next (s.again r)
    | .fault f => .fault f
    | .refused f => .refused f

/-- The gang that its pipe has selected waits on the scoreboard, so it was not ready: the selection has not been (07 R213). -/
def State.unpick (s : State) : State :=
  let back (h : Gang) : Gang := match s.picks.find? (fun p => p.ref == h.ref) with
    | some p => { h with sch := { h.sch with
        notIssued := p.notIssued
        promoted := if h.ref = s.g.ref then p.promoted else h.sch.promoted
        deferred := p.deferred } }
    | none => h
  { s.modGangs (fun _ => true) back with picks := [] }

/-- Everything before an instruction's own effect (R104, steps 3, 5 and 6). -/
def State.issue (s : State) (u : Uses) (body : State → Out) : Out :=
  let switch := u.switch || s.isBoardWait u
  let s1 := if switch then s.atSwitch else s
  match s.consumed u with
  | some f => if switch then s1.heedStop (.next ((s1.raise f).consume u)) else .next ((s1.raise f).consume u)
  | none =>
    if s.waitsFor u ≠ [] then
      (if switch then s1.heedStop (.next (s1.unpick.again (.board (s.waitsFor u))))
       else .next (s1.unpick.again (.hazard (s.waitsFor u))))
    else
      let s2 := s1.modBoard (fun b => u.reads.foldl Board.read b)
      let o := if u.point && s2.packet.plumb then s2.compare (fun t => keepPassed (body t)) else body s2
      if switch then s1.heedStop o else o

/-- The same for an instruction whose effect is a function of the state. -/
def State.issue' (s : State) (u : Uses) (body : State → State) : Out := s.issue u (fun t => .next (body t))

/-- An instruction is counted as it issues, unless it waited inside itself (15 R386, 07 R213, 17 R427). -/
def State.startIssue (s : State) : State :=
  let again := s.g.sch.reissue
  let s1 := s.modG (fun g =>
    { g with
      sch := { g.sch with
        reissue := false
        finish := g.sch.finish && again
        issued := if again then g.sch.issued else g.sch.issued + 1
        notIssued := 0
        promoted := none
        deferred := false } })
  let s2 := if again then s1 else s1.count s1.myIface s1.myDie 0 1
  { s2 with issuing := false }

/-- A fault or wait of an access, for the issuing gang: the instruction has no effect (R376). -/
def State.failed (s : State) (x : Fail) : Out :=
  match x with
  | .fault f => .next (s.raise f)
  | .wait r => .next ((s.again r).modG (fun g => { g with sch := { g.sch with finish := g.sch.finish || r == .quiesce } }))

end Sys2Proof.Machine
end

