-- ==== Sys2Proof/Machine/Flags.lean ====
section
/-! DEFINITION. Conditions and flags: the compares of 01 R18 and 02 R59, the sticky flags of 02 R49, R50. -/

namespace Sys2Proof

/-- `a cond b` (R18, R59). -/
def Cond.holds (k : Cond) (a b : Word) : Bool :=
  match k with
  | .eq => a == b
  | .ne => a != b
  | .ltS => a.slt b
  | .geS => !a.slt b
  | .ltZ => a.ult b
  | .geZ => !a.ult b
  | .leS => a.sle b
  | .gtS => !a.sle b

end Sys2Proof

namespace Sys2Proof.Machine

/-- Read a condition bit (R47). -/
def State.cond (s : State) (c : CReg) : Bool := s.g.sc.conds.getLsbD c.toNat

/-- Write a condition bit (R47). -/
def State.setCond (s : State) (c : CReg) (v : Bool) : State :=
  s.modG (fun g =>
    { g with
      sc := { g.sc with
        conds := if v then g.sc.conds ||| (1#8 <<< c.toNat) else g.sc.conds &&& ~~~ (1#8 <<< c.toNat) } })

/-- GSTATUS.DIVZERO (R50, R55). -/
def State.setDivZero (s : State) : State := s.modG (fun g => { g with sc := { g.sc with divZero := true } })

/-- GSTATUS.LATCHLOST (R50, R95). -/
def State.setLatchLost (s : State) : State := s.modG (fun g => { g with sc := { g.sc with latchLost := true } })

/-- The exceptions of R49, as FPFLAGS holds them. -/
def fNV : BitVec 5 := 1#5
def fDZ : BitVec 5 := 2#5
def fOF : BitVec 5 := 4#5
def fUF : BitVec 5 := 8#5
def fNX : BitVec 5 := 16#5

/-- Add to the sticky FPFLAGS (R49). -/
def State.raiseFp (s : State) (f : BitVec 5) : State :=
  s.modG (fun g => { g with sc := { g.sc with fpFlags := g.sc.fpFlags ||| f } })

/-- GSTATUS as it reads (R50). -/
def Scalars.gstatus (c : Scalars) : Word := 0#30 ++ BitVec.ofBool c.latchLost ++ BitVec.ofBool c.divZero

/-- GSTATUS as a saved context holds it: ILLEGALSEEN is 1 for a gang saved as killed (R50). -/
def Gang.savedGstatus (h : Gang) : Word := h.sc.gstatus ||| (if h.sch.run = .killed then 4#32 else 0#32)

/-- A read of a special register (R48, R51, R52); TIMELO and TIMEHI go through `captureTime`. -/
def State.special (s : State) (n : SpecialReg) : Word :=
  let c := s.g.sc
  match n with
  | .timeLo | .timeHi => 0#32
  | .live0 => s.g.la.live.extractLsb' 0 32
  | .live1 => s.g.la.live.extractLsb' 32 32
  | .live2 => s.g.la.live.extractLsb' 64 32
  | .fpFlags => c.fpFlags.setWidth 32
  | .gStatus => c.gstatus
  | .launchId => BitVec.ofNat 32 s.g.ref.launch
  | .tvecLo => c.tvec.extractLsb' 0 32
  | .tvecHi => c.tvec.extractLsb' 32 32
  | .trapPcLo => if c.handler then c.trapPc.extractLsb' 0 32 else 0#32
  | .trapPcHi => if c.handler then c.trapPc.extractLsb' 32 32 else 0#32
  | .trapCode => if c.handler then c.trapCode else 0#32

/-- A write of a special register (R48 to R53). -/
def Scalars.setSpecial (c : Scalars) (n : SpecialReg) (w : Word) : Scalars :=
  match n with
  | .timeLo | .timeHi | .live0 | .live1 | .live2 | .launchId | .trapCode => c
  | .fpFlags => { c with fpFlags := c.fpFlags &&& ~~~ (w.extractLsb' 0 5) }
  | .gStatus =>
    { c with
      divZero := c.divZero && !w.getLsbD 0
      latchLost := c.latchLost && !w.getLsbD 1 }
  | .tvecLo => { c with tvec := c.tvec.extractLsb' 32 32 ++ (w &&& ~~~ 3#32) }
  | .tvecHi => { c with tvec := w ++ c.tvec.extractLsb' 0 32 }
  | .trapPcLo => if c.handler then { c with trapPc := c.trapPc.extractLsb' 32 32 ++ w } else c
  | .trapPcHi => if c.handler then { c with trapPc := w ++ c.trapPc.extractLsb' 0 32 } else c

/-- Capture a time for the pair TIMELO, TIMEHI (R51). -/
def State.setCapture (s : State) (t : DWord) : State :=
  s.modG (fun g => { g with sc := { g.sc with timeCapture := some t } })

end Sys2Proof.Machine
end

