-- ==== Sys2Proof/Machine/Float.lean ====
section
/-! DEFINITION. Floating-point values and their rounding (05 R139, 04 R119 to R125): exact sums of dyadic numbers, one
rounding, and the flags of 02 R49. -/

namespace Sys2Proof.Machine

/-- A binary format by its exponent and fraction bits (R139). -/
structure FFmt where
  ebits : Nat
  fbits : Nat
  deriving DecidableEq, Repr

def f32 : FFmt := { ebits := 8, fbits := 23 }
def f16 : FFmt := { ebits := 5, fbits := 10 }
def bf16 : FFmt := { ebits := 8, fbits := 7 }

def FFmt.bias (f : FFmt) : Int := 2 ^ (f.ebits - 1) - 1

/-- The exponent of the smallest normal number. -/
def FFmt.emin (f : FFmt) : Int := 1 - f.bias

/-- The pattern of +∞. -/
def FFmt.inf (f : FFmt) : Nat := (2 ^ f.ebits - 1) * 2 ^ f.fbits

/-- The sign bit. -/
def FFmt.sign (f : FFmt) (neg : Bool) : Nat := if neg then 2 ^ (f.ebits + f.fbits) else 0

/-- The canonical quiet NaN (R121). -/
def FFmt.nan (f : FFmt) : Nat := f.inf + 2 ^ (f.fbits - 1)

/-- The largest finite pattern. -/
def FFmt.maxFinite (f : FFmt) : Nat := f.inf - 1

/-- A value: `± m · 2^e`, an infinity, or a NaN. -/
inductive FVal where
  | fin (neg : Bool) (m : Nat) (e : Int)
  | inf (neg : Bool)
  | nan (signalling : Bool)
  deriving DecidableEq, Repr

/-- The value of a pattern (R139). -/
def FFmt.decode (f : FFmt) (x : Nat) : FVal :=
  let neg := x / 2 ^ (f.ebits + f.fbits) % 2 == 1
  let ex := x / 2 ^ f.fbits % 2 ^ f.ebits
  let fr := x % 2 ^ f.fbits
  if ex = 2 ^ f.ebits - 1 then
    if fr = 0 then .inf neg else .nan (fr < 2 ^ (f.fbits - 1))
  else if ex = 0 then .fin neg fr (f.emin - f.fbits)
  else .fin neg (2 ^ f.fbits + fr) (ex - f.bias - f.fbits)

def FVal.neg (v : FVal) : FVal :=
  match v with
  | .fin s m e => .fin (!s) m e
  | .inf s => .inf (!s)
  | .nan q => .nan q

def FVal.isNan (v : FVal) : Bool :=
  match v with
  | .nan _ => true
  | .fin _ _ _ | .inf _ => false

def FVal.signalling (v : FVal) : Bool :=
  match v with
  | .nan q => q
  | .fin _ _ _ | .inf _ => false

def FVal.isZero (v : FVal) : Bool :=
  match v with
  | .fin _ m _ => m == 0
  | .inf _ | .nan _ => false

def FVal.isInf (v : FVal) : Bool :=
  match v with
  | .inf _ => true
  | .fin _ _ _ | .nan _ => false

def FVal.sign (v : FVal) : Bool :=
  match v with
  | .fin s _ _ => s
  | .inf s => s
  | .nan _ => false

/-! ### Rounding -/

/-- Whether a magnitude `q + rem / den` goes up (R119). -/
def roundsUp (r : Rnd) (neg : Bool) (q rem den : Nat) : Bool :=
  match r with
  | .rn => 2 * rem > den || (2 * rem == den && q % 2 == 1)
  | .rz => false
  | .rd => neg && rem != 0
  | .ru => !neg && rem != 0

/-- A magnitude `m · 2^e` in units of 2^q: the rounded count, and whether it is inexact. -/
def roundAt (r : Rnd) (neg : Bool) (m : Nat) (e q : Int) : Nat × Bool :=
  if q ≤ e then (m * 2 ^ (e - q).toNat, false)
  else
    let d := 2 ^ (q - e).toNat
    let c := m / d
    let rem := m % d
    (if roundsUp r neg c rem d then c + 1 else c, rem != 0)

/-- Round `± m · 2^e` to a format: pattern and flags; tininess after rounding, UF only when inexact (R120). -/
def FFmt.round (f : FFmt) (r : Rnd) (neg : Bool) (m : Nat) (e : Int) : Nat × BitVec 5 :=
  if m = 0 then (f.sign neg, 0#5)
  else
    let p : Int := Nat.log2 m + e
    let q := max (p - f.fbits) (f.emin - f.fbits)
    let (c, inexact) := roundAt r neg m e q
    let body := if c < 2 ^ f.fbits then c
      else (q - (f.emin - f.fbits) + 1).toNat * 2 ^ f.fbits + (c - 2 ^ f.fbits)
    if body ≥ f.inf then
      let toInf := match r with
        | .rn => true
        | .rz => false
        | .rd => neg
        | .ru => !neg
      (f.sign neg + (if toInf then f.inf else f.maxFinite), fOF ||| fNX)
    else
      let tiny := p < f.emin && !(p + 1 == f.emin && (roundAt r neg m e (p - f.fbits)).1 == 2 ^ (f.fbits + 1))
      (f.sign neg + body, if inexact then (if tiny then fUF ||| fNX else fNX) else 0#5)

/-- A signed sum of dyadic terms, exactly: its integer and exponent. -/
def exactSum (ts : List (Bool × Nat × Int)) : Int × Int :=
  let e := ts.foldl (fun a t => min a t.2.2) (match ts with | [] => 0 | t :: _ => t.2.2)
  (ts.foldl (fun a t => a + (if t.1 then -1 else 1) * ((t.2.1 * 2 ^ (t.2.2 - e).toNat : Nat) : Int)) 0, e)

/-- Round an exact sum; an exact zero takes its sign as IEEE 754-2019 addition gives it (R120, R125). -/
def FFmt.roundSum (f : FFmt) (r : Rnd) (ts : List (Bool × Nat × Int)) : Nat × BitVec 5 :=
  let (v, e) := exactSum ts
  if v = 0 then
    let neg := if ts.all (fun t => t.1 && t.2.1 == 0) then true
      else if ts.all (fun t => !t.1 && t.2.1 == 0) then false
      else r == .rd
    (f.sign neg, 0#5)
  else f.round r (v < 0) v.natAbs e

/-- The canonical NaN with NV where the operation is invalid. -/
def FFmt.invalid (f : FFmt) (nv : Bool) : Nat × BitVec 5 := (f.nan, if nv then fNV else 0#5)

/-- The sum of values, infinities included, with one rounding (R121). A quiet NaN among them gives a NaN without NV, whatever the
infinities beside it do: the manual decides that only for 0 × ∞ (log entry 111). -/
def FFmt.sum (f : FFmt) (r : Rnd) (vs : List FVal) : Nat × BitVec 5 :=
  if vs.any FVal.isNan then f.invalid (vs.any FVal.signalling)
  else
    match vs.filter FVal.isInf with
    | [] => f.roundSum r (vs.filterMap (fun v => match v with
        | .fin s m e => some (s, m, e)
        | .inf _ | .nan _ => none))
    | i :: rest => if rest.all (fun j => j.sign == i.sign) then (f.sign i.sign + f.inf, 0#5) else f.invalid true

/-- An exact product; `none` where it is invalid (0 × ∞). -/
def FVal.mul (a b : FVal) : Option FVal :=
  match a, b with
  | .nan q, .nan p => some (.nan (q || p))
  | .nan q, .fin _ _ _ | .nan q, .inf _ | .fin _ _ _, .nan q | .inf _, .nan q => some (.nan q)
  | .inf s, .inf t => some (.inf (s ^^ t))
  | .inf s, .fin t m _ | .fin t m _, .inf s => if m = 0 then none else some (.inf (s ^^ t))
  | .fin s m e, .fin t n d => some (.fin (s ^^ t) (m * n) (e + d))

/-- FADD, FSUB, FMUL, FFMA on patterns (R120, R121). -/
def FFmt.add (f : FFmt) (r : Rnd) (x y : Nat) : Nat × BitVec 5 := f.sum r [f.decode x, f.decode y]
def FFmt.sub (f : FFmt) (r : Rnd) (x y : Nat) : Nat × BitVec 5 := f.sum r [f.decode x, (f.decode y).neg]

def FFmt.mul (f : FFmt) (r : Rnd) (x y : Nat) : Nat × BitVec 5 :=
  match (f.decode x).mul (f.decode y) with
  | none => f.invalid true
  | some (.nan q) => f.invalid q
  | some (.inf s) => (f.sign s + f.inf, 0#5)
  | some (.fin s m e) => f.round r s m e

def FFmt.fma (f : FFmt) (r : Rnd) (np nc : Bool) (x y z : Nat) : Nat × BitVec 5 :=
  let c := f.decode z
  match (f.decode x).mul (f.decode y) with
  | none => f.invalid true
  | some p =>
    let (v, fl) := f.sum r [if np then p.neg else p, if nc then c.neg else c]
    (v, fl)

/-! ### Order (R122, R123) -/

/-- `± m · 2^e` below `± n · 2^d`. -/
def dyadicLt (s : Bool) (m : Nat) (e : Int) (t : Bool) (n : Nat) (d : Int) : Bool :=
  (exactSum [(s, m, e), (!t, n, d)]).1 < 0

/-- A below B, both not NaN; −0 equals +0. -/
def FVal.lt (a b : FVal) : Bool :=
  match a, b with
  | .inf s, .inf t => s && !t
  | .inf s, .fin _ _ _ => s
  | .fin _ _ _, .inf t => !t
  | .fin s m e, .fin t n d => dyadicLt s m e t n d
  | .nan _, _ | .inf _, .nan _ | .fin _ _ _, .nan _ => false

/-- FMIN and FMAX (R122). -/
def FFmt.minMax (f : FFmt) (big : Bool) (x y : Nat) : Nat × BitVec 5 :=
  let a := f.decode x
  let b := f.decode y
  let fl := if a.signalling || b.signalling then fNV else 0#5
  if a.isNan && b.isNan then (f.nan, fl)
  else if a.isNan then (y, fl)
  else if b.isNan then (x, fl)
  else
    let xLess := a.lt b || (!b.lt a && a.sign && !b.sign)
    (if xLess ^^ big then x else y, fl)

/-- FCMP of one element (R123). -/
def FFmt.compare (f : FFmt) (k : FCond) (x y : Nat) : Bool × BitVec 5 :=
  let a := f.decode x
  let b := f.decode y
  let un := a.isNan || b.isNan
  let quiet := if a.signalling || b.signalling then fNV else 0#5
  let loud := if un then fNV else 0#5
  match k with
  | .eq => (!un && !a.lt b && !b.lt a, quiet)
  | .ne => (un || a.lt b || b.lt a, quiet)
  | .lt => (!un && a.lt b, loud)
  | .le => (!un && !b.lt a, loud)
  | .gt => (!un && b.lt a, loud)
  | .ge => (!un && !a.lt b, loud)
  | .un => (un, quiet)
  | .ord => (!un, quiet)

/-- FCLASS of one element: the bit's number (R124). -/
def FFmt.classBit (f : FFmt) (x : Nat) : Nat :=
  let sub := x / 2 ^ f.fbits % 2 ^ f.ebits == 0
  match f.decode x with
  | .inf s => if s then 0 else 7
  | .nan q => if q then 8 else 9
  | .fin s m _ =>
    if m = 0 then (if s then 3 else 4)
    else if sub then (if s then 2 else 5)
    else if s then 1 else 6

/-! ### Packed pairs (R119, R140) -/

def elem0 (w : Word) : Nat := (w.extractLsb' 0 16).toNat
def elem1 (w : Word) : Nat := (w.extractLsb' 16 16).toNat

def pack2 (x y : Nat) : Word := BitVec.ofNat 16 y ++ BitVec.ofNat 16 x

/-- Apply an element function of two operands by type (R119). -/
def byType2 (t : FType) (g : FFmt → Nat → Nat → Nat × BitVec 5) (a b : Word) : DWord × BitVec 5 :=
  let packed (f : FFmt) : DWord × BitVec 5 :=
    let r0 := g f (elem0 a) (elem0 b)
    let r1 := g f (elem1 a) (elem1 b)
    ((pack2 r0.1 r1.1).setWidth 64, r0.2 ||| r1.2)
  match t with
  | .f32 =>
    let r := g f32 a.toNat b.toNat
    (BitVec.ofNat 64 r.1, r.2)
  | .f16x2 => packed f16
  | .bf16x2 => packed bf16

/-- The same for three operands. -/
def byType3 (t : FType) (g : FFmt → Nat → Nat → Nat → Nat × BitVec 5) (a b c : Word) : DWord × BitVec 5 :=
  let packed (f : FFmt) : DWord × BitVec 5 :=
    let r0 := g f (elem0 a) (elem0 b) (elem0 c)
    let r1 := g f (elem1 a) (elem1 b) (elem1 c)
    ((pack2 r0.1 r1.1).setWidth 64, r0.2 ||| r1.2)
  match t with
  | .f32 =>
    let r := g f32 a.toNat b.toNat c.toNat
    (BitVec.ofNat 64 r.1, r.2)
  | .f16x2 => packed f16
  | .bf16x2 => packed bf16

/-- FDOT2 (R125). -/
def dot2 (bf : Bool) (r : Rnd) (a b c : Word) : DWord × BitVec 5 :=
  let f := if bf then bf16 else f16
  let z := f32.decode c.toNat
  match (f.decode (elem0 a)).mul (f.decode (elem0 b)), (f.decode (elem1 a)).mul (f.decode (elem1 b)) with
  | some p, some q =>
    let v := f32.sum r [p, q, z]
    (BitVec.ofNat 64 v.1, v.2)
  | none, some _ | some _, none | none, none => (BitVec.ofNat 64 f32.nan, fNV)

end Sys2Proof.Machine
end

