-- ==== Sys2Proof/Machine/Elementary.lean ====
section
/-! DEFINITION. The special functions of 04 R126: correctly rounded F32 results. Algebraic functions are exact up to a sticky
bit; the transcendental ones are computed in fixed point with `guardBits` fraction bits, far beyond what rounding an F32
needs (log entry 16). -/

namespace Sys2Proof.Machine

/-- floor(√n) for n < 2^(2k). -/
def isqrt (k n : Nat) : Nat :=
  (List.range k).foldl (fun r i =>
    let t := r + 2 ^ (k - 1 - i)
    if t * t ≤ n then t else r) 0

/-- Fraction bits of the fixed-point arithmetic. -/
def guardBits : Nat := 640

def fxOne : Nat := 2 ^ guardBits

/-- atan(1/n) in fixed point: Σ (−1)^i / ((2i+1) n^(2i+1)). -/
def atanInv (n : Nat) : Nat :=
  let go := (List.range 300).foldl (fun (acc : Int × Nat) i =>
    let t := acc.2 / (2 * i + 1)
    (if i % 2 = 0 then acc.1 + t else acc.1 - t, acc.2 / (n * n))) ((0 : Int), fxOne / n)
  go.1.toNat

/-- π in fixed point, by Machin's formula. -/
def fxPi : Nat := 4 * (4 * atanInv 5 - atanInv 239)

/-- 2 · atanh(p/q) in fixed point, for p/q at most 1/3. -/
def atanh2 (t : Nat) : Nat :=
  let t2 := t * t / fxOne
  2 * ((List.range 220).foldl (fun (acc : Nat × Nat) i => (acc.1 + acc.2 / (2 * i + 1), acc.2 * t2 / fxOne)) (0, t)).1

/-- ln 2 = 2 · atanh(1/3). -/
def fxLn2 : Nat := atanh2 (fxOne / 3)

/-- e^x for a fixed-point x below 1. -/
def fxExp (x : Nat) : Nat :=
  ((List.range 160).foldl (fun (acc : Nat × Nat) i => (acc.1 + acc.2, acc.2 * x / fxOne / (i + 1))) (0, fxOne)).1

/-- sin x and cos x for a fixed-point x below π/2: every second term of e^x with alternating signs. -/
def fxTrig (first : Nat) (x : Nat) : Nat :=
  let x2 := x * x / fxOne
  let start := if first = 1 then x else fxOne
  let go := (List.range 100).foldl (fun (acc : Int × Nat) i =>
    (if i % 2 = 0 then acc.1 + acc.2 else acc.1 - acc.2,
      acc.2 * x2 / fxOne / ((2 * i + 1 + first) * (2 * i + 2 + first)))) ((0 : Int), start)
  go.1.toNat

/-- The F32 of a fixed-point magnitude that is not exact: RN, no flags (R126). -/
def fxRound (neg : Bool) (v : Nat) (e : Int) : Nat := (f32.round .rn neg (2 * v + 1) (e - 1)).1

/-- A NaN input (R126). -/
def nanInput (q : Bool) : Nat × BitVec 5 := f32.invalid q

/-- FRCP. -/
def frcpF (x : Nat) : Nat × BitVec 5 :=
  match f32.decode x with
  | .nan q => nanInput q
  | .inf s => (f32.sign s, 0#5)
  | .fin s m e =>
    if m = 0 then (f32.sign s + f32.inf, fDZ)
    else
      let n := 2 ^ 80
      let v := 2 * (n / m) + (if n % m = 0 then 0 else 1)
      ((f32.round .rn s v (-81 - e)).1, 0#5)

/-- √(m · 2^e) as `v · 2^d`, with a sticky bit. -/
def sqrtScaled (m : Nat) (e : Int) : Nat × Int :=
  let odd := e % 2 == 1
  let m1 := if odd then 2 * m else m
  let e1 := if odd then e - 1 else e
  let n := m1 * 2 ^ 80
  let v := isqrt 60 n
  (2 * v + (if v * v = n then 0 else 1), e1 / 2 - 41)

/-- FSQRT. -/
def fsqrtF (x : Nat) : Nat × BitVec 5 :=
  match f32.decode x with
  | .nan q => nanInput q
  | .inf s => if s then f32.invalid true else (f32.inf, 0#5)
  | .fin s m e =>
    if m = 0 then (f32.sign s, 0#5)
    else if s then f32.invalid true
    else
      let (v, d) := sqrtScaled m e
      ((f32.round .rn false v d).1, 0#5)

/-- FRSQ. -/
def frsqF (x : Nat) : Nat × BitVec 5 :=
  match f32.decode x with
  | .nan q => nanInput q
  | .inf s => if s then f32.invalid true else (0, 0#5)
  | .fin s m e =>
    if m = 0 then (f32.sign s + f32.inf, fDZ)
    else if s then f32.invalid true
    else
      let odd := e % 2 == 1
      let m1 := if odd then 2 * m else m
      let e1 := if odd then e - 1 else e
      let n := 2 ^ 120 / m1
      let v := isqrt 61 n
      let exact := v * v * m1 == 2 ^ 120
      ((f32.round .rn false (2 * v + (if exact then 0 else 1)) (-61 - e1 / 2)).1, 0#5)

/-- A dyadic number in fixed point, rounded down; exact for e ≥ −guardBits. -/
def toFx (m : Nat) (e : Int) : Nat :=
  if e + guardBits ≥ 0 then m * 2 ^ (e + guardBits).toNat else m / 2 ^ (-(e + guardBits)).toNat

/-- FEX2. -/
def fex2F (x : Nat) : Nat × BitVec 5 :=
  match f32.decode x with
  | .nan q => nanInput q
  | .inf s => (if s then 0 else f32.inf, 0#5)
  | .fin s m e =>
    if m = 0 then (f32.bias.toNat * 2 ^ 23, 0#5)
    else if !s && !dyadicLt false m e false 128 0 then (f32.inf, 0#5)
    else if s && !dyadicLt false m e false 160 0 then (0, 0#5)
    else
      let v : Int := if s then -(toFx m e : Int) else toFx m e
      let n := v / fxOne
      let fr := (v % fxOne).toNat
      if fr = 0 then ((f32.round .rn false 1 n).1, 0#5)
      else (fxRound false (fxExp (fr * fxLn2 / fxOne)) (n - guardBits), 0#5)

/-- FLG2. -/
def flg2F (x : Nat) : Nat × BitVec 5 :=
  match f32.decode x with
  | .nan q => nanInput q
  | .inf s => if s then f32.invalid true else (f32.inf, 0#5)
  | .fin s m e =>
    if m = 0 then (f32.sign true + f32.inf, fDZ)
    else if s then f32.invalid true
    else
      let p := Nat.log2 m
      let ex : Int := p + e
      if m = 2 ^ p then ((f32.round .rn (ex < 0) ex.natAbs 0).1, 0#5)
      else
        let y := m * 2 ^ (guardBits - p)
        let l := atanh2 ((y - fxOne) * fxOne / (y + fxOne)) * fxOne / fxLn2
        let v : Int := ex * fxOne + l
        (fxRound (v < 0) v.natAbs (-guardBits), 0#5)

/-- x mod π/2 and the quadrant, by exact reduction (R126). -/
def quadrant (m : Nat) (e : Int) : Nat × Nat :=
  let v := toFx m e
  let half := fxPi / 2
  (v / half % 4, v % half)

/-- sin or cos of a quadrant's angle: sign and magnitude. -/
def trigQ (q : Nat) (r : Nat) : Bool × Nat :=
  match q % 4 with
  | 0 => (false, fxTrig 1 r)
  | 1 => (false, fxTrig 0 r)
  | 2 => (true, fxTrig 1 r)
  | _ => (true, fxTrig 0 r)

/-- FSIN. -/
def fsinF (x : Nat) : Nat × BitVec 5 :=
  match f32.decode x with
  | .nan q => nanInput q
  | .inf _ => f32.invalid true
  | .fin s m e =>
    if m = 0 then (x, 0#5)
    else
      let (q, r) := quadrant m e
      let (neg, v) := trigQ q r
      (fxRound (s ^^ neg) v (-guardBits), 0#5)

/-- FCOS. -/
def fcosF (x : Nat) : Nat × BitVec 5 :=
  match f32.decode x with
  | .nan q => nanInput q
  | .inf _ => f32.invalid true
  | .fin _ m e =>
    if m = 0 then (f32.bias.toNat * 2 ^ 23, 0#5)
    else
      let (q, r) := quadrant m e
      let (neg, v) := trigQ (q + 1) r
      (fxRound neg v (-guardBits), 0#5)

/-- FTANH: (e^2x − 1) / (e^2x + 1). -/
def ftanhF (x : Nat) : Nat × BitVec 5 :=
  let one := f32.bias.toNat * 2 ^ 23
  match f32.decode x with
  | .nan q => nanInput q
  | .inf s => (f32.sign s + one, 0#5)
  | .fin s m e =>
    if m = 0 then (x, 0#5)
    else if !dyadicLt false m e false 16 0 then (f32.sign s + one, 0#5)
    else
      let y := 2 * toFx m e
      let n := y / fxLn2
      let t := fxExp (y % fxLn2) * 2 ^ n
      (fxRound s ((t - fxOne) * fxOne / (t + fxOne)) (-guardBits), 0#5)

end Sys2Proof.Machine
end

