-- ==== Sys2Proof/Machine/Operands.lean ====
section
/-! DEFINITION. The operand forms of the scalar instructions (01 R15, R16) and the shapes that many of them share: what
they read, what they write, and how the PC moves on (R12). -/

namespace Sys2Proof.Machine

/-- imm13 and imm14 are sign-extended (R16). -/
def sext32 {n : Nat} (i : BitVec n) : Word := i.signExtend 32
def sext64 {n : Nat} (i : BitVec n) : DWord := i.signExtend 64

/-- The amount of SHLI, SHRI and SRAI (R16). -/
def shiftImm (i : BitVec 6) : Word := i.setWidth 32

/-- Two register sources (R54). -/
def State.alu2 (s : State) (d a b : SReg) (f : Word → Word → Word) : Out :=
  s.issue' (.plain [.s a, .s b] [.s d]) (fun s => (s.wr d (f (s.rd a) (s.rd b))).advance 4)

/-- One register source (R54). -/
def State.alu1 (s : State) (d a : SReg) (f : Word → Word) : Out :=
  s.issue' (.plain [.s a] [.s d]) (fun s => (s.wr d (f (s.rd a))).advance 4)

/-- One register source and an immediate (R56). -/
def State.aluImm (s : State) (d a : SReg) (i : Word) (f : Word → Word → Word) : Out :=
  s.issue' (.plain [.s a] [.s d]) (fun s => (s.wr d (f (s.rd a) i)).advance 4)

/-- DIV and REM: a zero divisor gives `z` and sets DIVZERO (R55). -/
def State.aluDiv (s : State) (d a b : SReg) (z : Word → Word) (f : Word → Word → Word) : Out :=
  s.issue' (.plain [.s a, .s b] [.s d]) (fun s =>
    if s.rd b = 0#32 then ((s.wr d (z (s.rd a))).setDivZero).advance 4
    else (s.wr d (f (s.rd a) (s.rd b))).advance 4)

/-- SQ: the old destination, a field's register, and its offset and width (R58). -/
def State.field3 (s : State) (d a b c : SReg) (f : Word → Word → Nat → Nat → Word) : Out :=
  s.issue' (.plain [.s d, .s a, .s b, .s c] [.s d]) (fun s =>
    let off := (s.rd b).toNat % 32
    let w := min ((s.rd c).toNat % 64) (32 - off)
    (s.wr d (f (s.rd d) (s.rd a) off w)).advance 4)

/-- The same for a form that does not read its destination. -/
def State.fieldOf (s : State) (d a b c : SReg) (f : Word → Nat → Nat → Word) : Out :=
  s.issue' (.plain [.s a, .s b, .s c] [.s d]) (fun s =>
    let off := (s.rd b).toNat % 32
    let w := min ((s.rd c).toNat % 64) (32 - off)
    (s.wr d (f (s.rd a) off w)).advance 4)

/-- Two pair sources (R62). -/
def State.pair2 (s : State) (d a b : Pair) (f : DWord → DWord → DWord) : Out :=
  s.issue' (.plain (pairRegs a ++ pairRegs b) (pairRegs d)) (fun s => (s.wrP d (f (s.rdP a) (s.rdP b))).advance 4)

/-- A pair source and a register source (R62, R63). -/
def State.pair1 (s : State) (d a : Pair) (b : SReg) (f : DWord → Word → DWord) : Out :=
  s.issue' (.plain (pairRegs a ++ [.s b]) (pairRegs d)) (fun s => (s.wrP d (f (s.rdP a) (s.rd b))).advance 4)

/-- Two register sources and a pair destination (R62). -/
def State.widen2 (s : State) (d : Pair) (a b : SReg) (f : Word → Word → DWord) : Out :=
  s.issue' (.plain [.s a, .s b] (pairRegs d)) (fun s => (s.wrP d (f (s.rd a) (s.rd b))).advance 4)

/-- The target of a relative branch (R16, R64). -/
def relTarget {n : Nat} (pc : DWord) (o : BitVec n) : DWord := pc + 4#64 * sext64 o

/-- A branch that is a switch point exactly when it is taken (R64). -/
def State.branch {n : Nat} (s : State) (reads : List RegRef) (taken : Bool) (o : BitVec n) : Out :=
  s.issue' { reads := reads, writes := [], switch := taken, point := false } (fun s =>
    if taken then s.setPc (relTarget s.g.sc.pc o) else s.advance 4)

/-- The registers that hold the exec mask. -/
def execRegs : List RegRef := [.s 56#6, .s 57#6, .s 58#6]

/-- A transfer to a target in a pair: ALIGN when it is not aligned (R13, R67). -/
def State.jumpTo (s : State) (t : DWord) (link : Bool) : Out :=
  if t.extractLsb' 0 2 ≠ 0#2 then .next (s.raise (.plain kAlign))
  else if link then .next ((s.wrP linkPair (s.g.sc.pc + 4#64)).setPc t)
  else .next (s.setPc t)

end Sys2Proof.Machine
end

