-- ==== Sys2Proof/Machine/Branch.lean ====
section
/-! DEFINITION. Branches, calls and loops (02 R64 to R68), special-register access, traps and yielding (R72 to R74), and the
kill of an illegal instruction (01 R39). -/

namespace Sys2Proof.Machine

def execBc (c : CReg) (o : BitVec 19) (s : State) : Out := s.branch [] (s.cond c) o

def execBcN (c : CReg) (o : BitVec 19) (s : State) : Out := s.branch [] (!s.cond c) o

/-- A lane predicate; p0 is constant true (R89, R90). -/
def Gang.pred (g : Gang) (p : PReg) : LaneMask :=
  if p = 0#3 then ~~~ 0#96 else g.la.preds[p.toNat]'(p.isLt)

/-- Some active lane has the predicate (R66). -/
def Gang.anyLane (g : Gang) (p : PReg) : Bool := g.exec &&& g.pred p != 0#96

/-- Every active lane has the predicate (R66). -/
def Gang.everyLane (g : Gang) (p : PReg) : Bool := g.exec &&& ~~~ g.pred p == 0#96

def execBm (o : BitVec 19) (s : State) : Out := s.branch execRegs (s.g.exec == 0#96) o

def execBmN (o : BitVec 19) (s : State) : Out := s.branch execRegs (s.g.exec != 0#96) o

def execBany (p : PReg) (o : BitVec 19) (s : State) : Out := s.branch execRegs (s.g.anyLane p) o

def execBanyN (p : PReg) (o : BitVec 19) (s : State) : Out := s.branch execRegs (!s.g.anyLane p) o

def execBall (p : PReg) (o : BitVec 19) (s : State) : Out := s.branch execRegs (s.g.everyLane p) o

def execBallN (p : PReg) (o : BitVec 19) (s : State) : Out := s.branch execRegs (!s.g.everyLane p) o

def execJmp (o : BitVec 25) (s : State) : Out :=
  s.issue' (.switching [] []) (fun s => s.setPc (relTarget s.g.sc.pc o))

def execCall (o : BitVec 25) (s : State) : Out :=
  s.issue' (.switching [] (pairRegs linkPair)) (fun s =>
    (s.wrP linkPair (s.g.sc.pc + 4#64)).setPc (relTarget s.g.sc.pc o))

def execJmpr (a : Pair) (s : State) : Out :=
  s.issue (.switching (pairRegs a) []) (fun s => s.jumpTo (s.rdP a) false)

def execCallr (a : Pair) (s : State) : Out :=
  s.issue (.switching (pairRegs a) (pairRegs linkPair)) (fun s => s.jumpTo (s.rdP a) true)

def execRet (s : State) : Out :=
  s.issue (.switching (pairRegs linkPair) []) (fun s => s.jumpTo (s.rdP linkPair) false)

/-- The counter register of LOOP (R68). -/
def loopReg (k : BitVec 5) : SReg := k.setWidth 6

def execLoop (k : BitVec 5) (o : BitVec 19) (s : State) : Out :=
  let n := s.rd (loopReg k) - 1#32
  s.issue' { reads := [.s (loopReg k)], writes := [.s (loopReg k)], switch := n != 0#32, point := false } (fun s =>
    let s1 := s.wr (loopReg k) n
    if n = 0#32 then s1.advance 4 else s1.setPc (relTarget s.g.sc.pc o))

/-- GETSR (R51, R72). Under Plumb both copies receive the primary's TIMELO capture (R406). -/
def execGetsr (d : SReg) (n : SpecialReg) (s : State) : Out :=
  s.issue (.plain [] [.s d]) (fun s =>
    match n with
    | .timeLo =>
      if s.isSecondary then
        s.fromTwin (fun s vs =>
          let t := vs.headD 0#64
          .next (((s.setCapture t).wr d (t.extractLsb' 0 32)).advance 4))
      else
        let t := s.view s.myIface
        .next ((((s.sendTwin [t]).setCapture t).wr d (t.extractLsb' 0 32)).advance 4)
    | .timeHi =>
      let t := s.g.sc.timeCapture.getD (s.view s.myIface)
      .next (((s.setCapture t).wr d (t.extractLsb' 32 32)).advance 4)
    | .live0 | .live1 | .live2 | .fpFlags | .gStatus | .launchId | .tvecLo | .tvecHi | .trapPcLo | .trapPcHi | .trapCode =>
      .next ((s.wr d (s.special n)).advance 4))

def execSetsr (n : SpecialReg) (a : SReg) (s : State) : Out :=
  s.issue' (.plain [.s a] []) (fun s =>
    (s.modG (fun g => { g with sc := g.sc.setSpecial n (g.rd a) })).advance 4)

def execTrap (i : BitVec 19) (s : State) : Out := s.issue' (.switching [] []) (fun s => s.takeTrap kTrap i)

def execBrk (i : BitVec 19) (s : State) : Out := s.issue' (.switching [] []) (fun s => s.takeTrap kBrk i)

def execYield (s : State) : Out :=
  s.issue' (.plain [] []) (fun s =>
    (s.modG (fun g => { g with sch := { g.sch with yieldPending := true } })).advance 4)

/-- ILLEGAL_INSTRUCTION: the kill (R39 to R42). -/
def execIllegalInstruction (why : KillReason) (s : State) : Out := .next (s.kill why)

end Sys2Proof.Machine
end

