-- ==== Sys2Proof/Machine/ScalarAlu.lean ====
section
/-! DEFINITION. The scalar ALU, bit fields, compares, condition operations, selection and immediates (02 R54 to R61). -/

namespace Sys2Proof.Machine

/-! ### Functions of words -/

/-- Clamp to the signed 32-bit range (R54). -/
def satS (x : Int) : Word :=
  if x < -2147483648 then 0x80000000#32 else if x > 2147483647 then 0x7FFFFFFF#32 else BitVec.ofInt 32 x

/-- Clamp to the unsigned 32-bit range (R54). -/
def satZ (x : Int) : Word :=
  if x < 0 then 0#32 else if x > 4294967295 then 0xFFFFFFFF#32 else BitVec.ofInt 32 x

def mulhSW (a b : Word) : Word := (a.signExtend 64 * b.signExtend 64).extractLsb' 32 32
def mulhZW (a b : Word) : Word := (a.setWidth 64 * b.setWidth 64).extractLsb' 32 32
def minSW (a b : Word) : Word := if a.slt b then a else b
def minZW (a b : Word) : Word := if a.ult b then a else b
def maxSW (a b : Word) : Word := if a.slt b then b else a
def maxZW (a b : Word) : Word := if a.ult b then b else a
def shlW (a b : Word) : Word := a <<< (b.toNat % 64)
def shrW (a b : Word) : Word := a >>> (b.toNat % 64)
def sraW (a b : Word) : Word := a.sshiftRight (b.toNat % 64)
def rolW (a b : Word) : Word := a.rotateLeft (b.toNat % 32)
def rorW (a b : Word) : Word := a.rotateRight (b.toNat % 32)

/-- Leading zeros; 32 for 0 (R54). -/
def clzW (a : Word) : Word :=
  match (List.range 32).find? (fun i => a.getLsbD (31 - i)) with
  | some i => BitVec.ofNat 32 i
  | none => 32#32

/-- Trailing zeros; 32 for 0 (R54). -/
def ctzW (a : Word) : Word :=
  match (List.range 32).find? (fun i => a.getLsbD i) with
  | some i => BitVec.ofNat 32 i
  | none => 32#32

def popcW (a : Word) : Word := BitVec.ofNat 32 (popCount a)

/-- Bit i moves to bit 31 − i (R54). -/
def brevW (a : Word) : Word :=
  (List.range 32).foldl (fun r i => if a.getLsbD i then r ||| (1#32 <<< (31 - i)) else r) 0#32

/-- Byte i moves to byte 3 − i (R54). -/
def bswapW (a : Word) : Word := a.extractLsb' 0 8 ++ a.extractLsb' 8 8 ++ a.extractLsb' 16 8 ++ a.extractLsb' 24 8

/-- 2^w − 1 (R58). -/
def fieldMask (w : Nat) : Word := BitVec.ofNat 32 (2 ^ w - 1)

def fieldAt (a : Word) (off w : Nat) : Word := (a >>> off) &&& fieldMask w

/-- BEXT with sign (R58). -/
def bextSW (a : Word) (off w : Nat) : Word :=
  let f := fieldAt a off w
  if 0 < w ∧ f.getLsbD (w - 1) then f ||| ~~~ fieldMask w else f

def binsW (d a : Word) (off w : Nat) : Word := (d &&& ~~~ (fieldMask w <<< off)) ||| ((a &&& fieldMask w) <<< off)
def fshLW (d a : Word) (off w : Nat) : Word := (d <<< w) ||| fieldAt a off w
def fshRW (d a : Word) (off w : Nat) : Word := (d >>> w) ||| (fieldAt a off w <<< (32 - w))

/-! ### R54, R55 -/

def execAdd (d a b : SReg) (s : State) : Out := s.alu2 d a b (fun x y => x + y)

def execSub (d a b : SReg) (s : State) : Out := s.alu2 d a b (fun x y => x - y)

def execMul (d a b : SReg) (s : State) : Out := s.alu2 d a b (fun x y => x * y)

def execMulhS (d a b : SReg) (s : State) : Out := s.alu2 d a b mulhSW

def execMulhZ (d a b : SReg) (s : State) : Out := s.alu2 d a b mulhZW

def execMinS (d a b : SReg) (s : State) : Out := s.alu2 d a b minSW

def execMinZ (d a b : SReg) (s : State) : Out := s.alu2 d a b minZW

def execMaxS (d a b : SReg) (s : State) : Out := s.alu2 d a b maxSW

def execMaxZ (d a b : SReg) (s : State) : Out := s.alu2 d a b maxZW

def execAddsS (d a b : SReg) (s : State) : Out := s.alu2 d a b (fun x y => satS (x.toInt + y.toInt))

def execAddsZ (d a b : SReg) (s : State) : Out := s.alu2 d a b (fun x y => satZ (x.toNat + y.toNat))

def execSubsS (d a b : SReg) (s : State) : Out := s.alu2 d a b (fun x y => satS (x.toInt - y.toInt))

def execAnd (d a b : SReg) (s : State) : Out := s.alu2 d a b (fun x y => x &&& y)

def execOr (d a b : SReg) (s : State) : Out := s.alu2 d a b (fun x y => x ||| y)

def execXor (d a b : SReg) (s : State) : Out := s.alu2 d a b (fun x y => x ^^^ y)

def execAndn (d a b : SReg) (s : State) : Out := s.alu2 d a b (fun x y => x &&& ~~~ y)

def execOrn (d a b : SReg) (s : State) : Out := s.alu2 d a b (fun x y => x ||| ~~~ y)

def execXnor (d a b : SReg) (s : State) : Out := s.alu2 d a b (fun x y => ~~~ (x ^^^ y))

def execShl (d a b : SReg) (s : State) : Out := s.alu2 d a b shlW

def execShr (d a b : SReg) (s : State) : Out := s.alu2 d a b shrW

def execSra (d a b : SReg) (s : State) : Out := s.alu2 d a b sraW

def execRol (d a b : SReg) (s : State) : Out := s.alu2 d a b rolW

def execRor (d a b : SReg) (s : State) : Out := s.alu2 d a b rorW

def execDivS (d a b : SReg) (s : State) : Out := s.aluDiv d a b (fun _ => 0xFFFFFFFF#32) BitVec.sdiv

def execDivZ (d a b : SReg) (s : State) : Out := s.aluDiv d a b (fun _ => 0xFFFFFFFF#32) (fun x y => x / y)

def execRemS (d a b : SReg) (s : State) : Out := s.aluDiv d a b (fun x => x) BitVec.srem

def execRemZ (d a b : SReg) (s : State) : Out := s.aluDiv d a b (fun x => x) (fun x y => x % y)

def execClz (d a : SReg) (s : State) : Out := s.alu1 d a clzW

def execCtz (d a : SReg) (s : State) : Out := s.alu1 d a ctzW

def execPopc (d a : SReg) (s : State) : Out := s.alu1 d a popcW

def execBrev (d a : SReg) (s : State) : Out := s.alu1 d a brevW

def execBswap (d a : SReg) (s : State) : Out := s.alu1 d a bswapW

/-! ### R58 -/

def execBext (d a b c : SReg) (s : State) : Out := s.fieldOf d a b c fieldAt

def execBextS (d a b c : SReg) (s : State) : Out := s.fieldOf d a b c bextSW

def execBins (d a b c : SReg) (s : State) : Out := s.field3 d a b c binsW

def execFshL (d a b c : SReg) (s : State) : Out := s.field3 d a b c fshLW

def execFshR (d a b c : SReg) (s : State) : Out := s.field3 d a b c fshRW

/-! ### R56, R57 -/

def execAddi (d a : SReg) (i : BitVec 13) (s : State) : Out := s.aluImm d a (sext32 i) (fun x y => x + y)

def execAndi (d a : SReg) (i : BitVec 13) (s : State) : Out := s.aluImm d a (sext32 i) (fun x y => x &&& y)

def execOri (d a : SReg) (i : BitVec 13) (s : State) : Out := s.aluImm d a (sext32 i) (fun x y => x ||| y)

def execXori (d a : SReg) (i : BitVec 13) (s : State) : Out := s.aluImm d a (sext32 i) (fun x y => x ^^^ y)

def execShli (d a : SReg) (i : BitVec 6) (s : State) : Out := s.aluImm d a (shiftImm i) shlW

def execShri (d a : SReg) (i : BitVec 6) (s : State) : Out := s.aluImm d a (shiftImm i) shrW

def execSrai (d a : SReg) (i : BitVec 6) (s : State) : Out := s.aluImm d a (shiftImm i) sraW

def execMuli (d a : SReg) (i : BitVec 13) (s : State) : Out := s.aluImm d a (sext32 i) (fun x y => x * y)

def execLdhi (d : SReg) (i : BitVec 19) (s : State) : Out :=
  s.issue' (.plain [] [.s d]) (fun s => (s.wr d (i ++ 0#13)).advance 4)

def execAddpc (d : Pair) (i : BitVec 19) (s : State) : Out :=
  s.issue' (.plain [] (pairRegs d)) (fun s => (s.wrP d (s.g.sc.pc + (sext64 i <<< 13))).advance 4)

/-! ### R59, R60, R61 -/

def execCmp (k : Cond) (c : CReg) (a b : SReg) (s : State) : Out :=
  s.issue' (.plain [.s a, .s b] []) (fun s => (s.setCond c (k.holds (s.rd a) (s.rd b))).advance 4)

def execCmpi (k : Cond) (c : CReg) (a : SReg) (i : BitVec 13) (s : State) : Out :=
  s.issue' (.plain [.s a] []) (fun s => (s.setCond c (k.holds (s.rd a) (sext32 i))).advance 4)

def execCand (d a b : CReg) (s : State) : Out :=
  s.issue' (.plain [] []) (fun s => (s.setCond d (s.cond a && s.cond b)).advance 4)

def execCor (d a b : CReg) (s : State) : Out :=
  s.issue' (.plain [] []) (fun s => (s.setCond d (s.cond a || s.cond b)).advance 4)

def execCxor (d a b : CReg) (s : State) : Out :=
  s.issue' (.plain [] []) (fun s => (s.setCond d (s.cond a ^^ s.cond b)).advance 4)

def execCnot (d a : CReg) (s : State) : Out :=
  s.issue' (.plain [] []) (fun s => (s.setCond d (!s.cond a)).advance 4)

def execCtos (d : SReg) (s : State) : Out :=
  s.issue' (.plain [] [.s d]) (fun s => (s.wr d (s.g.sc.conds.setWidth 32)).advance 4)

def execStoc (a : SReg) (s : State) : Out :=
  s.issue' (.plain [.s a] []) (fun s =>
    (s.modG (fun g => { g with sc := { g.sc with conds := (g.rd a).extractLsb' 0 8 } })).advance 4)

def execSel (d : SReg) (k : CReg) (a b : SReg) (s : State) : Out :=
  s.issue' (.plain [.s a, .s b] [.s d]) (fun s => (s.wr d (if s.cond k then s.rd a else s.rd b)).advance 4)

end Sys2Proof.Machine
end

