-- ==== Sys2Proof/Machine/Lanes.lean ====
section
/-! DEFINITION. The lane registers, latches and predicates of a gang (03 R89 to R92, R95), the source and destination forms of
lane instructions (01 R27 to R30, 04 R106), and what every LA instruction does around its result (04 R105, R136). -/

namespace Sys2Proof

/-- Registers of a source that the scoreboard tracks, stepped by a repetition; `wide` adds the second of a pair. -/
def Src.regs (a : Src) (wide : Bool) (rep : Nat) : List RegRef :=
  match a with
  | .v i => .v (i + BitVec.ofNat 8 rep) :: (if wide then [.v (i + BitVec.ofNat 8 rep + 1#8)] else [])
  | .o i => .o (i + BitVec.ofNat 3 rep) :: (if wide then [.o (i + BitVec.ofNat 3 rep + 1#3)] else [])
  | .s r => .s r :: (if wide then [.s (r + 1#6)] else [])
  | .l _ | .lane | .gang | .crew | .pidx => []

/-- Registers of a destination; `n` is 1, 2 or 4 registers of a result. -/
def Dst.regs (d : Dst) (n rep : Nat) : List RegRef :=
  match d with
  | .v i => (List.range n).map (fun k => .v (i + BitVec.ofNat 8 (rep + k)))
  | .o i => (List.range n).map (fun k => .o (i + BitVec.ofNat 3 (rep + k)))
  | .s r => [.s r]
  | .p _ | .nw => []

/-- The first main-file index past those that a source reads, with `n` registers from the last repetition on (R30). -/
def Src.vEnd (a : Src) (n : Nat) : Nat :=
  match a with
  | .v i => i.toNat + n
  | .o _ | .l _ | .s _ | .lane | .gang | .crew | .pidx => 0

def Dst.vEnd (d : Dst) (n : Nat) : Nat :=
  match d with
  | .v i => i.toNat + n
  | .o _ | .p _ | .s _ | .nw => 0

/-- The latch a source names. -/
def Src.latch (a : Src) : List (BitVec 2) :=
  match a with
  | .l i => [i]
  | .v _ | .o _ | .s _ | .lane | .gang | .crew | .pidx => []

/-- Register sources of an operand. -/
def Opnd.srcs (b : Opnd) : List Src :=
  match b with
  | .reg a => [a]
  | .imm _ => []

end Sys2Proof

namespace Sys2Proof.Machine

/-- A lane register of zeros. -/
def LaneReg.zero : LaneReg := Vector.replicate 96 0#32

def Lane64.zero : Lane64 := Vector.replicate 96 0#64

/-- One lane of a lane register. -/
def laneAt (v : LaneReg) (n : Nat) : Word := if h : n < 96 then v[n] else 0#32

def laneAt64 (v : Lane64) (n : Nat) : DWord := if h : n < 96 then v[n] else 0#64

def Lanes.vreg (l : Lanes) (i : Nat) : LaneReg := Sparse.get LaneReg.zero l.v i
def Lanes.oreg (l : Lanes) (i : Nat) : LaneReg := Sparse.get LaneReg.zero l.o i
def Lanes.latch (l : Lanes) (i : BitVec 2) : Lane64 := Sparse.get Lane64.zero l.l i.toNat

def Lanes.setV (l : Lanes) (i : Nat) (r : LaneReg) : Lanes := { l with v := Sparse.put LaneReg.zero l.v i r }
def Lanes.setO (l : Lanes) (i : Nat) (r : LaneReg) : Lanes := { l with o := Sparse.put LaneReg.zero l.o i r }
def Lanes.setL (l : Lanes) (i : BitVec 2) (r : Lane64) : Lanes := { l with l := Sparse.put Lane64.zero l.l i.toNat r }

/-- A mask from its lanes. -/
def maskOf (f : Nat → Bool) : LaneMask :=
  BitVec.ofNat 96 ((List.range 96).foldl (fun a i => if f i then a + 2 ^ i else a) 0)

/-- A register with the lanes of `p` replaced. -/
def mergeReg (p : LaneMask) (old : LaneReg) (f : Nat → Word) : LaneReg :=
  Vector.ofFn (fun (i : Fin 96) => if p.getLsbD i.val then f i.val else laneAt old i.val)

def mergeReg64 (p : LaneMask) (old : Lane64) (f : Nat → DWord) : Lane64 :=
  Vector.ofFn (fun (i : Fin 96) => if p.getLsbD i.val then f i.val else laneAt64 old i.val)

/-! ### Sources -/

/-- A latch as it reads: zero where its valid bit is clear (R95). -/
def Gang.latchLane (g : Gang) (i : BitVec 2) (n : Nat) : DWord :=
  if g.la.latchValid.getLsbD i.toNat then laneAt64 (g.la.latch i) n else 0#64

/-- %pidx (R90). -/
def State.pidx (s : State) (n : Nat) : Word :=
  BitVec.ofNat 32 ((s.g.ref.crew * s.packet.gangs + s.g.ref.gang) * 96 + n)

/-- A 32-bit source in lane `n`, stepped by a repetition (R27, R29, R90). -/
def State.src32 (s : State) (a : Src) (rep n : Nat) : Word :=
  match a with
  | .v i => laneAt (s.g.la.vreg (i.toNat + rep)) n
  | .o i => laneAt (s.g.la.oreg (i.toNat + rep)) n
  | .l i => (s.g.latchLane i n).extractLsb' 0 32
  | .s r => s.rd r
  | .lane => BitVec.ofNat 32 n
  | .gang => BitVec.ofNat 32 s.g.ref.gang
  | .crew => BitVec.ofNat 32 s.g.ref.crew
  | .pidx => s.pidx n

/-- A 64-bit source in lane `n` (R106). -/
def State.src64 (s : State) (a : Src) (rep n : Nat) : DWord :=
  match a with
  | .v i => laneAt (s.g.la.vreg (i.toNat + rep + 1)) n ++ laneAt (s.g.la.vreg (i.toNat + rep)) n
  | .o i => laneAt (s.g.la.oreg (i.toNat + rep + 1)) n ++ laneAt (s.g.la.oreg (i.toNat + rep)) n
  | .l i => s.g.latchLane i n
  | .s r => s.rd (r + 1#6) ++ s.rd r
  | .lane | .gang | .crew | .pidx => (s.src32 a rep n).setWidth 64

/-- The B operand, or imm32 in its place (R107). -/
def State.opnd32 (s : State) (b : Opnd) (rep n : Nat) : Word :=
  match b with
  | .reg a => s.src32 a rep n
  | .imm w => w

def State.opnd64 (s : State) (b : Opnd) (rep n : Nat) : DWord :=
  match b with
  | .reg a => s.src64 a rep n
  | .imm w => w.signExtend 64

/-! ### Destinations -/

/-- The lanes in which a guard holds (R23). -/
def Gang.guard (g : Gang) (h : Guard) : LaneMask := if h.neg then ~~~ g.pred h.p else g.pred h.p

/-- The participating lanes (R105, R234). -/
def Gang.part (g : Gang) (h : Guard) : LaneMask := g.exec &&& g.guard h

/-- A predicate receives true where the result is not zero (R89). -/
def Gang.setPred (g : Gang) (p : PReg) (m : LaneMask) (f : Nat → Bool) : Gang :=
  if p = 0#3 then g
  else
    let old := g.la.preds[p.toNat]'(p.isLt)
    { g with la := { g.la with preds := g.la.preds.set p.toNat ((old &&& ~~~ m) ||| (maskOf f &&& m)) p.isLt } }

/-- `k` registers of a result in the lanes of `m`, the lowest word first; registers past a space's end do not exist. -/
def Gang.setLane (g : Gang) (d : Dst) (m : LaneMask) (k rep : Nat) (f : Nat → Nat → Word) : Gang :=
  match d with
  | .v i =>
    { g with la := (List.range k).foldl (fun l j =>
        if i.toNat + rep + j < 256 then
          l.setV (i.toNat + rep + j) (mergeReg m (l.vreg (i.toNat + rep + j)) (fun n => f n j))
        else l) g.la }
  | .o i =>
    { g with la := (List.range k).foldl (fun l j =>
        if i.toNat + rep + j < 8 then
          l.setO (i.toNat + rep + j) (mergeReg m (l.oreg (i.toNat + rep + j)) (fun n => f n j))
        else l) g.la }
  | .p q => g.setPred q m (fun n => f n 0 != 0#32)
  | .s _ | .nw => g

/-- Word `j` of a value. -/
def wordOf {n : Nat} (v : BitVec n) (j : Nat) : Word := v.extractLsb' (32 * j) 32

/-- Write latch LT (R91, R92): lanes outside `m` keep the latch if it was valid and hold zero if it was not; then it is
valid. -/
def Gang.setLatch (g : Gang) (lt : BitVec 2) (m : LaneMask) (f : Nat → DWord) : Gang :=
  let old := if g.la.latchValid.getLsbD lt.toNat then g.la.latch lt else Lane64.zero
  let l := g.la.setL lt (mergeReg64 m old f)
  { g with la := { l with latchValid := l.latchValid ||| (1#4 <<< lt.toNat) } }

/-- An LM instruction's value in latch LT: the valid bits stay clear (R92). -/
def Gang.setLatchData (g : Gang) (lt : BitVec 2) (m : LaneMask) (f : Nat → DWord) : Gang :=
  { g with la := g.la.setL lt (mergeReg64 m (g.la.latch lt) f) }

/-! ### LA instructions (R105) -/

/-- Sources of an LA instruction: 32-bit ones, pairs, and predicates take no part in the scoreboard. -/
structure LaSrcs where
  narrow : List Src
  wide : List Src
  deriving DecidableEq, Repr

/-- Every main-file index is below the launch's declared count (R30). -/
def State.laFits (s : State) (h : LaHdr) (u : LaSrcs) (words : Nat) : Bool :=
  let n := h.rpt.count
  u.narrow.all (fun a => a.vEnd n ≤ s.packet.vregs) && u.wide.all (fun a => a.vEnd (n + 1) ≤ s.packet.vregs) &&
    h.dst.vEnd (n - 1 + words) ≤ s.packet.vregs

/-- The registers an LA instruction reads and writes. It also needs the exec mask, which is no read (R93). -/
def laUses (h : LaHdr) (u : LaSrcs) (words : Nat) : Uses :=
  let reps := List.range h.rpt.count
  .plain
    ((reps.map (fun r => (u.narrow.map (fun a => a.regs false r)).flatten ++ (u.wide.map (fun a => a.regs true r)).flatten)).flatten)
    (execRegs ++ (reps.map (fun r => h.dst.regs words r)).flatten)

/-- Reading an invalid latch sets LATCHLOST when the instruction takes effect in some lane (R95). -/
def State.noteLatches (s : State) (u : LaSrcs) (m : LaneMask) : State :=
  let ls := (u.narrow.map Src.latch).flatten ++ (u.wide.map Src.latch).flatten
  if m != 0#96 && ls.any (fun i => !s.g.la.latchValid.getLsbD i.toNat) then s.setLatchLost else s

/-- The scoreboard after plain writes of these registers. -/
def State.boardWrote (s : State) (rs : List RegRef) : State := s.modBoard (fun b => rs.foldl Board.wrote b)

/-- The effect of an LA instruction with its results: per repetition and lane a value of 64 bits and the flags raised. All
sources were read from the state before (R82, R136). -/
def State.laWrite (s : State) (h : LaHdr) (m : LaneMask) (words : Nat) (f : Nat → Nat → DWord × BitVec 5) : State :=
  let reps := List.range h.rpt.count
  let s1 := reps.foldl (fun s r => s.modG (fun g => g.setLane h.dst m words r (fun n j => wordOf (f r n).1 j))) s
  let s2 := s1.modG (fun g => g.setLatch h.lt m (fun n => (f (h.rpt.count - 1) n).1))
  let flags := (reps.map (fun r => (List.range 96).foldl (fun a n => if m.getLsbD n then a ||| (f r n).2 else a) 0#5)).foldl
    (fun a b => a ||| b) 0#5
  (s2.raiseFp flags).boardWrote ((reps.map (fun r => h.dst.regs words r)).flatten)

/-- An LA instruction: `f` gives the result and flags per repetition and lane, from the state at issue (R105). -/
def State.la (s : State) (h : LaHdr) (u : LaSrcs) (words : Nat) (f : State → Nat → Nat → DWord × BitVec 5) : Out :=
  if s.laFits h u words = false then .next (s.kill .context)
  else
    s.issue' (laUses h u words) (fun s =>
      let m := s.g.part h.guard
      ((((s.noteLatches u m).laWrite h m words (f s)))).advance 12)

/-- A 32-bit result without flags (R91: bits 63:32 of the latch are clear). -/
def plainWord (w : Word) : DWord × BitVec 5 := (w.setWidth 64, 0#5)

/-- One source. -/
def State.la1 (s : State) (h : LaHdr) (a : Src) (f : Word → Word) : Out :=
  s.la h { narrow := [a], wide := [] } 1 (fun s r n => plainWord (f (s.src32 a r n)))

/-- Two sources. -/
def State.la2 (s : State) (h : LaHdr) (a : Src) (b : Opnd) (f : Word → Word → Word) : Out :=
  s.la h { narrow := a :: b.srcs, wide := [] } 1 (fun s r n => plainWord (f (s.src32 a r n) (s.opnd32 b r n)))

/-- Three sources. -/
def State.la3 (s : State) (h : LaHdr) (a b c : Src) (f : Word → Word → Word → Word) : Out :=
  s.la h { narrow := [a, b, c], wide := [] } 1
    (fun s r n => plainWord (f (s.src32 a r n) (s.src32 b r n) (s.src32 c r n)))

end Sys2Proof.Machine
end

