-- ==== Sys2Proof/Machine/Formats.lean ====
section
/-! DEFINITION. Tapered formats, block scales and conversions (05 R138 to R155), and the elements of formatted pages (R144 to
R148). -/

namespace Sys2Proof.Machine

/-! ### Tapered formats (R141 to R143) -/

/-- A tapered format: T8 with an exponent bit, T6 without. -/
structure TFmt where
  bits : Nat
  hasExp : Bool
  deriving DecidableEq, Repr

def t8 : TFmt := { bits := 8, hasExp := true }
def t6 : TFmt := { bits := 6, hasExp := false }

/-- The pattern of NaR. -/
def TFmt.nar (f : TFmt) : Nat := 2 ^ (f.bits - 1)

def TFmt.maxPos (f : TFmt) : Nat := f.nar - 1

/-- The length of the run of identical bits from bit `n − 1` of `x` downward. -/
def runLength (x : Nat) (b : Bool) : Nat → Nat
  | 0 => 0
  | n + 1 => if x.testBit n == b then runLength x b n + 1 else 0

/-- The magnitude of a positive pattern, as `m · 2^e` (R141, R142). -/
def TFmt.magnitude (f : TFmt) (x : Nat) : Nat × Int :=
  let n := f.bits - 1
  let top := x.testBit (n - 1)
  let run := runLength x top n
  let k : Int := if top then run - 1 else -run
  let left := n - run - 1
  let e := if f.hasExp then (if left = 0 then 0 else if x.testBit (left - 1) then 1 else 0) else 0
  let fb := if f.hasExp then left - 1 else left
  let scale : Int := if f.hasExp then 2 * k + e else k
  (2 ^ fb + x % 2 ^ fb, scale - fb)

/-- The value of a pattern; `none` for NaR. -/
def TFmt.decode (f : TFmt) (x0 : Nat) : Option (Bool × Nat × Int) :=
  let x := x0 % 2 ^ f.bits
  if x = 0 then some (false, 0, 0)
  else if x = f.nar then none
  else if x > f.nar then
    let (m, e) := f.magnitude (2 ^ f.bits - x)
    some (true, m, e)
  else
    let (m, e) := f.magnitude x
    some (false, m, e)

/-- Nearest representable magnitude, ties away from zero, in value (R150): the positive pattern, and its flags. -/
def TFmt.nearest (f : TFmt) (m : Nat) (e : Int) : Nat × BitVec 5 :=
  let below := (List.range f.maxPos).foldl (fun a i =>
    let (n, d) := f.magnitude (i + 1)
    if dyadicLt false m e false n d then a else a + 1) 0
  if below = 0 then (1, fUF ||| fNX)
  else
    let (n, d) := f.magnitude below
    let exact := !dyadicLt false n d false m e
    if exact then (below, 0#5)
    else if below = f.maxPos then (f.maxPos, fOF ||| fNX)
    else
      let (n1, d1) := f.magnitude (below + 1)
      let twice := exactSum [(false, 2 * m, e), (true, n, d), (true, n1, d1)]
      (if twice.1 < 0 then below else below + 1, fNX)

/-- A signed pattern. -/
def TFmt.signed (f : TFmt) (neg : Bool) (p : Nat) : Nat := if neg then 2 ^ f.bits - p else p

/-- A value into a tapered format (R150). -/
def TFmt.encode (f : TFmt) (v : FVal) : Nat × BitVec 5 :=
  match v with
  | .nan q => (f.nar, if q then fNV else 0#5)
  | .inf _ => (f.nar, fNV)
  | .fin s m e =>
    if m = 0 then (0, 0#5)
    else
      let (p, fl) := f.nearest m e
      (f.signed s p, fl)

/-! ### Conversions (R149 to R154) -/

/-- The integer range of a type. -/
def intRange (bits : Nat) (signed : Bool) : Int × Int :=
  if signed then (-(2 ^ (bits - 1)), 2 ^ (bits - 1) - 1) else (0, 2 ^ bits - 1)

def clampInt (bits : Nat) (signed : Bool) (v : Int) : Int :=
  let (lo, hi) := intRange bits signed
  if v < lo then lo else if v > hi then hi else v

/-- Round `± m · 2^e` to an integer; `away` sends RN ties away from zero (R149). -/
def roundInt (r : Rnd) (away neg : Bool) (m : Nat) (e : Int) : Int × Bool :=
  let (c, inexact) :=
    if away && r == .rn then
      (if 0 ≤ e then (m * 2 ^ e.toNat, false)
       else
         let d := 2 ^ (-e).toNat
         (if 2 * (m % d) ≥ d then m / d + 1 else m / d, m % d != 0))
    else roundAt r neg m e 0
  (if neg then -(c : Int) else c, inexact)

/-- A value into an integer format (R151). -/
def toInteger (bits : Nat) (signed : Bool) (r : Rnd) (v : FVal) : Nat × BitVec 5 :=
  let pat (x : Int) : Nat := (x % 2 ^ bits).toNat
  let (lo, hi) := intRange bits signed
  match v with
  | .nan _ => (0, fNV)
  | .inf s => (pat (if s then lo else hi), fNV)
  | .fin s m e =>
    let (x, inexact) := roundInt r (bits == 8) s m e
    if x < lo ∨ hi < x then (pat (clampInt bits signed x), fNV)
    else (pat x, if inexact then fNX else 0#5)

/-- A value into a binary format (R152). -/
def FFmt.encode (f : FFmt) (r : Rnd) (v : FVal) : Nat × BitVec 5 :=
  match v with
  | .nan q => f.invalid q
  | .inf s => (f.sign s + f.inf, 0#5)
  | .fin s m e => if m = 0 then (f.sign s, 0#5) else f.round r s m e

/-- What kind of format a conversion type names. -/
inductive TypeClass where
  | float (f : FFmt)
  | taper (f : TFmt)
  | int (bits : Nat) (signed : Bool)
  deriving DecidableEq, Repr

/-- The element class of a type code (R153). -/
def classOf (t : CvtType) : TypeClass :=
  match t with
  | .f32 => .float f32
  | .f16 | .f16x2 => .float f16
  | .bf16 | .bf16x2 => .float bf16
  | .t8 => .taper t8
  | .t6 => .taper t6
  | .s8 => .int 8 true
  | .z8 => .int 8 false
  | .s16 => .int 16 true
  | .z16 => .int 16 false
  | .s32 => .int 32 true
  | .z32 => .int 32 false

def isPacked (t : CvtType) : Bool :=
  match t with
  | .f16x2 | .bf16x2 => true
  | .f32 | .f16 | .bf16 | .t8 | .t6 | .s8 | .z8 | .s16 | .z16 | .s32 | .z32 => false

/-- The integer that a pattern of an integer type holds. -/
def intValue (bits : Nat) (signed : Bool) (x0 : Nat) : Int :=
  let x := x0 % 2 ^ bits
  if signed ∧ x ≥ 2 ^ (bits - 1) then (x : Int) - 2 ^ bits else x

def ofInt (v : Int) : FVal := .fin (v < 0) v.natAbs 0

/-- The value of a source pattern as a real number or a special; NaR converts as a quiet NaN without NV (R151, R152). -/
def sourceValue (c : TypeClass) (x : Nat) : FVal :=
  match c with
  | .float f => f.decode (x % 2 ^ (1 + f.ebits + f.fbits))
  | .taper f =>
    match f.decode x with
    | some (s, m, e) => .fin s m e
    | none => .nan false
  | .int b s => ofInt (intValue b s x)

/-- conv of one element (R154): the pattern in the destination's width, and flags. -/
def convert (dst src : TypeClass) (r : Rnd) (x : Nat) : Nat × BitVec 5 :=
  match dst, src with
  | .int b s, .int b2 s2 => ((clampInt b s (intValue b2 s2 x) % 2 ^ b).toNat, 0#5)
  | .taper f, .taper g => if f = g then (x % 2 ^ f.bits, 0#5) else f.encode (sourceValue src x)
  | .int b s, _ => toInteger b s r (sourceValue src x)
  | .taper f, _ => f.encode (sourceValue src x)
  | .float f, _ => f.encode r (sourceValue src x)

/-- extend (R154). -/
def extendTo (dst : TypeClass) (x : Nat) : Word :=
  match dst with
  | .int b true => BitVec.ofInt 32 (intValue b true x)
  | .int _ false | .float _ | .taper _ => BitVec.ofNat 32 x

/-- CVT in one lane (R154). -/
def cvtLane (dst src : CvtType) (r : Rnd) (e1 : Bool) (a b : Word) : DWord × BitVec 5 :=
  let d := classOf dst
  let c := classOf src
  if isPacked dst && !isPacked src then
    let x := convert d c r a.toNat
    let y := convert d c r b.toNat
    ((pack2 x.1 y.1).setWidth 64, x.2 ||| y.2)
  else if isPacked dst && isPacked src then
    let x := convert d c r (elem0 a)
    let y := convert d c r (elem1 a)
    ((pack2 x.1 y.1).setWidth 64, x.2 ||| y.2)
  else
    let x := convert d c r (if isPacked src then (if e1 then elem1 a else elem0 a) else a.toNat)
    ((extendTo d x.1).setWidth 64, x.2)

/-- A value times 2^k. -/
def FVal.scale (v : FVal) (k : Int) : FVal :=
  match v with
  | .fin s m e => .fin s m (e + k)
  | .inf s => .inf s
  | .nan q => .nan q

/-- CVTB APPLY in one lane (R155). -/
def cvtbLane (dst src : CvtType) (r : Rnd) (a b : Word) : DWord × BitVec 5 :=
  let sc := b.toNat % 256
  let v := sourceValue (classOf src) a.toNat
  let res := match classOf dst with
    | .float f => if sc = 255 then (f.nan, 0#5) else f.encode r (v.scale (sc - 127))
    | .taper f => if sc = 255 then (f.nar, 0#5) else f.encode (v.scale (127 - sc))
    | .int _ _ => (0, 0#5)
  (BitVec.ofNat 64 res.1, res.2)

/-- CVTB SCALE in one lane (R155): the smallest scale that brings |A| to maxpos or below. -/
def cvtbScaleLane (dst : CvtType) (a : Word) : DWord :=
  match f32.decode a.toNat, classOf dst with
  | .fin _ m e, .taper f =>
    let (n, d) := f.magnitude f.maxPos
    BitVec.ofNat 64 (((List.range 255).find? (fun (sc : Nat) => !dyadicLt false n d false m (e + 127 - (sc : Int)))).getD 255)
  | .fin _ _ _, .float _ | .fin _ _ _, .int _ _ | .inf _, _ | .nan _, _ => 255#64

/-! ### Elements of formatted pages (R144 to R148) -/

/-- Bytes of an element of a page format, T6 apart; `none` for RAW and reserved codes (R268). -/
def formatBytes (code : Nat) : Option Nat :=
  match code with
  | 1 => some 4
  | 2 | 3 => some 2
  | 4 => some 1
  | 5 => some 0
  | 6 | 7 => some 1
  | 8 | 9 => some 2
  | _ => none

/-- The block size of a geometry code; 0 for none (R144). -/
def geomBlock (g : Nat) : Nat :=
  match g with
  | 1 => 16
  | 2 => 32
  | 3 => 64
  | _ => 0

/-- A format and geometry that LDF, STF and the arrays accept (R145). -/
def formatOk (code g : Nat) : Bool := (formatBytes code).isSome && (g == 0 || code == 4 || code == 5)

/-- LDF's register image of an element (R148). -/
def elementImage (code : Nat) (x : Nat) (sc : Nat) : Word × BitVec 5 :=
  let tap (f : TFmt) : Word × BitVec 5 :=
    if sc = 255 then (BitVec.ofNat 32 f32.nan, 0#5)
    else
      let r := f32.encode .rn ((sourceValue (.taper f) x).scale (sc - 127))
      (BitVec.ofNat 32 r.1, r.2)
  match code with
  | 1 => (BitVec.ofNat 32 x, 0#5)
  | 2 =>
    let r := convert (.float f32) (.float f16) .rn x
    (BitVec.ofNat 32 r.1, r.2)
  | 3 =>
    let r := convert (.float f32) (.float bf16) .rn x
    (BitVec.ofNat 32 r.1, r.2)
  | 4 => tap t8
  | 5 => tap t6
  | 6 => (BitVec.ofInt 32 (intValue 8 true x), 0#5)
  | 7 => (BitVec.ofNat 32 (x % 256), 0#5)
  | 8 => (BitVec.ofInt 32 (intValue 16 true x), 0#5)
  | _ => (BitVec.ofNat 32 (x % 65536), 0#5)

/-- STF's element from a register image (R148). In a block of scale 255 NaR is stored and no flag is raised, whatever the image (log
entry 112). -/
def imageElement (code : Nat) (w : Word) (sc : Nat) : Nat × BitVec 5 :=
  let tap (f : TFmt) : Nat × BitVec 5 :=
    if sc = 255 then (f.nar, 0#5) else f.encode ((f32.decode w.toNat).scale (127 - sc))
  match code with
  | 1 => (w.toNat, 0#5)
  | 2 => convert (.float f16) (.float f32) .rn w.toNat
  | 3 => convert (.float bf16) (.float f32) .rn w.toNat
  | 4 => tap t8
  | 5 => tap t6
  | 6 => convert (.int 8 true) (.int 32 true) .rn w.toNat
  | 7 => convert (.int 8 false) (.int 32 false) .rn w.toNat
  | 8 => convert (.int 16 true) (.int 32 true) .rn w.toNat
  | _ => convert (.int 16 false) (.int 32 false) .rn w.toNat

/-- The physical byte of a block's scale, in the space of its page (R146). -/
def scaleByte (m : BitVec 128) (block : Nat) : Nat :=
  (m.extractLsb' 56 36).toNat * 65536 + (m.extractLsb' 51 5).toNat * 2048 + block

end Sys2Proof.Machine
end

