-- ==== Sys2Proof/Machine/LaneFloat.lean ====
section
/-! DEFINITION. The floating-point lane instructions (04 R119 to R127) and the conversions (05 R153 to R155). -/

namespace Sys2Proof.Machine

/-- An element operation of two operands. -/
def State.float2 (s : State) (h : LaHdr) (t : FType) (a : Src) (b : Opnd) (g : FFmt → Nat → Nat → Nat × BitVec 5) : Out :=
  s.la h { narrow := a :: b.srcs, wide := [] } 1 (fun s r n => byType2 t g (s.src32 a r n) (s.opnd32 b r n))

/-- A special function (R126). -/
def State.float1 (s : State) (h : LaHdr) (a : Src) (g : Nat → Nat × BitVec 5) : Out :=
  s.la h { narrow := [a], wide := [] } 1 (fun s r n =>
    let v := g (s.src32 a r n).toNat
    (BitVec.ofNat 64 v.1, v.2))

def execFadd (h : LaHdr) (t : FType) (r : Rnd) (a : Src) (b : Opnd) (s : State) : Out :=
  s.float2 h t a b (fun f x y => f.add r x y)

def execFsub (h : LaHdr) (t : FType) (r : Rnd) (a : Src) (b : Opnd) (s : State) : Out :=
  s.float2 h t a b (fun f x y => f.sub r x y)

def execFmul (h : LaHdr) (t : FType) (r : Rnd) (a : Src) (b : Opnd) (s : State) : Out :=
  s.float2 h t a b (fun f x y => f.mul r x y)

def execFfma (h : LaHdr) (t : FType) (r : Rnd) (np nc : Bool) (a b c : Src) (s : State) : Out :=
  s.la h { narrow := [a, b, c], wide := [] } 1 (fun s k n =>
    byType3 t (fun f x y z => f.fma r np nc x y z) (s.src32 a k n) (s.src32 b k n) (s.src32 c k n))

def execFmin (h : LaHdr) (t : FType) (a : Src) (b : Opnd) (s : State) : Out :=
  s.float2 h t a b (fun f x y => f.minMax false x y)

def execFmax (h : LaHdr) (t : FType) (a : Src) (b : Opnd) (s : State) : Out :=
  s.float2 h t a b (fun f x y => f.minMax true x y)

/-- FCMP: a 0 or 1 per element (R123). -/
def execFcmp (h : LaHdr) (t : FType) (k : FCond) (a : Src) (b : Opnd) (s : State) : Out :=
  s.float2 h t a b (fun f x y =>
    let v := f.compare k x y
    (if v.1 then 1 else 0, v.2))

def execFclass (h : LaHdr) (t : FType) (a : Src) (s : State) : Out :=
  s.float2 h t a (.reg a) (fun f x _ => (2 ^ f.classBit x, 0#5))

def execFdot2 (h : LaHdr) (bf : Bool) (r : Rnd) (a b c : Src) (s : State) : Out :=
  s.la h { narrow := [a, b, c], wide := [] } 1 (fun s k n =>
    dot2 bf r (s.src32 a k n) (s.src32 b k n) (s.src32 c k n))

def execFrcp (h : LaHdr) (a : Src) (s : State) : Out := s.float1 h a frcpF

def execFrsq (h : LaHdr) (a : Src) (s : State) : Out := s.float1 h a frsqF

def execFsqrt (h : LaHdr) (a : Src) (s : State) : Out := s.float1 h a fsqrtF

def execFex2 (h : LaHdr) (a : Src) (s : State) : Out := s.float1 h a fex2F

def execFlg2 (h : LaHdr) (a : Src) (s : State) : Out := s.float1 h a flg2F

def execFsin (h : LaHdr) (a : Src) (s : State) : Out := s.float1 h a fsinF

def execFcos (h : LaHdr) (a : Src) (s : State) : Out := s.float1 h a fcosF

def execFtanh (h : LaHdr) (a : Src) (s : State) : Out := s.float1 h a ftanhF

/-- B is read in the pack form only (R154). -/
def cvtSrcs (dst src : CvtType) (a b : Src) : List Src := if isPacked dst && !isPacked src then [a, b] else [a]

def execCvt (h : LaHdr) (dst src : CvtType) (r : Rnd) (e1 : Bool) (a b : Src) (s : State) : Out :=
  s.la h { narrow := cvtSrcs dst src a b, wide := [] } 1 (fun s k n =>
    cvtLane dst src r e1 (s.src32 a k n) (s.src32 b k n))

def execCvtbApply (h : LaHdr) (dst src : CvtType) (r : Rnd) (a : Src) (b : Opnd) (s : State) : Out :=
  s.la h { narrow := a :: b.srcs, wide := [] } 1 (fun s k n => cvtbLane dst src r (s.src32 a k n) (s.opnd32 b k n))

def execCvtbScale (h : LaHdr) (dst : CvtType) (a : Src) (s : State) : Out :=
  s.la h { narrow := [a], wide := [] } 1 (fun s k n => (cvtbScaleLane dst (s.src32 a k n), 0#5))

end Sys2Proof.Machine
end

