-- ==== Sys2Proof/Machine/Loads.lean ====
section
/-! DEFINITION. What the scalar and the lane memory instructions share (02 R69 to R71, 08 R234 to R243): results of loads,
the operations of atomics, remote loads and atomics (18 R437 to R441), and the stores of one instruction. -/

namespace Sys2Proof

/-- Bytes of an access size (R31). -/
def MemSize.bytes (z : MemSize) : Nat :=
  match z with
  | .b => 1
  | .h => 2
  | .w => 4
  | .d => 8
  | .q => 16

/-- Registers of an access size (R238). -/
def MemSize.words (z : MemSize) : Nat :=
  match z with
  | .b | .h | .w => 1
  | .d => 2
  | .q => 4

end Sys2Proof

namespace Sys2Proof.Machine

/-! ### Atomic operations (R71, R243) -/

/-- The value an atomic stores; none for a CAS that fails. -/
def atomicNew (op : AtomOp) (n old operand expect : Nat) : Option Nat :=
  let bits := 8 * n
  let a := BitVec.ofNat bits old
  let b := BitVec.ofNat bits operand
  match op with
  | .add => some (a + b).toNat
  | .and => some (a &&& b).toNat
  | .or => some (a ||| b).toNat
  | .xor => some (a ^^^ b).toNat
  | .minS => some (if a.sle b then a else b).toNat
  | .minZ => some (if a.ule b then a else b).toNat
  | .maxS => some (if a.sle b then b else a).toNat
  | .maxZ => some (if a.ule b then b else a).toNat
  | .exch => some b.toNat
  | .cas => if a = BitVec.ofNat bits expect then some b.toNat else none
  | .fadd => some (f32.add .rn old operand).1

/-- One access of one lane, with the operand and the expected value of an atomic. -/
structure LaneAcc where
  lane : Nat
  ptr : DWord
  land : Landing
  operand : Nat
  expect : Nat
  deriving DecidableEq, Repr

/-- An atomic at a home of this device: earlier writes of the gang to it are performed first (R71, R77). The old value, and
the state after. -/
def State.atomicHome (s : State) (op : AtomOp) (a : LaneAcc) : Nat × State :=
  let s0 := s.flushTo s.g.ref a.land.bytes
  let old := s0.ownValue a.land.bytes
  (old,
    match atomicNew op a.land.bytes.length old a.operand a.expect with
    | none => s0
    | some v =>
      let bs := placed a.land.bytes v
      if bs.all (fun b => s0.transactional b.1) then (s0.txnWrite a.land.owner bs).txnPages (a.land.pages.map Prod.fst)
      else (s0.noteReplay s0.g.ref a.land.bytes).performBytes s0.g.ref bs (a.land.pages.map Prod.fst))

/-! ### Results of loads -/

/-- The registers of a load's destination. -/
def RemoteDst.regs (d : RemoteDst) (words : Nat) : List RegRef :=
  match d with
  | .scalar t _ => [.s t]
  | .pair t => pairRegs t
  | .lanes e _ _ => e.regs words 0

/-- A loaded value of `n` bytes, extended to 32 bits when it is shorter (R69, R238). -/
def loadedWord (signed : Bool) (n v j : Nat) : Word :=
  if n < 4 ∧ signed then (BitVec.ofNat (8 * n) v).signExtend 32 else BitVec.ofNat 32 (v / 2 ^ (32 * j))

/-- Write loaded values, per lane, into the destination (R69, R238), and into the latch as long as no later instruction has
made it valid (R91, R92, R235). -/
def Gang.loaded (g : Gang) (d : RemoteDst) (n : Nat) (vs : List (Nat × Nat)) : Gang :=
  match d with
  | .scalar t signed =>
    (match vs with
     | [] => g
     | v :: _ => g.wr t (loadedWord signed n v.2 0))
  | .pair t =>
    (match vs with
     | [] => g
     | v :: _ => g.wrP t (BitVec.ofNat 64 v.2))
  | .lanes e signed lt =>
    let valueOf (k : Nat) : Nat := match vs.find? (fun v => v.1 == k) with | some v => v.2 | none => 0
    let m := maskOf (fun k => vs.any (fun v => v.1 == k))
    let h := g.setLane e m (if n ≤ 4 then 1 else n / 4) 0 (fun k j => loadedWord signed n (valueOf k) j)
    if g.la.latchValid.getLsbD lt.toNat then h
    else
      h.setLatchData lt m (fun k =>
        (if n ≤ 4 then 0#32 else loadedWord signed n (valueOf k) 1) ++ loadedWord signed n (valueOf k) 0)

/-- The destination's registers wait for their data (R93). -/
def State.marksLoad (s : State) (d : RemoteDst) (words : Nat) : State :=
  s.modBoard (fun b => (d.regs words).foldl Board.loads b)

/-- Registers whose remote load was discarded: they are pending no longer, and the first instruction that reads one faults
with the load's pointer (19 R461). -/
def Board.lose (b : Board) (rs : List RegRef) (p : DWord) : Board :=
  { b with
    pending := b.pending.filter (fun r => !rs.contains r)
    lost := b.lost.filter (fun x => !rs.contains x.1) ++ (rs.filter RegRef.real).map (fun r => (r, p)) }

/-- What the destination holds, for a Plumb secondary (R406): a scalar's value, or one value per lane. -/
def Gang.dstValues (g : Gang) (d : RemoteDst) (n : Nat) : List DWord :=
  let two (lo hi : Word) : DWord := if n = 8 then hi ++ lo else lo.setWidth 64
  match d with
  | .scalar t _ => [(g.rd t).setWidth 64]
  | .pair t => [g.rdP t]
  | .lanes (.v i) _ _ =>
    (List.range 96).map (fun k => two (laneAt (g.la.vreg i.toNat) k) (laneAt (g.la.vreg (i.toNat + 1)) k))
  | .lanes (.o i) _ _ =>
    (List.range 96).map (fun k => two (laneAt (g.la.oreg i.toNat) k) (laneAt (g.la.oreg (i.toNat + 1)) k))
  | .lanes (.p _) _ _ | .lanes (.s _) _ _ | .lanes .nw _ _ => []

/-! ### Remote loads and atomics (18 R437 to R441) -/

/-- Whether this gang's own writes give the byte. -/
def State.ownKnown (s : State) (p : Place) : Bool := s.isQueued s.g.ref p || (s.myTxn.bind (fun t => s.txnByte t p)).isSome

/-- The access needs the fabric. -/
def State.isFar (s : State) (a : LaneAcc) : Bool :=
  a.land.bytes.any (fun p => p.remote.isSome && !s.ownKnown p)

/-- The device, interface and line of a remote access. -/
def LaneAcc.lineKey (a : LaneAcc) : Nat × Nat × Nat :=
  match a.land.bytes with
  | [] => (0, 0, 0)
  | p :: _ => (p.remote.getD 0, a.land.route.1, p.line)

/-- The place of the lowest byte. -/
def LaneAcc.first (a : LaneAcc) : Place := a.land.bytes.headD (.hbm 0)

/-- Accesses grouped by line, in the order of their lanes. -/
def groupLines (as : List LaneAcc) : List (List LaneAcc) :=
  ((as.map LaneAcc.lineKey).eraseDups).map (fun k => as.filter (fun a => a.lineKey == k))

/-- The lowest place of some accesses. -/
def lowestPlace (as : List LaneAcc) : Place :=
  as.foldl (fun p a => if a.first.key.getD 0 < p.key.getD 0 then a.first else p) ((as.map LaneAcc.first).headD (.hbm 0))

/-- Bytes from the lowest place of some accesses of `n` bytes to the end of the highest. -/
def spanBytes (as : List LaneAcc) (n : Nat) : Nat :=
  as.foldl (fun m a => max m (a.first.key.getD 0 + n - (lowestPlace as).key.getD 0)) 0

/-- Send one access of one line and hold the destination until it answers. A READ flit's LEN is the number of bytes it asks for
(log entry 25). An atomic in an open transaction reads, and changes the transaction's copy only (16 R408). -/
def State.sendLine (s : State) (dst : RemoteDst) (op : Option AtomOp) (n serial : Nat) (as : List LaneAcc) : State :=
  match as with
  | [] => s
  | a :: _ =>
    let (dev, _, line) := a.lineKey
    let alters := op.isSome && !as.all (fun (x : LaneAcc) => x.land.bytes.all s.transactional)
    let id := s.nextId
    let items : List RemoteItem := as.map (fun x => { lane := x.lane, place := x.first, operand := x.operand, expect := x.expect })
    let o : Op :=
      { id := id, owner := s.g.ref, iface := s.myIface, core := s.myCore, pc := s.g.sc.pc, token := none, serial := serial,
        kind := .remoteLoad dst op n items dev a.ptr (lowestPlace as) }
    let s0 := if alters then s.noteReplay s.g.ref ((as.map (fun (x : LaneAcc) => x.land.bytes)).flatten) else s
    let s1 := { s0 with nextId := id + 1, ops := s.ops ++ [o] }
    let s2 := if alters = false then s1
      else s1.addUnacked
        { id := id, dev := dev, owner := s1.g.ref, direct := false, lines := [line], bytes := [],
          pages := (as.map (fun (x : LaneAcc) => x.land.pages.map Prod.fst)).flatten,
          ptrs := (as.map (fun (x : LaneAcc) => pointed x.land.bytes x.ptr)).flatten, released := false }
    let payload := if alters then (as.map (fun (x : LaneAcc) => leBytes n x.operand)).flatten
      else List.replicate (spanBytes as n) 0#8
    s2.coalesce dev id (s2.flit dev (if alters then .atomic else .read) false a.land.route payload id)

/-- Values of loads that meet free counters are new at each load. -/
def State.usedFree (s : State) (as : List LaneAcc) : State :=
  if as.any (fun a => a.land.type == tMmio) then { s with freeCtr := s.freeCtr + 1 } else s

/-- The access may read its home when its data returns (10 R291): it is memory of this device, and no write of the gang under way
and no transaction of it has a part in it (R77, 16 R408). -/
def State.mayBeLate (s : State) (a : LaneAcc) : Bool :=
  s.myTxn.isNone && a.land.bytes.all (fun p => p.key.isSome && p.remote.isNone && !s.isTouched s.g.ref p)

/-- Registers of the gang's loads that have not read their homes yet and reach these places: a later read of one of them comes
after (10 R291). -/
def State.lateAt (s : State) (ps : List Place) : List RegRef :=
  (s.ops.map (fun o => match o.kind with
    | .localLoad _ _ rs items =>
      if o.owner = s.g.ref ∧ items.any (fun i => i.places.any (fun p => ps.contains p)) then rs.filter (fun r => s.g.bd.pending.contains r)
      else []
    | _ => [])).flatten

/-- A load that reads its homes when its data returns; what they hold now is kept beside (10 R291). -/
def State.lateLoad (s : State) (dst : RemoteDst) (n words : Nat) (as : List LaneAcc) : State :=
  let items : List LocalItem := as.map (fun a => { lane := a.lane, places := a.land.bytes, seen := s.ownValue a.land.bytes })
  let o : Op :=
    { id := s.nextId, owner := s.g.ref, iface := s.myIface, core := s.myCore, pc := s.g.sc.pc, token := none, serial := 0,
      kind := .localLoad dst n ((dst.regs words).filter RegRef.real) items }
  { s with nextId := s.nextId + 1, ops := s.ops ++ [o] }

/-- The value of one lane when a late load's data returns: what the home holds now, or for a part of 8 bytes of an access of 16
what it held at issue, freely (10 R291). Data that has become uncorrectable since is taken as it was. -/
def State.lateValue (s : State) (n : Nat) (i : LocalItem) : Nat :=
  let now := leValue (i.places.map s.homeByte)
  if (s.poisonedByte i.places).isSome then i.seen
  else if n ≤ 8 then now
  else (if Config.choice (2 * s.freeCtr) then now else i.seen) % 2 ^ 64 +
    (if Config.choice (2 * s.freeCtr + 1) then now else i.seen) / 2 ^ 64 * 2 ^ 64

/-- The data of a late load returns. -/
def State.endLate (s : State) (o : Op) : State :=
  match o.kind with
  | .localLoad dst n _ items =>
    { s with ops := s.ops.filter (fun x => x.id != o.id) }.modGang o.owner (fun h =>
      if h.sch.run.isOver then h else h.loaded dst n (items.map (fun (i : LocalItem) => (i.lane, s.lateValue n i))))
  | _ => s

/-- The loads of one instruction: values of this device are in the destination at once and usable when their data
returns, or are read as it returns (R93, 10 R291); the others come over the fabric (R440). -/
def State.loadLanes (s : State) (dst : RemoteDst) (n words : Nat) (as : List LaneAcc) (k : State → State) : Out :=
  let far := groupLines (as.filter s.isFar)
  let behind := s.lateAt ((as.map (fun a => a.land.bytes)).flatten)
  if s.egressFull far.length then .next (s.again .egress)
  else if behind ≠ [] then .next (s.again (.board behind))
  else if s.late ∧ s.packet.plumb = false ∧ as.all s.mayBeLate ∧ (dst.regs words).any RegRef.real then
    .next (k (((s.lateLoad dst n words as).countLines (as.map LaneAcc.first)).marksLoad dst words))
  else
    let near := as.filter (fun a => !s.isFar a)
    let s1 := (s.modG (fun g => g.loaded dst n (near.map (fun a => (a.lane, s.ownValue a.land.bytes))))).usedFree as
    let s2 := far.foldl (fun s l => s.sendLine dst none n 0 l) s1
    .next (k ((s2.countLines (as.map LaneAcc.first)).marksLoad dst words))

/-- The atomics of one instruction, in lane order (R71, R237, R243). A Plumb secondary performs those in its own
allocation and takes every value from its primary (R406, R407). -/
def State.atomLanes (s : State) (dst : RemoteDst) (op : AtomOp) (n words : Nat) (as : List LaneAcc) (k : State → State) :
    Out :=
  if s.isSecondary then
    s.fromTwin (fun s vs =>
      let own := as.filter (fun a => a.land.bytes.all s.ownScratch)
      let s1 := own.foldl (fun s a => (s.atomicHome op a).2) s
      let vals := as.map (fun a => (a.lane, (vs.getD (if vs.length ≤ 1 then 0 else a.lane) 0#64).toNat))
      let s2 := (s1.modG (fun g => g.loaded dst n vals)).marksLoad dst words
      .next (k (if vs.isEmpty ∧ dst.regs words ≠ [] then
          s2.modBoard (fun b => b.lose (dst.regs words) (match as with | [] => 0#64 | a :: _ => a.ptr))
        else s2)))
  else
    let far := groupLines (as.filter s.isFar)
    if s.egressFull far.length then .next (s.again .egress)
    else
      let near := as.filter (fun a => !s.isFar a)
      let r := near.foldl (fun (acc : List (Nat × Nat) × State) a =>
        let x := acc.2.atomicHome op a
        (acc.1 ++ [(a.lane, x.1)], x.2)) ([], s)
      let s1 := r.2.modG (fun g => g.loaded dst n r.1)
      let s2 := if far.isEmpty then s1.sendTwin (s1.g.dstValues dst n)
        else
          let m := s1.g.plumb.serial
          let t := if s1.packet.plumb then s1.modG (fun g => { g with plumb := { g.plumb with serial := m + 1 } }) else s1
          far.foldl (fun s l => s.sendLine dst (some op) n m l) t
      .next (k ((s2.countLines (as.map LaneAcc.first)).marksLoad dst words))

/-! ### Stores -/

/-- The first word of an instruction (R404). -/
def word0 (i : Instr) : DWord := ((encode i).headD 0#32).setWidth 64

/-- A value in 64-bit chunks, zero-extended (R404). -/
def chunks (n v : Nat) : List DWord :=
  if n ≤ 8 then [BitVec.ofNat 64 v] else [BitVec.ofNat 64 v, BitVec.ofNat 64 (v / 2 ^ 64)]

/-- What a store, atomic or LDX folds into the store signature (R404). -/
def signItems (i : Instr) (xs : List (DWord × List DWord)) : List DWord :=
  (xs.map (fun x => x.1 :: x.2)).flatten ++ [word0 i]

/-- Bytes that a Plumb copy's store buffer takes (R407). -/
def State.bufferBytes (s : State) (ls : List Landing) : Nat :=
  if s.packet.plumb then
    (ls.map (fun l => if l.type = tMmio then 0 else (l.bytes.filter (fun p => !s.ownScratch p)).length)).sum
  else 0

/-- Flits of the stores. -/
def storeFlits (ls : List Landing) : Nat :=
  (((ls.map (fun l => l.bytes.filter (fun p => p.remote.isSome))).flatten.map (fun p => (p.remote, p.line))).eraseDups).length

/-- Loads that have not read their homes and that a store to these landings must not pass: those of its own places, and for a register
all of them (10 R291, 02 R78). -/
def State.storeWaits (s : State) (ls : List Landing) : List RegRef :=
  (if ls.any (fun l => l.type == tMmio) then s.lateRegs.filter (fun r => s.g.bd.pending.contains r) else []) ++
    s.lateAt ((ls.map Landing.bytes).flatten)

/-- Stores `act` to these landings past their checks, with their items of the signature: they wait for egress space (R440), and
under Plumb they are a comparison point where the store buffer would overflow (R407). -/
def State.storeBehind (s : State) (ls : List Landing) (items : List DWord) (act k : State → State) : Out :=
  let go (s : State) : Out := .next (k (((act s).sign items).countLines (ls.map (fun l => l.bytes.headD (.hbm 0)))))
  if s.egressFull (storeFlits ls) then .next (s.again .egress)
  else if s.storeWaits ls ≠ [] then .next (s.again (.board (s.storeWaits ls)))
  else if s.packet.plumb ∧ (s.g.plumb.passed = true ∨ s.g.plumb.buffered + s.bufferBytes ls > 16384) then s.compare go
  else go s

/-- The stores of one instruction past its checks. -/
def State.storeOut (s : State) (i : Instr) (items : List (DWord × Landing × Nat)) (k : State → State) : Out :=
  s.storeBehind (items.map (fun x => x.2.1)) (signItems i (items.map (fun x => (x.1, chunks x.2.1.bytes.length x.2.2))))
    (fun s => s.storeLanes items) k

end Sys2Proof.Machine
end

