-- ==== Sys2Proof/Machine/LaneMem.lean ====
section
/-! DEFINITION. The lane memory instructions (08 R234 to R250). -/

namespace Sys2Proof

/-- The factor of a scale code (R31). -/
def Scale.factor (z : Scale) : DWord :=
  match z with
  | .x1 => 1#64
  | .x2 => 2#64
  | .x4 => 4#64
  | .x8 => 8#64
  | .x16 => 16#64

/-- Registers that an address reads (R31). -/
def LaneAddr.regs (a : LaneAddr) : List RegRef :=
  match a with
  | .base b i _ _ => [.s (b ++ 0#1), .s (b ++ 1#1)] ++ i.regs false 0
  | .pair p _ => p.regs true 0

/-- Sources of an address: narrow, wide. -/
def LaneAddr.narrow (a : LaneAddr) : List Src :=
  match a with
  | .base _ i _ _ => [i]
  | .pair _ _ => []

def LaneAddr.wide (a : LaneAddr) : List Src :=
  match a with
  | .base _ _ _ _ => []
  | .pair p _ => [p]

end Sys2Proof

namespace Sys2Proof.Machine

/-! ### What every LM instruction does (R31, R234 to R236) -/

/-- The address of a lane (R31). -/
def State.laneAddress (s : State) (a : LaneAddr) (n : Nat) : DWord :=
  match a with
  | .base b i z d => s.rdP b + (s.src32 i 0 n).signExtend 64 * z.factor + d.signExtend 64
  | .pair p d => s.src64 p 0 n + d.signExtend 64

/-- Word `j` of a data operand (R31, R239): a latch holds 64 bits, the other spaces consecutive registers. -/
def State.dataWord (s : State) (a : Src) (words n j : Nat) : Word :=
  match a with
  | .l _ => wordOf (s.src64 a 0 n) j
  | .s r => if words = 1 then s.rd r else s.rd (r + BitVec.ofNat 6 j)
  | .v _ | .o _ | .lane | .gang | .crew | .pidx => s.src32 a j n

/-- A data operand as a number. -/
def State.dataValue (s : State) (a : Src) (z : MemSize) (n : Nat) : Nat :=
  (((List.range z.words).map (fun j => (s.dataWord a z.words n j).toNat * 2 ^ (32 * j))).sum) % 2 ^ (8 * z.bytes)

/-- Registers that a data operand reads. -/
def dataRegs (a : Src) (z : MemSize) : List RegRef :=
  match a with
  | .v _ | .o _ => ((List.range z.words).map (fun j => a.regs false j)).flatten
  | .s r => .s r :: (if z = .d then [.s (r + 1#6)] else [])
  | .l _ | .lane | .gang | .crew | .pidx => []

/-- Every main-file index is below the declared count (R30). -/
def State.lmFits (s : State) (h : LmHdr) (src : List (Src × Nat)) (dst : Dst) (words : Nat) : Bool :=
  h.addr.narrow.all (fun a => a.vEnd 1 ≤ s.packet.vregs) && h.addr.wide.all (fun a => a.vEnd 2 ≤ s.packet.vregs) &&
    src.all (fun x => x.1.vEnd x.2 ≤ s.packet.vregs) && dst.vEnd words ≤ s.packet.vregs

/-- Check every participating lane; the lowest faulting lane's fault is the instruction's (R236). A wait of any lane comes
before (log entry 17). -/
def checkLanes {α : Type} (p : LaneMask) (f : Nat → Except Fail α) : Except Fail (List (Nat × α)) :=
  let lanes := (List.range 96).filter (fun n => p.getLsbD n)
  let rs := lanes.map (fun n => (n, f n))
  let isFault (x : Except Fail α) : Bool := match x with | .error (.fault _) => true | _ => false
  match rs.findSome? (fun r => match r.2 with | .error (.wait w) => some w | _ => none) with
  | some w => .error (.wait w)
  | none =>
    match rs.findSome? (fun r => match r.2 with | .error (.fault i) => some i | _ => none) with
    | some i => .error (.fault { i with lanes := maskOf (fun n => rs.any (fun r => r.1 == n && isFault r.2)) })
    | none => .ok (rs.filterMap (fun r => match r.2 with | .ok v => some (r.1, v) | .error _ => none))

/-- An LM instruction: its illegal context, its switch point, and its body over the participating lanes. With none it
touches nothing, but its destination's mark (R93, R234). -/
def State.lm (s : State) (h : LmHdr) (fits point : Bool) (reads writes : List RegRef) (idle : State → State)
    (body : State → LaneMask → Out) : Out :=
  if fits = false then .next (s.kill .context)
  else
    s.issue { reads := h.addr.regs ++ reads, writes := execRegs ++ writes, switch := true, point := point, passes := !point } (fun s =>
      let p := s.g.part h.guard
      if p = 0#96 then .next ((idle s).advance 12) else body s p)

/-- The latches that an LM instruction has read, for its address and as data (R95, R235): it sets LATCHLOST as it takes effect. -/
def State.noteLm (s : State) (h : LmHdr) (data : List Src) (p : LaneMask) : State :=
  s.noteLatches { narrow := h.addr.narrow ++ data, wide := h.addr.wide } p

/-- An access by pointer, or with `offset` by crew offset (R244). -/
def State.lmCheck (s : State) (offset : Bool) (need : Perms) (op : TargetOp) (n : Nat) (p : DWord) : Except Fail Landing :=
  if offset then s.checkOffset (need.r || need.a) n n (p.toNat % 2 ^ 32)
  else s.check (s.request need n) op n p

/-- LD and LDL (R238, R244). -/
def State.laneLoad (s : State) (offset : Bool) (h : LmHdr) (z : MemSize) (signed : Bool) (d : Dst) (lt : BitVec 2) : Out :=
  let dst := RemoteDst.lanes d signed lt
  s.lm h (s.lmFits h [] d z.words) false [] (d.regs z.words 0) (fun s => s.marksLoad dst z.words) (fun s p =>
    match checkLanes p (fun n => s.lmCheck offset .read .load z.bytes (s.laneAddress h.addr n)) with
    | .error x => s.failed x
    | .ok ls =>
      let as := ls.map (fun x =>
        ({ lane := x.1, ptr := s.laneAddress h.addr x.1, land := x.2, operand := 0, expect := 0 } : LaneAcc))
      s.loadLanes dst z.bytes z.words as (fun t => (t.noteLm h [] p).advance 12))

/-- ST and STL (R239, R244). -/
def State.laneStore (s : State) (offset : Bool) (i : Instr) (h : LmHdr) (z : MemSize) (src : Src) : Out :=
  s.lm h (s.lmFits h [(src, z.words)] .nw 0) false (dataRegs src z) [] (fun s => s.sign [word0 i]) (fun s p =>
    match checkLanes p (fun n => s.lmCheck offset .write .store z.bytes (s.laneAddress h.addr n)) with
    | .error x => s.failed x
    | .ok ls =>
      s.storeOut i (ls.map (fun x => (s.laneAddress h.addr x.1, x.2, s.dataValue src z x.1))) (fun t =>
        (t.noteLm h [src] p).advance 12))

/-- The registers that CAS compares with (R243). -/
def expectSrc (op : AtomOp) (d : Dst) : Option Src :=
  match op, d with
  | .cas, .v i => some (.v i)
  | .cas, .o i => some (.o i)
  | .cas, .p _ | .cas, .s _ | .cas, .nw => none
  | .add, _ | .and, _ | .or, _ | .xor, _ | .minS, _ | .minZ, _ | .maxS, _ | .maxZ, _ | .exch, _ | .fadd, _ => none

/-- ATOM and ATOML (R243, R244). -/
def State.laneAtomic (s : State) (offset : Bool) (i : Instr) (h : LmHdr) (op : AtomOp) (z : MemSize) (d : Dst)
    (lt : BitVec 2) (src : Src) : Out :=
  let dst := RemoteDst.lanes d false lt
  let old := match expectSrc op d with | some a => [a] | none => []
  s.lm h (s.lmFits h [(src, z.words)] d z.words) true (dataRegs src z ++ (old.map (fun a => dataRegs a z)).flatten)
    (d.regs z.words 0) (fun s => (s.marksLoad dst z.words).sign [word0 i]) (fun s p =>
    match checkLanes p (fun n => s.lmCheck offset .atomic .atomic z.bytes (s.laneAddress h.addr n)) with
    | .error x => s.failed x
    | .ok ls =>
      let as := ls.map (fun x =>
        ({ lane := x.1, ptr := s.laneAddress h.addr x.1, land := x.2, operand := s.dataValue src z x.1,
           expect := (old.map (fun a => s.dataValue a z x.1)).headD 0 } : LaneAcc))
      let items := signItems i (as.map (fun a => (a.ptr, chunks z.bytes a.operand)))
      s.atomLanes dst op z.bytes z.words as (fun t =>
        ((t.noteLm h [src] p).sign items).advance 12))

def execLd (h : LmHdr) (size : MemSize) (signed : Bool) (d : Dst) (lt : BitVec 2) (s : State) : Out :=
  s.laneLoad false h size signed d lt

def execSt (h : LmHdr) (size : MemSize) (src : Src) (s : State) : Out := s.laneStore false (.st h size src) h size src

def execAtom (h : LmHdr) (op : AtomOp) (size : MemSize) (d : Dst) (lt : BitVec 2) (src : Src) (s : State) : Out :=
  s.laneAtomic false (.atom h op size d lt src) h op size d lt src

def execLdl (h : LmHdr) (size : MemSize) (signed : Bool) (d : Dst) (lt : BitVec 2) (s : State) : Out :=
  s.laneLoad true h size signed d lt

def execStl (h : LmHdr) (size : MemSize) (src : Src) (s : State) : Out := s.laneStore true (.stl h size src) h size src

def execAtoml (h : LmHdr) (op : AtomOp) (size : MemSize) (d : Dst) (lt : BitVec 2) (src : Src) (s : State) : Out :=
  s.laneAtomic true (.atoml h op size d lt src) h op size d lt src

/-! ### Elements of formatted pages (R240 to R242) -/

/-- A place in the space of `p` at a physical address. -/
def Place.inSpace (p : Place) (a : Nat) : Place :=
  match p with
  | .pool k _ => .pool k a
  | .peerHbm d _ => .peerHbm d a
  | .hbm _ | .scratch _ _ | .window _ _ | .mmio _ _ | .host _ _ | .peerScratch _ _ _ | .peerWindow _ _ _ | .param _ _ =>
    .hbm a

/-- An element that LDF or STF reaches: its landing, its page's format, its scale byte's place, and for T6 the position in
the group. -/
structure ElemAcc where
  ptr : DWord
  land : Landing
  fmt : Nat
  scale : Option Place
  pos : Nat
  deriving DecidableEq, Repr

/-- The element address of a lane (R240): the base and the element index. -/
def State.elemBase (s : State) (a : LaneAddr) (pos : BitVec 2) (n : Nat) : DWord × Int :=
  match a with
  | .base b i _ d => (s.rdP b + d.signExtend 64, (s.src32 i 0 n).toInt + pos.toNat)
  | .pair p d => (s.src64 p 0 n + d.signExtend 64, pos.toNat)

/-- The page entry that a landing's first byte used. -/
def Landing.page (l : Landing) : BitVec 128 := (l.pages.map Prod.snd).headD 0#128

/-- Offset within the page. -/
def Landing.inPage (l : Landing) : Nat := l.o % l.entry.pageBytes

/-- The landing permits elements and its page has a format, which gives the elements their place (R233, R145, R240). -/
def Landing.elemFault (l : Landing) (p : DWord) : Option Fail :=
  match targetFault .element l.type with
  | some k => some (l.fault k p)
  | none => if (formatBytes (pageFormat l.page)).isSome then none else some (l.fault kFormat p)

/-- The place of the scale of element `i` of a page (R146, R241). -/
def Landing.scaleAt (l : Landing) (i : Nat) : Option Place :=
  let g := geomBlock (pageGeom l.page)
  if g = 0 then none else some ((l.bytes.headD (.hbm 0)).inSpace (scaleByte l.page (i / g)))

/-- An uncorrectable scale (R241). -/
def State.checkScale (s : State) (sc : Option Place) (p : DWord) : Option Fail :=
  match sc with
  | none => none
  | some b =>
    if s.ownPoisoned b then some (.fault { FaultInfo.plain kData with pointer := p, whr := sectorWhere b, home := some b })
    else none

/-- Check the element at `base` with index `e` (R147, R236, R240). An STF of a T6 element into a poisoned group raises nothing: the
model takes it as a write (R481), though its home reads the group (log entry 98). -/
def State.checkElem (s : State) (need : Perms) (base : DWord) (e : Int) : Except Fail ElemAcc :=
  match s.translate (s.request need 1) base with
  | .error x => .error (x.fail base)
  | .ok b =>
    match b.elemFault base with
    | some x => .error x
    | none =>
      let fmt := pageFormat b.page
      let finish (l : Landing) (p : DWord) (i pos : Nat) : Except Fail ElemAcc :=
        match targetFault .element l.type with
        | some k => .error (l.fault k p)
        | none =>
          if need.w && s.sealedBytes l.bytes then .error (l.fault kSealedStore p)
          else if formatOk fmt (pageGeom b.page) = false ∨
              l.pages.all (fun m => pageFormat m.2 == fmt && formatOk (pageFormat m.2) (pageGeom m.2)) = false then
            .error (l.fault kFormat p)
          else
            let sc := l.scaleAt i
            match (if need.r then s.checkOwnData l p else .ok l), s.checkScale sc p with
            | .error x, _ => .error x
            | .ok _, some x => .error x
            | .ok _, none => .ok { ptr := p, land := l, fmt := fmt, scale := sc, pos := pos }
      if fmt = 5 then
        let p := base + 3#64 * BitVec.ofInt 64 (e.fdiv 4)
        let pos := (e.fmod 4).toNat
        match s.translate (s.request need 1) p with
        | .error x => .error (x.fail p)
        | .ok l1 =>
          if l1.inPage % 3 ≠ 0 ∨ l1.inPage + 3 > l1.entry.pageBytes then .error (alignFail p)
          else
            match s.translate (s.request need 3) p with
            | .error x => .error (x.fail p)
            | .ok l => finish l p (4 * (l.inPage / 3) + pos) pos
      else
        let w := (formatBytes fmt).getD 1
        let p := base + BitVec.ofNat 64 w * BitVec.ofInt 64 e
        if p.toNat % w ≠ 0 then .error (alignFail p)
        else
          match s.translate (s.request need w) p with
          | .error x => .error (x.fail p)
          | .ok l => finish l p (l.inPage / w) 0

/-- The scale of an element; 127 where the page has no geometry (R148). -/
def State.scaleOf (s : State) (a : ElemAcc) : Nat :=
  match a.scale with
  | some p => (s.ownByte p).toNat
  | none => 127

/-- The register image of an element with its flags (R241). -/
def State.elemImage (s : State) (a : ElemAcc) : Word × BitVec 5 :=
  let x := s.ownValue a.land.bytes
  elementImage a.fmt (if a.fmt = 5 then t6Get x a.pos else x) (s.scaleOf a)

/-- Flags of every lane. -/
def orFlags (fs : List (BitVec 5)) : BitVec 5 := fs.foldl (fun a f => a ||| f) 0#5

def execLdf (h : LmHdr) (pos : BitVec 2) (d : Dst) (lt : BitVec 2) (s : State) : Out :=
  let dst := RemoteDst.lanes d false lt
  s.lm h (s.lmFits h [] d 1) false [] (d.regs 1 0) (fun s => s.marksLoad dst 1) (fun s p =>
    match checkLanes p (fun n => s.checkElem .read (s.elemBase h.addr pos n).1 (s.elemBase h.addr pos n).2) with
    | .error x => s.failed x
    | .ok ls =>
      let places := (ls.map (fun x => x.2.land.bytes ++ x.2.scale.toList)).flatten
      if s.lineBusy places then s.failed (.wait (.drain true))
      else if s.lateAt places ≠ [] then .next (s.again (.board (s.lateAt places)))
      else
        let vs := ls.map (fun x => (x.1, s.elemImage x.2))
        let s1 := s.modG (fun g => g.loaded dst 4 (vs.map (fun v => (v.1, v.2.1.toNat))))
        let s2 := (s1.raiseFp (orFlags (vs.map (fun v => v.2.2)))).countLines (ls.map (fun x => x.2.land.bytes.headD (.hbm 0)))
        .next (((s2.marksLoad dst 1).noteLm h [] p).advance 12))

/-- One T6 element: a read-modify-write of its group at the home (R242). Under Plumb it waits in the store buffer. -/
def State.storeT6 (s : State) (a : ElemAcc) (x : Nat) : State :=
  let g := a.land.bytes
  let pages := a.land.pages.map Prod.fst
  if s.packet.plumb then
    State.modG { s with
      wq := s.wq ++ [{ id := s.nextId, owner := s.g.ref, kind := .elem g a.pos x pages a.land.owner a.land.route,
                       ptrs := pointed g a.ptr, released := false, compared := false }]
      nextId := s.nextId + 1 } (fun h => { h with plumb := { h.plumb with buffered := h.plumb.buffered + g.length } })
  else s.elemThrough g a.pos x pages a.land.owner a.land.route (pointed g a.ptr)

/-- STF (R242). Its items of the store signature are the elements' pointers and values in lane order (16 R404). -/
def execStf (h : LmHdr) (pos : BitVec 2) (src : Src) (s : State) : Out :=
  s.lm h (s.lmFits h [(src, 1)] .nw 0) false (dataRegs src .w) [] (fun s => s.sign [word0 (.stf h pos src)]) (fun s p =>
    match checkLanes p (fun n => s.checkElem .write (s.elemBase h.addr pos n).1 (s.elemBase h.addr pos n).2) with
    | .error x => s.failed x
    | .ok ls =>
      let scales := (ls.map (fun x => x.2.scale.toList)).flatten
      if s.lineBusy scales then s.failed (.wait (.drain true))
      else if s.lateAt scales ≠ [] then .next (s.again (.board (s.lateAt scales)))
      else
        let vs := ls.map (fun x => (x.2, imageElement x.2.fmt (s.dataWord src 1 x.1 0) (s.scaleOf x.2)))
        let t6 := vs.filter (fun v => v.1.fmt == 5)
        let rest := vs.filter (fun v => v.1.fmt != 5)
        s.storeBehind (vs.map (fun v => v.1.land))
          (signItems (.stf h pos src) (vs.map (fun v => (v.1.ptr, [BitVec.ofNat 64 v.2.1]))))
          (fun t => t6.foldl (fun t v => t.storeT6 v.1 v.2.1) (t.storeLanes (rest.map (fun v => (v.1.ptr, v.1.land, v.2.1)))))
          (fun t => ((t.noteLm h [src] p).raiseFp (orFlags (vs.map (fun v => v.2.2)))).advance 12))

/-- PRF moves no data and never faults (R250); a latch that it reads as its index may be invalid (R95). -/
def execPrf (h : LmHdr) (s : State) : Out :=
  s.lm h (s.lmFits h [] .nw 0) false [] [] (fun s => s) (fun s p => .next ((s.noteLm h [] p).advance 12))

end Sys2Proof.Machine
end

