-- ==== Sys2Proof/Machine/Binder.lean ====
section
/-! DEFINITION. Binders (10 R283 to R286) and the binder instructions BIND, UNBIND, ACQ, ACQ.OBS, REL and FENCE (10 R295 to
R302). -/

namespace Sys2Proof.Machine

/-- The 32 bytes of a binder as four 64-bit words, the lowest first (R283). -/
structure Binder where
  w0 : DWord
  w1 : DWord
  w2 : DWord
  w3 : DWord
  deriving DecidableEq, Repr

def Binder.hlaunch (b : Binder) : Word := b.w0.extractLsb' 32 32
def Binder.scope (b : Binder) : Nat := b.w0.toNat % 4
def Binder.count (b : Binder) : Nat := b.w1.toNat / 2 ^ 32
def Binder.acqSeq (b : Binder) : Word := b.w1.extractLsb' 0 32
def Binder.held (b : Binder) : Bool := b.w2.msb
def Binder.regtab (b : Binder) : DWord := b.w3

/-- A bad binder: a reserved bit set, or holder fields without a hold (R285). -/
def Binder.bad (b : Binder) : Bool :=
  b.w0.extractLsb' 2 30 != 0#30 || b.w2.extractLsb' 0 17 != 0#17 ||
    (!b.held && (b.hlaunch != 0#32 || b.w2.extractLsb' 17 46 != 0#46))

/-- COUNT replaced (R217, R221). -/
def Binder.setCount (b : Binder) (n : Nat) : Binder := { b with w1 := BitVec.ofNat 32 n ++ b.acqSeq }

/-- The hold given up (R300). -/
def Binder.free (b : Binder) : Binder := { b with w0 := 0#32 ++ b.w0.extractLsb' 0 32, w2 := 0#64 }

/-- The holder word of a gang: HELD, HDEV, HIFACE, HCREW, HGANG (R283). -/
def State.holderWord (s : State) (r : GangRef) : DWord :=
  1#1 ++ BitVec.ofNat 12 s.pkg.device ++ BitVec.ofNat 6 (s.ifaceOf r.launch) ++ BitVec.ofNat 24 r.crew ++
    BitVec.ofNat 4 r.gang ++ 0#17

/-- The gang holds the binder (R283). -/
def State.holds (s : State) (r : GangRef) (b : Binder) : Bool :=
  b.held && b.w2 == s.holderWord r && b.hlaunch == BitVec.ofNat 32 r.launch

/-- Taken by a gang (R299). -/
def State.taken (s : State) (r : GangRef) (b : Binder) : Binder :=
  { b with
    w0 := BitVec.ofNat 32 r.launch ++ b.w0.extractLsb' 0 32
    w1 := b.w1.extractLsb' 32 32 ++ (b.acqSeq + 1#32)
    w2 := s.holderWord r }

/-! ### A binder at its home (R286) -/

/-- Word `i` of some bytes at their home. -/
def State.homeWord (s : State) (ps : List Place) (i : Nat) : DWord :=
  BitVec.ofNat 64 (leValue (((ps.drop (8 * i)).take 8).map s.homeByte))

def State.binderAt (s : State) (ps : List Place) : Binder :=
  { w0 := s.homeWord ps 0, w1 := s.homeWord ps 1, w2 := s.homeWord ps 2, w3 := s.homeWord ps 3 }

/-- The value of a binder's bytes. -/
def Binder.value (b : Binder) : Nat := (b.w3 ++ b.w2 ++ b.w1 ++ b.w0).toNat

/-- Store bytes at their home, in a step of gang `r`; `pages` are the page-map entries that the access used. -/
def State.putAt (s : State) (r : GangRef) (bytes : List Place) (pages : List Nat) (v : Nat) : State :=
  (s.noteReplay r bytes).performBytes r (placed bytes v) pages

/-- A step on a binder or table whose home is another device goes there in an ATOMIC flit on the relay path (18 R438); what the home
holds, and so the flit's effect there, is not in this device's state (log entry 38). -/
def State.sendStep (s : State) (bytes : List Place) (route : Nat × DWord) (v : Nat) : State :=
  match bytes.head?.bind Place.remote with
  | none => s
  | some d =>
    let o : OutFlit := { flit := s.flit d .atomic false route (leBytes bytes.length v) s.nextId, owner := none, mcast := none }
    { s with nextId := s.nextId + 1, fab := { s.fab with transit := s.fab.transit ++ [o] } }

def State.putHome (s : State) (r : GangRef) (l : Landing) (v : Nat) : State :=
  (s.putAt r l.bytes (l.pages.map Prod.fst) v).sendStep l.bytes l.route v

def State.setBinder (s : State) (r : GangRef) (l : Landing) (b : Binder) : State := s.putHome r l b.value

/-- The checks of R285 in their order; own writes to the bytes come first (R77, R441). A step at another device waits until the relay
reserve has room for its flit (18 R440). -/
def State.checkHome (s : State) (need : Perms) (op : TargetOp) (n align : Nat) (p : DWord) : Except Fail (State × Landing) :=
  match s.checkAt (s.request need n) op align p with
  | .error x => .error x
  | .ok l =>
    if l.device?.isSome && s.egressFull 1 then .error (.wait .egress)
    else if s.lineBusy l.bytes then .error (.wait (.drain true))
    else .ok (s.flushTo s.g.ref l.bytes, l)

/-- A binder instruction's binder (R285). -/
def State.withBinder (s : State) (need : Perms) (p : DWord) (k : State → Landing → Binder → Out) : Out :=
  match s.checkHome need .atomic 32 32 p with
  | .error x => s.failed x
  | .ok (t, l) => k t l (t.binderAt l.bytes)

/-! ### Results of SY instructions -/

/-- Write the result register and end the instruction; a twin receives the result (R406). -/
def State.syDone (s : State) (t : SReg) (v : Word) : Out := .next (((s.wr t v).sendTwin [v.setWidth 64]).advance 12)

/-- An SY instruction whose result a Plumb secondary takes from its primary (R303, R406). -/
def State.sy (s : State) (t : SReg) (body : State → Out) : Out :=
  if s.isSecondary then s.fromTwin (fun s vs => .next ((s.wr t ((vs.headD 0#64).extractLsb' 0 32)).advance 12))
  else body s

/-! ### Region tables (R284) -/

/-- An entry: its base and length. -/
def tableEntry (v i : Nat) : DWord × Nat := (BitVec.ofNat 64 (v / 2 ^ (128 * i + 64)), v / 2 ^ (128 * i) % 2 ^ 40)

/-- The regions that a table binds, by first and last pointer; one that would wrap ends at the last pointer (R284). -/
def regionsOf (v : Nat) : List (DWord × DWord) :=
  ((List.range 6).map (tableEntry v)).filterMap (fun e =>
    if e.2 = 0 then none else some (e.1, BitVec.ofNat 64 (min (e.1.toNat + e.2 - 1) (2 ^ 64 - 1))))

/-- The lowest entry that `p` accepts. -/
def findEntry (v : Nat) (p : DWord × Nat → Bool) : Option Nat := (List.range 6).find? (fun i => p (tableEntry v i))

/-- The table with entry `i` replaced by a 128-bit value. -/
def setTableEntry (v i new : Nat) : Nat :=
  v - (v / 2 ^ (128 * i) % 2 ^ 128) * 2 ^ (128 * i) + new * 2 ^ (128 * i)

/-- The region table, for reading or for reading and writing (R285). -/
def State.withTable (s : State) (need : Perms) (b : Binder) (k : State → Landing → Nat → Out) : Out :=
  match s.checkHome need .atomic 96 16 b.regtab with
  | .error x => s.failed x
  | .ok (t, l) => k t l (leValue (l.bytes.map t.homeByte))

/-- The regions that a release of the binder covers (R284, R287): none without a table. -/
def State.withRegions (s : State) (b : Binder) (k : State → List (DWord × DWord) → Out) : Out :=
  if b.regtab = 0#64 then k s [] else s.withTable .read b (fun s _ v => k s (regionsOf v))

/-! ### BIND, UNBIND (R297, R298) -/

def execBind (t : SReg) (x y z : Pair) (s : State) : Out :=
  s.issue (.switching (pairRegs x ++ pairRegs y ++ pairRegs z) [.s t]) (fun s => s.sy t (fun s =>
    s.withBinder .atomic (s.rdP x) (fun s _ b =>
      if b.bad then s.syDone t 0x105#32
      else if b.held ∧ s.holds s.g.ref b = false then s.syDone t 0x101#32
      else if b.regtab = 0#64 then s.syDone t 0x102#32
      else if s.rdP z = 0#64 ∨ (s.rdP z).toNat ≥ 2 ^ 40 then s.syDone t 0x103#32
      else
        s.withTable .readWrite b (fun s l v =>
          match findEntry v (fun e => e.2 == 0) with
          | none => s.syDone t 0x100#32
          | some i =>
            (s.putHome s.g.ref l (setTableEntry v i ((s.rdP y).toNat * 2 ^ 64 + (s.rdP z).toNat))).syDone t
              (BitVec.ofNat 32 i)))))

def execUnbind (t : SReg) (x y : Pair) (s : State) : Out :=
  s.issue (.switching (pairRegs x ++ pairRegs y) [.s t]) (fun s => s.sy t (fun s =>
    s.withBinder .atomic (s.rdP x) (fun s _ b =>
      if b.bad then s.syDone t 0x105#32
      else if b.held ∧ s.holds s.g.ref b = false then s.syDone t 0x101#32
      else if b.regtab = 0#64 then s.syDone t 0x102#32
      else
        s.withTable .readWrite b (fun s l v =>
          match findEntry v (fun e => e.2 != 0 && e.1 == s.rdP y) with
          | none => s.syDone t 0x104#32
          | some i =>
            (s.putHome s.g.ref l (setTableEntry v i ((v / 2 ^ (128 * i) % 2 ^ 128) / 2 ^ 40 * 2 ^ 40))).syDone t
              (BitVec.ofNat 32 i)))))

/-! ### ACQ (R299) -/

/-- The home of the binder that a waiting gang's ACQ names; a binder in the allocation of a saved crew has none. -/
def State.acqHome (s : State) (h : Gang) : Option Place :=
  match h.sch.run with
  | .acq _ x _ _ =>
    (match ({ s with g := h }).checkAt (({ s with g := h }).request .atomic 32) .atomic 32 (h.rdP x) with
     | .ok l => if l.type = tCrew ∧ (s.crew? h.ref.crewRef).any (fun c => c.site.isResident) = false then none else l.bytes.head?
     | .error _ => none)
  | _ => none

/-- An ACQ that reached the binder's home earlier still waits there (R299). One of a crew that is saved keeps its place (log entry
99). -/
def State.acqBefore (s : State) (l : Landing) (order : Nat) : Bool :=
  s.allGangs.any (fun h => match h.sch.run with
    | .acq _ _ _ o => decide (o < order) && s.acqHome h == l.bytes.head?
    | _ => false)

/-- One step of ACQ at the home of its binder: a result, or none while it must wait. -/
def State.acqStep (s : State) (l : Landing) (b : Binder) (order : Nat) : Option (Word × State) :=
  if b.bad then some (0x105#32, s)
  else if s.g.held.length ≥ 16 then some (3#32, s)
  else if s.holds s.g.ref b then some (2#32, s)
  else if b.held = false ∧ s.acqBefore l order = false then
    some (0#32, (s.setBinder s.g.ref l (s.taken s.g.ref b)).modG (fun g => { g with held := g.held ++ l.bytes.head?.toList }))
  else none

/-- A time-out pair's deadline in the time view (R221, R299). -/
def State.deadline (s : State) (timeout : Option Pair) : Option Nat :=
  timeout.map (fun p => (s.view s.myIface).toNat + (s.rdP p).toNat)

/-- The time view has reached a deadline. -/
def State.passed (s : State) (deadline : Option Nat) : Bool :=
  match deadline with
  | some d => decide (d ≤ (s.view s.myIface).toNat)
  | none => false

/-- The registers of an optional pair. -/
def optRegs (p : Option Pair) : List RegRef :=
  match p with
  | some q => pairRegs q
  | none => []

def execAcq (t : SReg) (x : Pair) (timeout : Option Pair) (s : State) : Out :=
  s.issue (.switching (pairRegs x ++ optRegs timeout) [.s t]) (fun s => s.sy t (fun s =>
    s.withBinder .atomic (s.rdP x) (fun s l b =>
      let deadline := s.deadline timeout
      match s.acqStep l b s.nextId with
      | some (v, s1) => s1.syDone t v
      | none =>
        if s.passed deadline then s.syDone t 1#32
        else .next ({ s with nextId := s.nextId + 1 }.again (.acq t x deadline s.nextId)))))

def execAcqObs (t : SReg) (x : Pair) (s : State) : Out :=
  s.issue (.switching (pairRegs x) [.s t]) (fun s => s.sy t (fun s =>
    s.withBinder .read (s.rdP x) (fun s _ b =>
      s.syDone t (if b.bad then 0x105#32 else if b.held = false then 0#32 else if s.holds s.g.ref b then 2#32 else 0x010#32))))

/-- End a wait of gang `r` inside its instruction with result `v`. -/
def State.endWait (s : State) (t : SReg) (v : Word) : State :=
  let s1 := ((s.wr t v).sendTwin [v.setWidth 64]).advance 12
  s1.modG (fun g =>
    { g with sch := { g.sch with run := .ready, reissue := false }, plumb := { g.plumb with passed := false } })

/-- What a gang is doing. -/
def State.runOf (s : State) (g : GangRef) : Run :=
  match s.gang? g with
  | some h => h.sch.run
  | none => .ended

/-- The gang's crew is on its core and its launch not halted: a wait of a saved crew goes on at its resumption only, and one of a halted
launch, which is saved as it stands, at RUN (07 R222, R303, 20 R477). -/
def State.mayGoOn (s : State) (g : GangRef) : Bool :=
  (match s.crew? g.crewRef with
   | some c => c.site.isResident
   | none => false) &&
    (match s.launch? g.launch with
     | some l => !l.halted
     | none => true)

/-- A waiting ACQ tries again at the home (R299); `late` is what it does when it must still wait. Its binder is checked again: a refusal
is its precise fault then (log entry 99). -/
def State.acqAgain (s : State) (t : SReg) (x : Pair) (order : Nat) (late : State → State) : State :=
  match s.checkHome .atomic .atomic 32 32 (s.rdP x) with
  | .error (.fault f) => s.raise f
  | .error (.wait _) => s
  | .ok (s, l) =>
    match s.acqStep l (s.binderAt l.bytes) order with
    | some (v, s1) => s1.endWait t v
    | none => late s

/-- ACQ_RETRY (R299). -/
def execAcqRetry (g : GangRef) (s : State) : Out :=
  match s.runOf g with
  | .acq t x _ order =>
    if s.mayGoOn g = false then .next s else .next (s.asGang g (fun s => s.acqAgain t x order id))
  | _ => .next s

/-- ACQ_TIMEOUT: the deadline has passed; a binder that is free by then is still acquired (R299). -/
def execAcqTimeout (g : GangRef) (s : State) : Out :=
  match s.runOf g with
  | .acq t x deadline order =>
    if s.mayGoOn g = false then .next s
    else .next (s.asGang g (fun s => if s.passed deadline then s.acqAgain t x order (fun s => s.endWait t 1#32) else s))
  | _ => .next s

/-! ### REL and FENCE (R300, R301, R484) -/

/-- Every earlier access of the gang is performed; with `remote`, on other devices too (R301). -/
def State.accessesDone (s : State) (r : GangRef) (remote : Bool) : Bool :=
  s.writesDone r remote && s.ops.all (fun o => o.owner != r || (match o.kind with
    | .remoteLoad _ _ _ _ _ _ _ => !remote
    | .localLoad _ _ _ _ => false
    | _ => true))

/-- Wait for earlier accesses, sending what the coalescer holds (R437), before `k`. -/
def State.drainThen (s : State) (remote : Bool) (k : State → Out) : Out :=
  let s1 := if remote then s.flushCoalescer else s
  if s1.accessesDone s1.g.ref remote then k s1 else .next (s1.again (.drain remote))

/-- Wait until a release of all memory may be made, and make it (R287). -/
def State.releaseThen (s : State) (k : State → Out) : Out :=
  if s.allPerformed s.g.ref then k (s.markReleased s.g.ref) else .next (s.again (.drain false))

/-- A release of this binder waits for remote writes (R290, R300). -/
def Binder.releasesRemote (b : Binder) (l : Landing) : Bool := b.scope == 3 || l.device?.isSome

/-- The hold is given up (R300). -/
def State.giveUp (s : State) (bytes : List Place) (pages : List Nat) (route : Nat × DWord) : State :=
  let v := (s.binderAt bytes).free.value
  ((s.putAt s.g.ref bytes pages v).sendStep bytes route v).modG
    (fun g => { g with held := g.held.filter (fun p => some p != bytes.head?) })

/-- Report and forget the discarded remote writes that `p` selects (R484). -/
def State.reportDiscarded (s : State) (p : RemoteOp → Bool) : Bool × State :=
  (s.g.discarded.any p, s.modG (fun g => { g with discarded := g.discarded.filter (fun o => !p o) }))

/-- COUNT grows and saturates (07 R195, R217). -/
def Binder.add (b : Binder) (n : Nat) : Binder := b.setCount (min (b.count + n) 0xFFFFFFFF)

/-- The release of a landing's binder at pointer `p`, with SEMP's addend or none for REL. -/
def Binder.releasing (b : Binder) (t : SReg) (p : DWord) (l : Landing) (regions : List (DWord × DWord)) (add : Option Word) :
    Releasing :=
  { t := t, bytes := l.bytes, pages := l.pages.map Prod.fst, regions := regions, remote := b.releasesRemote l, add := add, ptr := p,
    route := l.route }

/-- The home of the binder is on a device that is no longer reachable. -/
def State.homeLost (s : State) (x : Releasing) : Bool :=
  match x.bytes.head?.bind Place.remote with
  | some d => d < 4096 && !s.fab.reach.contains d
  | none => false

/-- The step of REL or SEMP at the binder's home, once its wait is over: the result (07 R217, R300, R484). A REL whose binder's home
is lost by then reports it as a discarded write (R303). -/
def State.releaseStep (s : State) (x : Releasing) : Word × State :=
  let s0 := s.markReleased s.g.ref
  match x.add with
  | some n =>
    let b := s0.binderAt x.bytes
    let v := (b.add n.toNat).value
    (BitVec.ofNat 32 b.count, (s0.putAt s0.g.ref x.bytes x.pages v).sendStep x.bytes x.route v)
  | none =>
    let (lost, s1) := if x.remote then s0.reportDiscarded (fun _ => true) else (false, s0)
    (if lost || s.homeLost x then 0x130#32 else 0#32, s1.giveUp x.bytes x.pages x.route)

/-- SEMP meets a home that is no longer reachable at its step (07 R217, R285): the fault of its access. -/
def State.releaseFails (s : State) (x : Releasing) : Option FaultInfo :=
  if x.add.isSome ∧ s.homeLost x = true then
    (match s.checkAt (s.request .atomic 32) .atomic 32 x.ptr with
     | .error (.fault f) => some f
     | .error (.wait _) | .ok _ => some { FaultInfo.plain kPeer with pointer := x.ptr })
  else none

/-- REL or SEMP past its checks: what it releases is performed first, and what the coalescer holds is sent (18 R437). -/
def State.release (s : State) (x : Releasing) : Out :=
  let s1 := if x.remote then s.flushCoalescer else s
  if s1.relDone s1.g.ref x.regions x.remote then
    let r := s1.releaseStep x
    r.2.syDone x.t r.1
  else .next (s1.again (.release x))

/-- REL and SEMP end when what they release is performed (07 R217, R300). -/
def State.settleReleases (s : State) : State :=
  s.allGangs.foldl
    (fun s h => match h.sch.run with
      | .release x =>
        if s.relDone h.ref x.regions x.remote then
          s.asGang h.ref (fun s =>
            match s.releaseFails x with
            | some f => s.raise f
            | none =>
              let r := s.releaseStep x
              r.2.endWait x.t r.1)
        else s
      | _ => s) s

def execRel (t : SReg) (x : Pair) (s : State) : Out :=
  s.issue (.comparing (pairRegs x) [.s t]) (fun s => s.sy t (fun s =>
    s.withBinder .atomic (s.rdP x) (fun s l b =>
      if b.bad then s.syDone t 0x105#32
      else if s.holds s.g.ref b = false then s.syDone t 0x101#32
      else s.withRegions b (fun s regions => s.release (b.releasing t (s.rdP x) l regions none)))))

/-- FENCE: the scope limits whom R293 binds, and SYSTEM alone waits for other devices (R301). -/
def execFence (scope : Scope) (s : State) : Out :=
  s.issue (.comparing [] []) (fun s => s.drainThen (scope == .system) (fun s => .next (s.advance 12)))

end Sys2Proof.Machine
end

