-- ==== Sys2Proof/Machine/Entry.lean ====
section
/-! DEFINITION. The state in which a gang enters (02 R44, R48, 03 R86 to R90, R100, 07 R210, 14 R360, 16 R412). -/

namespace Sys2Proof.Machine

/-- The crew's scratchpad base pointer and the parameter pointer (R189, R227). -/
def basePointer : DWord := 0x7FFC000000000000#64
def paramPointer : DWord := 0x7FF8000000000000#64

/-- The lanes that exist in a gang (R86). -/
def existingLanes (p : Packet) (gang : Nat) : LaneMask :=
  if gang + 1 = p.gangs then BitVec.ofNat 96 (2 ^ p.lastLanes - 1) else ~~~ 0#96

/-- Gangs that each stage is given (R210). -/
def stageCounts (gangs : Nat) (ss : List Stage) : List Nat :=
  let left := gangs - (ss.map Stage.minGangs).sum
  (ss.foldl
    (fun (acc : List Nat × Nat) t =>
      let extra := min acc.2 (t.maxGangs - t.minGangs)
      (acc.1 ++ [t.minGangs + extra], acc.2 - extra)) ([], left)).1

/-- The stage of a gang at placement: the first gangs take stage 0, the next stage 1, and so on (R210). -/
def stageOfGang : List Nat → Nat → Nat
  | [], _ => 0
  | n :: r, g => if g < n then 0 else 1 + stageOfGang r (g - n)

/-- The entry PC of a stage, or of the launch (R44). -/
def Launch.entryPc (l : Launch) (stage : Nat) : DWord :=
  match l.stageList[stage]? with
  | some t => if l.packet.staged then t.entry else l.packet.code
  | none => l.packet.code

/-- The bands in a gang's slots, in ascending number (R100). -/
def Launch.bandsOf (l : Launch) (crew gang : Nat) : List Nat :=
  (List.range l.bandList.length).filter (fun b => match l.bandList[b]? with
    | some x => x.members.contains (crew, gang)
    | none => false)

/-- Registers at entry, by number (R44). -/
def entryReg (l : Launch) (crew gang : Nat) (live : LaneMask) (r : Nat) : Word :=
  match r with
  | 2 => paramPointer.extractLsb' 0 32
  | 3 => paramPointer.extractLsb' 32 32
  | 4 => BitVec.ofNat 32 crew
  | 5 => BitVec.ofNat 32 gang
  | 6 => BitVec.ofNat 32 l.packet.crews
  | 7 => BitVec.ofNat 32 l.packet.gangs
  | 56 => live.extractLsb' 0 32
  | 57 => live.extractLsb' 32 32
  | 58 => live.extractLsb' 64 32
  | 60 => basePointer.extractLsb' 0 32
  | 61 => basePointer.extractLsb' 32 32
  | _ => 0#32

/-- Scalar registers at entry. -/
def entryRegs (l : Launch) (crew gang : Nat) (live : LaneMask) : Vector Word 64 :=
  Vector.ofFn (fun (i : Fin 64) => entryReg l crew gang live i.val)

/-- The lineage of a slot at entry: ORIGIN is %pidx modulo 2^24 (R360). -/
def entryLineage (l : Launch) (crew gang : Nat) : Lane64 :=
  Vector.ofFn (fun (i : Fin 96) => BitVec.ofNat 64 (((crew * l.packet.gangs + gang) * 96 + i.val) % 2 ^ 24 * 2 ^ 24))

/-- A gang at entry, on this pipe, not yet released when its launch waits for START (R208). -/
def entryGang (l : Launch) (r : GangRef) (counts : List Nat) (age pipe : Nat) : Gang :=
  let live := existingLanes l.packet r.gang
  let stage := stageOfGang counts r.gang
  { Gang.reset with
    ref := r
    sc := { Scalars.reset with regs := entryRegs l r.crew r.gang live, pc := l.entryPc stage }
    la := { Lanes.reset with present := live, live := live, lineage := entryLineage l r.crew r.gang }
    sch := { Sched.reset with run := .ready, age := age, pipe := pipe }
    bands := l.bandsOf r.crew r.gang
    stage := stage }

/-- The half that a gang's fetches use, when its entry PC reaches a SHADOWED HBM landing (R412), whether its page can be read yet or
not. -/
def State.fetchHalfOf (s : State) (g : Gang) : Option (EntryKey × Bool) :=
  let iface := s.ifaceOf g.ref.launch
  let req : Req :=
    { iface := iface, launch := g.ref.launch, core := s.coreOf g.ref.crewRef, base := 0, alloc := 0, twin := g.ref.twin,
      need := .fetch, size := 4, shadow := false, half := none }
  let w := Walk.start (req.core / 160) iface (ptrLabels g.sc.pc) (ptrOffset g.sc.pc)
  match { s with quiesces := [] }.locate req 12 w with
  | some (.ok (v, e)) =>
    if e.hop.toNat = tHbm ∧ v.lv = lvD ∧ e.shadowed then some (v.key (v.labels.headD 0), e.sel) else none
  | some (.error _) | none => none

/-- A crew before its first placement (R84, R386). -/
def freshCrew (r : CrewRef) : Crew :=
  { ref := r, site := .unplaced, savedBytes := [], savedPoison := [], stageCounts := [], drainEst := 0#64, saves := 0, resident := 0,
    arrays := Vector.replicate 4 .reset, usedMatrix := false, holdsArrays := false, preempt := .no, placedOnce := false }

/-- The population state at admission (R361). -/
def Packet.population (p : Packet) : Option Population :=
  if p.isPopulation then some { pend := false, pval := 0#32, serial := 0, ctr := p.seed.setWidth 128 } else none

/-- A launch as it is admitted (R194, R42, R361). -/
def freshLaunch (seq iface queue slot : Nat) (graph : Option (Nat × Nat)) (p : Packet) : Launch :=
  { seq := seq, iface := iface, queue := queue, slot := slot, graph := graph, packet := p, phase := .running, nextCrew := 0,
    err := .reset, firstKill := none, params := [], bandList := [], stageList := [],
    population := p.population, sieved := [],
    watch := 0, started := !p.timed, halted := false, dump := none, snapshot := none, journal := [],
    turn := 0 }

end Sys2Proof.Machine
end

