-- ==== Sys2Proof/Machine/Sync.lean ====
section
/-! DEFINITION. BAR, SEMP, WAIT, stage rings and the stage move (07 R212 to R221, R482), SEAL and UNSEAL (08 R252). -/

namespace Sys2Proof.Machine

/-! ### BAR (R216) -/

/-- The band in a slot of the issuing gang, and whether it lies in one crew (R100). -/
def State.bandIn (s : State) (slot : Nat) : Option (Nat × Bool) :=
  match s.g.bands[slot]? with
  | none => none
  | some b =>
    match s.myLaunch? with
    | none => none
    | some l =>
      match l.bandList[b]? with
      | some x => some (b, x.oneCrew)
      | none => none

/-- Arrive at a band (R216). -/
def State.arriveBand (s : State) (b : Nat) : State :=
  s.modLaunch s.g.ref.launch (fun l => { l with bandList := l.bandList.modify b (fun x =>
    { x with arrived := x.arrived ++ [(s.g.ref.crew, s.g.ref.gang)] }) })

/-- A Plumb primary gives its next value a number that its twin knows (R406). -/
def State.reserveSerial (s : State) : State :=
  if s.packet.plumb then s.modG (fun g => { g with plumb := { g.plumb with serial := g.plumb.serial + 1 } }) else s

def execBar (t : SReg) (k : BitVec 2) (s : State) : Out :=
  match s.bandIn k.toNat with
  | none => .next (s.kill .context)
  | some (b, _) =>
    s.issue (.comparing [] [.s t]) (fun s => s.sy t (fun s =>
      s.releaseThen (fun s =>
        .next (((s.reserveSerial.arriveBand b).setRun (.band t k.toNat)).settleBands s.g.ref.launch))))

/-! ### SEMP (R217) -/

def execSemp (t : SReg) (x : Pair) (y : SReg) (s : State) : Out :=
  s.issue (.comparing (pairRegs x ++ [.s y]) [.s t]) (fun s => s.sy t (fun s =>
    s.withBinder .atomic (s.rdP x) (fun s l b =>
      s.withRegions b (fun s regions => s.release (b.releasing t (s.rdP x) l regions (some (s.rd y)))))))

/-! ### Stage rings (R212, R218) -/

/-- A stage ring's header (R212). -/
structure RingHeader where
  raw : BitVec 128
  deriving DecidableEq, Repr

def RingHeader.cap (h : RingHeader) : Nat := (h.raw.extractLsb' 0 4).toNat
def RingHeader.high (h : RingHeader) : Nat := (h.raw.extractLsb' 32 12).toNat
def RingHeader.head (h : RingHeader) : Nat := (h.raw.extractLsb' 64 16).toNat
def RingHeader.tail (h : RingHeader) : Nat := (h.raw.extractLsb' 96 16).toNat
def RingHeader.size (h : RingHeader) : Nat := 2 ^ h.cap

def RingHeader.bad (h : RingHeader) : Bool :=
  h.cap > 10 || h.high > h.size || h.head ≥ 2 * h.size || h.tail ≥ 2 * h.size ||
    h.raw.extractLsb' 4 28 != 0#28 || h.raw.extractLsb' 44 20 != 0#20 || h.raw.extractLsb' 80 16 != 0#16 ||
    h.raw.extractLsb' 112 16 != 0#16

def RingHeader.closed (h : RingHeader) : Bool := h.cap == 0
def RingHeader.empty (h : RingHeader) : Bool := h.head == h.tail
def RingHeader.occupancy (h : RingHeader) : Nat := (h.tail + 2 * h.size - h.head) % (2 * h.size)
def RingHeader.full (h : RingHeader) : Bool := h.occupancy == h.size

/-- A closed or bad ring is never above its high mark (R212). -/
def RingHeader.aboveHigh (h : RingHeader) : Bool := !h.bad && !h.closed && h.occupancy > h.high

/-- The stages of the issuing gang's launch. -/
def State.stages (s : State) : List Stage :=
  match s.myLaunch? with
  | some l => l.stageList
  | none => []

/-- The offset of a stage's ring header. -/
def State.ringAt (s : State) (k : Nat) : Nat :=
  match s.stages[k]? with
  | some x => x.ring
  | none => 0

/-- A checked access to the crew's allocation for a ring, with the gang's own writes to it performed. -/
def State.ringAccess (s : State) (read : Bool) (n off : Nat) : Except Fail (State × Landing) :=
  match s.checkOffset read n 1 off with
  | .error x => .error x
  | .ok l => .ok (s.flushTo s.g.ref l.bytes, l)

/-- The header of stage `k`'s ring. -/
def State.withRing (s : State) (k : Nat) (body : State → Landing → RingHeader → Out) : Out :=
  match s.ringAccess true 16 (s.ringAt k) with
  | .error x => s.failed x
  | .ok (t, l) => body t l { raw := BitVec.ofNat 128 (leValue (l.bytes.map t.homeByte)) }

/-- The header as it stands, for tests that raise nothing: WAIT's RNEMPTY and RNFULL, and the other stages' rings at a stage move. One
that holds uncorrectable data is read as it stands (log entry 100). -/
def State.ringNow (s : State) (k : Nat) : RingHeader :=
  { raw := BitVec.ofNat 128 (leValue (((Place.scratch s.myCore (s.myBase + s.ringAt k)).run 16).map s.ownByte)) }

/-- The offset of a slot. -/
def State.slotAt (s : State) (k : Nat) (h : RingHeader) (i : Nat) : Nat := s.ringAt k + 16 + 8 * (i % h.size)

/-- The next value of HEAD or TAIL. -/
def RingHeader.step (h : RingHeader) (v : Nat) : Nat := (v + 1) % (2 * h.size)

/-- A ring operation's outcome. Each Plumb copy acts on its own crew's ring (R407). -/
def State.ringDone (s : State) (t : SReg) (v : Word) : Out := .next ((s.wr t v).advance 12)

def execRpush (t : SReg) (k : BitVec 2) (x : Pair) (s : State) : Out :=
  if s.packet.staged = false ∨ s.stages.length ≤ k.toNat then .next (s.kill .context)
  else
    s.issue (.comparing (pairRegs x) [.s t]) (fun s =>
      s.releaseThen (fun s =>
        s.withRing k.toNat (fun s l h =>
          if h.bad then s.ringDone t 2#32
          else if h.closed ∨ h.full then s.ringDone t 1#32
          else
            match s.ringAccess false 8 (s.slotAt k.toNat h h.tail) with
            | .error f => s.failed f
            | .ok (s, slot) =>
              let raw := BitVec.ofNat 16 0 ++ BitVec.ofNat 16 (h.step h.tail) ++ h.raw.extractLsb' 0 96
              ((s.putHome s.g.ref slot (s.rdP x).toNat).putHome s.g.ref l raw.toNat).ringDone t 0#32)))

/-- A gang that is free to move (R219). -/
def Gang.freeToMove (g : Gang) : Bool := g.held.isEmpty && g.txn.isNone && !g.sc.handler

/-- The issuing gang is free to move. A Plumb secondary holds what its primary holds (16 R406, R408). -/
def State.freeToMove (s : State) : Bool :=
  s.g.freeToMove && (!s.isSecondary || (match s.gang? s.g.ref.other with
    | some p => p.held.isEmpty && p.txn.isNone
    | none => true))

/-- The stage that the gang moves to (R219): the greatest excess over the high mark, the lowest index on a tie. -/
def State.moveTarget (s : State) (counts : List Nat) : Option Nat :=
  let own := s.g.stage
  let n (j : Nat) : Nat := counts.getD j 0
  let minOf (j : Nat) : Nat := match s.stages[j]? with | some x => x.minGangs | none => 0
  let maxOf (j : Nat) : Nat := match s.stages[j]? with | some x => x.maxGangs | none => 0
  let cand := (List.range s.stages.length).filter (fun j =>
    j != own && (s.ringNow j).aboveHigh && n j < maxOf j && n own > minOf own)
  let excess (j : Nat) : Nat := (s.ringNow j).occupancy - (s.ringNow j).high
  cand.foldl (fun (best : Option Nat) j => match best with
    | none => some j
    | some b => if excess j > excess b then some j else best) none

/-- Restart the issuing gang at a stage's entry (R219). -/
def State.stageMove (s : State) (j : Nat) : State :=
  match s.myLaunch? with
  | none => s
  | some l =>
    let own := s.g.stage
    let moved (ns : List Nat) : List Nat := (ns.modify own (fun n => n - 1)).modify j (fun n => n + 1)
    let s1 := s.modCrew s.g.ref.crewRef (fun c => { c with stageCounts := moved c.stageCounts })
    let s2 := s1.modG (fun g =>
      { g with
        sc := { Scalars.reset with
          regs := entryRegs l g.ref.crew g.ref.gang g.la.live
          pc := l.entryPc j
          fpFlags := g.sc.fpFlags
          divZero := g.sc.divZero
          latchLost := g.sc.latchLost
          tvec := g.sc.tvec }
        la := { Lanes.reset with present := g.la.present, live := g.la.live, lineage := g.la.lineage }
        bd := .reset
        stage := j })
    s2.modG (fun g => { g with fetchHalf := s2.fetchHalfOf g })

/-- Every earlier operation of the gang has completed, as a save waits for it (R219, R391). -/
def State.quiet (s : State) (r : GangRef) : Bool :=
  s.accessesDone r true && s.ops.all (fun o => o.owner != r) &&
    (match s.gang? r with | some h => h.bd.pending.isEmpty | none => true)

def execRtake (t : SReg) (x : Pair) (s : State) : Out :=
  if s.packet.staged = false then .next (s.kill .context)
  else
    s.issue (.switching [] (.s t :: pairRegs x)) (fun s =>
      let s := s.flushCoalescer
      if s.quiet s.g.ref = false then .next (s.again (.drain true))
      else
        s.withRing s.g.stage (fun s l h =>
          if h.bad then s.ringDone t 2#32
          else if h.closed then s.ringDone t 1#32
          else if h.empty then
            let counts := match s.myCrew? with | some c => c.stageCounts | none => []
            match (if s.freeToMove then s.moveTarget counts else none) with
            | some j => .next (s.stageMove j)
            | none => s.ringDone t 1#32
          else
            match s.ringAccess true 8 (s.slotAt s.g.stage h h.head) with
            | .error f => s.failed f
            | .ok (s, slot) =>
              let v := BitVec.ofNat 64 (leValue (slot.bytes.map s.homeByte))
              let raw := h.raw.extractLsb' 80 48 ++ BitVec.ofNat 16 (h.step h.head) ++ h.raw.extractLsb' 0 64
              ((s.putHome s.g.ref l raw.toNat).wrP x v).ringDone t 0#32))

/-! ### WAIT (R220, R221, R482) -/

/-- The conditions of WAIT in order. -/
def waitConds (w : WaitSpec) : List WaitCond := [w.c0, w.c1, w.c2, w.c3]

/-- Registers that a condition reads: a TOKEN condition reads none (R93). -/
def condRegs (c : WaitCond) : List RegRef :=
  match c with
  | .sem p _ | .time p | .bphase p _ => pairRegs p
  | .unused | .token _ | .rnEmpty _ | .rnFull _ => []

/-- A stage that a condition names and that the launch lacks (R220). -/
def State.condIllegal (s : State) (c : WaitCond) : Bool :=
  match c with
  | .rnEmpty k | .rnFull k => !s.packet.staged || s.stages.length ≤ k.toNat
  | .unused | .token _ | .sem _ _ | .time _ | .bphase _ _ => false

/-- A condition's home, checked (R482). -/
def State.condHome (s : State) (consume : Bool) (c : WaitCond) : Except Fail (Option Landing) :=
  match c with
  | .sem p _ =>
    (match s.checkAt (s.request (if consume then .atomic else .read) 32) (if consume then .atomic else .load) 32 (s.rdP p) with
     | .error x => .error x
     | .ok l => .ok (some l))
  | .bphase p _ =>
    (match s.checkAt (s.request .read 16) .load 16 (s.rdP p) with
     | .error x => .error x
     | .ok l => .ok (some l))
  | .unused | .token _ | .time _ | .rnEmpty _ | .rnFull _ => .ok none

/-- The homes of all conditions, or the first failure in condition order. -/
def State.condHomes (s : State) (consume : Bool) : List WaitCond → Except Fail (List (Option Landing))
  | [] => .ok []
  | c :: r =>
    match s.condHome consume c with
    | .error x => .error x
    | .ok l =>
      match s.condHomes consume r with
      | .error x => .error x
      | .ok ls => .ok (l :: ls)

/-- A condition holds (R220). -/
def State.condHolds (s : State) (c : WaitCond) (l : Option Landing) : Bool :=
  let bytes := match l with | some x => x.bytes | none => []
  match c with
  | .unused => false
  | .token k => !s.isPending (.s k)
  | .sem _ n => (s.binderAt bytes).count ≥ n.toNat
  | .time p => (s.rdP p).toNat ≤ (s.view s.myIface).toNat
  | .bphase _ b => (s.homeWord bytes 1).getLsbD 0 != b.getLsbD 0
  | .rnEmpty k =>
    let h := s.ringNow k.toNat
    !h.bad && !h.closed && !h.empty
  | .rnFull k =>
    let h := s.ringNow k.toNat
    !h.bad && !h.closed && !h.full

/-- The indices of the conditions that hold, and of those used. -/
def State.holding (s : State) (w : WaitSpec) (ls : List (Option Landing)) : List Nat :=
  (List.range 4).filter (fun i => s.condHolds ((waitConds w).getD i .unused) (ls.getD i none))

def usedConds (w : WaitSpec) : List Nat := (List.range 4).filter (fun i => (waitConds w).getD i .unused != .unused)

/-- The conditions that fire: all, or the lowest that holds (R221). -/
def firing (w : WaitSpec) (h : List Nat) : List Nat :=
  if w.all then (if h = usedConds w then h else []) else h.take 1

def condMask (is : List Nat) : Word := BitVec.ofNat 32 (is.map (fun i => 2 ^ i)).sum

/-- Take `n` from a fired semaphore (R221). -/
def State.consumeSem (s : State) (w : WaitSpec) (ls : List (Option Landing)) (i : Nat) : State :=
  match (waitConds w).getD i .unused, ls.getD i none with
  | .sem _ n, some l =>
    let b := s.binderAt l.bytes
    s.setBinder s.g.ref l (b.setCount (b.count - n.toNat))
  | _, _ => s

/-- One round: the result, or none while it must wait (R221). -/
def State.waitRound (s : State) (w : WaitSpec) (ls : List (Option Landing)) (deadline : Option Nat) : Option (Word × State) :=
  let h := s.holding w ls
  let f := firing w h
  if f ≠ [] then some (condMask f, if w.consume then f.foldl (fun s i => s.consumeSem w ls i) s else s)
  else if s.passed deadline then some (0x100#32 ||| condMask h, s)
  else none

/-- Own writes to the places that the conditions read come first (R77). -/
def State.flushConds (s : State) (ls : List (Option Landing)) : State :=
  s.flushTo s.g.ref ((ls.map (fun l => match l with | some x => x.bytes | none => [])).flatten)

def execWait (t : SReg) (w : WaitSpec) (s : State) : Out :=
  if (waitConds w).any s.condIllegal then .next (s.kill .context)
  else
    s.issue (.switching (((waitConds w).map condRegs).flatten ++ optRegs w.timeout) [.s t]) (fun s => s.sy t (fun s =>
      match s.condHomes w.consume (waitConds w) with
      | .error x => s.failed x
      | .ok ls =>
        let s := s.flushConds ls
        let deadline := s.deadline w.timeout
        match s.waitRound w ls deadline with
        | some (v, s1) => s1.syDone t v
        | none => .next (s.again (.wait t w deadline))))

/-- A round of a waiting WAIT; a refused test is its precise fault (R221, R482). -/
def State.waitAgain (s : State) (t : SReg) (w : WaitSpec) (deadline : Option Nat) : State :=
  match s.condHomes w.consume (waitConds w) with
  | .error (.fault f) => s.raise f
  | .error (.wait _) => s
  | .ok ls =>
    match s.waitRound w ls deadline with
    | some (v, s1) => s1.endWait t v
    | none => s

/-- WAIT_ROUND: the conditions are tested again (R221); those of a saved crew after its resumption (R222). -/
def execWaitRound (g : GangRef) (s : State) : Out :=
  match s.runOf g with
  | .wait t w deadline => if s.mayGoOn g = false then .next s else .next (s.asGang g (fun s => s.waitAgain t w deadline))
  | _ => .next s

/-- WAIT_TIMEOUT: the deadline passes; a condition that holds in this round still fires (R221). -/
def execWaitTimeout (g : GangRef) (s : State) : Out :=
  match s.runOf g with
  | .wait t w deadline =>
    if s.mayGoOn g = false then .next s else .next (s.asGang g (fun s => if s.passed deadline then s.waitAgain t w deadline else s))
  | _ => .next s

/-! ### SEAL and UNSEAL (08 R252) -/

/-- The device, interface and pointer of a landing on another device. -/
def Landing.far (l : Landing) : Option (Nat × Nat × DWord) := l.device?.map (fun d => (d, l.route.1, l.route.2))

/-- The granules of a SEAL or UNSEAL, by memory key / 65,536, each checked before anything changes (R252). -/
def State.sealGranules (s : State) (p : DWord) : Nat → Except Fail (List (Nat × Option (Nat × Nat × DWord)))
  | 0 => .ok []
  | n + 1 =>
    match s.sealGranules p n with
    | .error x => .error x
    | .ok gs =>
      match s.checkTarget (s.request .seal 1) .sealing 1 (p + BitVec.ofNat 64 (n * 65536)) with
      | .error x => .error x
      | .ok l => .ok (gs ++ (l.bytes.head?.bind Place.key).toList.map (fun k => (k / 65536, l.far)))

/-- Change granules one after another; with `defer` each step is one of its own. -/
def State.sealAll (s : State) (t : SReg) (v : Bool) (gs : List (Nat × Option (Nat × Nat × DWord))) : Out :=
  if s.defer ∧ gs ≠ [] then
    let s1 := gs.foldl (fun s g =>
      { s with wq := s.wq ++ [{ id := s.nextId, owner := s.g.ref, kind := .seal g.1 v g.2, ptrs := [], released := false, compared := true }], nextId := s.nextId + 1 }) s
    .next (s1.again (.sealing t 0))
  else
    let r := gs.foldl (fun (acc : Nat × State) g =>
      let x := acc.2.sealOne s.g.ref g.1 v g.2
      (if x.1 then acc.1 + 1 else acc.1, x.2)) (0, s)
    r.2.syDone t (BitVec.ofNat 32 r.1)

/-- SEAL and UNSEAL past their operands; the steps at another device wait for room in the relay reserve (18 R440). -/
def State.sealing (s : State) (t : SReg) (x : Pair) (y : SReg) (v : Bool) : Out :=
  s.issue (.comparing (pairRegs x ++ [.s y]) [.s t]) (fun s => s.sy t (fun s =>
    let p := s.rdP x
    if p.extractLsb' 0 16 ≠ 0#16 then s.failed (alignFail p)
    else
      match s.sealGranules p (s.rd y).toNat with
      | .error f => s.failed f
      | .ok gs =>
        if s.egressFull (gs.filter (fun g => g.2.isSome)).length then .next (s.again .egress)
        else if v then s.releaseThen (fun s => s.sealAll t v gs)
        else s.sealAll t v gs))

def execSeal (t : SReg) (x : Pair) (y : SReg) (s : State) : Out := s.sealing t x y true

def execUnseal (t : SReg) (x : Pair) (y : SReg) (s : State) : Out := s.sealing t x y false

/-- SEAL or UNSEAL ends once its last step is performed (R252). -/
def State.settleSeals (s : State) : State :=
  s.allGangs.foldl
    (fun s h => match h.sch.run with
      | .sealing t n =>
        if s.wq.any (fun w => w.owner == h.ref && !w.isBytes) then s
        else s.asGang h.ref (fun s => s.endWait t (BitVec.ofNat 32 n))
      | _ => s) s

/-- Gangs whose earlier accesses are performed issue again, and releases that waited for them end (R217, R300, R301). -/
def State.settleDrains (s : State) : State :=
  s.settleReleases.allGangs.foldl
    (fun s h => match h.sch.run with
      | .drain remote => if s.accessesDone h.ref remote then s.modGang h.ref (fun k => { k with sch := { k.sch with run := .ready } }) else s
      | _ => s) s.settleReleases

/-- What a killed Plumb primary had stored on another device goes out over the fabric, past its comparison (01 R41, 16 R405). -/
def State.sendStore (s : State) (w : PendWrite) : State :=
  { s with wq := s.wq.filter (fun v => v.id != w.id) }.asGang w.owner (fun s => s.performStore w)

/-- WRITE_PERFORMED: a queued write reaches its home, after the earlier ones that must precede it (R77, R301). -/
def execWritePerformed (id : Nat) (s : State) : Out :=
  match s.wq.find? (fun w => w.id == id) with
  | none => .next s
  | some w =>
    if s.isBuffered w then .next s
    else if w.places.any (fun p => p.remote.isSome) then .next (s.sendStore w)
    else .next (((s.performFrom w).settleSeals).settleDrains)

end Sys2Proof.Machine
end

