-- ==== Sys2Proof/Machine/Barrier.lean ====
section
/-! DEFINITION. Barrier objects, LDX and ARRIVE (08 R245 to R249). -/

namespace Sys2Proof.Machine

/-- A barrier object (R245). -/
structure BarObj where
  raw : BitVec 128
  deriving DecidableEq, Repr

def BarObj.pending (b : BarObj) : Nat := (b.raw.extractLsb' 0 32).toNat
def BarObj.arrivals (b : BarObj) : Nat := (b.raw.extractLsb' 32 16).toNat
def BarObj.expect (b : BarObj) : BitVec 16 := b.raw.extractLsb' 48 16
def BarObj.phase (b : BarObj) : Bool := b.raw.getLsbD 64
def BarObj.err (b : BarObj) : Bool := b.raw.getLsbD 65

def BarObj.setPending (b : BarObj) (n : Nat) : BarObj := { raw := b.raw.extractLsb' 32 96 ++ BitVec.ofNat 32 n }

def BarObj.setArrivals (b : BarObj) (n : BitVec 16) : BarObj := { raw := b.raw.extractLsb' 48 80 ++ n ++ b.raw.extractLsb' 0 32 }

def BarObj.toggle (b : BarObj) : BarObj := { raw := b.raw ^^^ (1#128 <<< 64) }

/-- A phase completes after an update that leaves ARRIVALS and PENDING zero (R246). -/
def BarObj.settle (b : BarObj) : BarObj :=
  if b.arrivals = 0 ∧ b.pending = 0 then b.toggle.setArrivals b.expect else b

/-- `n` counted bytes have landed; `bad` when some source was uncorrectable (R246, R247). -/
def BarObj.landed (b : BarObj) (n : Nat) (bad : Bool) : BarObj :=
  let e : BarObj := if bad && !b.err then
      { raw := b.raw.extractLsb' 80 48 ++ 0x20#8 ++ b.raw.extractLsb' 66 6 ++ 1#1 ++ b.raw.extractLsb' 0 65 }
    else b
  (e.setPending (b.pending - n)).settle

/-- One arrival; the result is the phase arrived at, or the phase with 0x100 at an over-arrival (R248). -/
def BarObj.arrive (b : BarObj) : Word × BarObj :=
  let ph : Word := if b.phase then 1#32 else 0#32
  if b.arrivals = 0 then (ph ||| 0x100#32, b) else (ph, (b.setArrivals (BitVec.ofNat 16 (b.arrivals - 1))).settle)

def State.barAt (s : State) (ps : List Place) : BarObj := { raw := BitVec.ofNat 128 (leValue (ps.map s.homeByte)) }

/-- The object of LDX or ARRIVE: 16-aligned, in the crew's own allocation, whatever else the place is (R247, R248). -/
def State.checkBar (s : State) (p : DWord) : Except Fail (State × Landing) :=
  match s.checkLand (s.request .atomic 16) .atomic 16 p with
  | .error x => .error x
  | .ok l =>
    if l.bytes.all s.ownScratch = false then .error (l.fault kProtection p)
    else
      match s.checkData l p with
      | .error x => .error x
      | .ok l => .ok (s.flushTo s.g.ref l.bytes, l)

/-! ### LDX (R247) -/

/-- The source check of an LDX lane meets uncorrectable data byte by byte, when the bytes are copied (R247). -/
def State.ldxSource (s : State) (h : LmHdr) (z : MemSize) (src : Src) (n : Nat) : Except Fail (Landing × Landing) :=
  match s.checkTarget (s.request .read z.bytes) .ldx z.bytes (s.laneAddress h.addr n) with
  | .error x => .error x
  | .ok l =>
    match s.checkOffset false z.bytes z.bytes (s.dataWord src 1 n 0).toNat with
    | .error x => .error x
    | .ok d => .ok (l, d)

/-- The bytes that an LDX copies, with the values that the gang's own load would find (R77, R247). -/
def State.ldxBytes (s : State) (ls : List (Nat × Landing × Landing)) : List LdxByte :=
  (ls.map (fun x => (x.2.1.bytes.zip x.2.2.bytes).map (fun q =>
    ({ dst := q.2, val := s.ownByte q.1, bad := (s.poisonedByte [q.1]).isSome } : LdxByte)))).flatten

/-- The same fault for every participating lane. -/
def Fail.allLanes (x : Fail) (p : LaneMask) : Fail :=
  match x with
  | .fault f => .fault { f with lanes := p }
  | .wait r => .wait r

/-- LDX. A fault of a lane's source or destination comes before one of the barrier pointer (R247, log entry 119). -/
def execLdx (h : LmHdr) (size : MemSize) (src : Src) (bar : Pair) (s : State) : Out :=
  let i : Instr := .ldx h size src bar
  s.lm h (s.lmFits h [(src, 1)] .nw 0) false (dataRegs src .w ++ pairRegs bar) [] (fun s => s.sign [word0 i]) (fun s p =>
    match checkLanes p (fun n => s.ldxSource h size src n) with
    | .error x => s.failed x
    | .ok ls =>
      match s.checkBar (s.rdP bar) with
      | .error x => s.failed (x.allLanes p)
      | .ok (s, l) =>
        let places := (ls.map (fun x => x.2.1.bytes ++ x.2.2.bytes)).flatten ++ l.bytes
        if s.lineBusy ((ls.map (fun x => x.2.1.bytes)).flatten) then s.failed (.wait (.drain true))
        else if s.lateAt places ≠ [] then .next (s.again (.board (s.lateAt places)))
        else
        let n := ls.length * size.bytes
        let b := s.barAt l.bytes
        if b.pending + n > 0xFFFFFFFF then
          s.failed (.fault { FaultInfo.plain kLimit with pointer := s.rdP bar, lanes := p, whr := l.trace })
        else
          let items := signItems i (ls.map (fun x => ((s.dataWord src 1 x.1 0).setWidth 64,
            chunks size.bytes (leValue (x.2.1.bytes.map s.ownByte)))))
          let s1 := s.flushTo s.g.ref ((ls.map (fun x => x.2.2.bytes)).flatten)
          let op : Op :=
            { id := s1.nextId, owner := s1.g.ref, iface := s1.myIface, core := s1.myCore, pc := s1.g.sc.pc, token := none,
              serial := 0, kind := .ldx (s1.ldxBytes ls) [] (l.bytes.headD (.hbm 0)) }
          let s2 := (s1.putHome s1.g.ref l (b.setPending (b.pending + n)).raw.toNat).countLines
            (ls.map (fun x => x.2.1.bytes.headD (.hbm 0)))
          .next ((((({ s2 with nextId := s2.nextId + 1, ops := s2.ops ++ [op] }).sign items).noteLm h [src] p)).advance 12))

/-- Every byte of an LDX has landed: its destinations are one access, so sectors that they cover whole lose their poison, but for those
of uncorrectable sources (08 R481, log entry 36). -/
def State.closeLdx (s : State) (done : List LdxByte) : State :=
  let keys := done.filterMap (fun b => b.dst.key)
  let whole (t : Nat) : Bool := (List.range 32).all (fun i => keys.contains (t * 32 + i))
  { s with mem := { s.mem with poison := s.mem.poison.filter (fun t => !whole t) } }.taintPlaces
    ((done.filter LdxByte.bad).map LdxByte.dst)

/-- One byte of an LDX lands: it is in place and counted, and the last one ends the operation (R247). -/
def State.landByte (s : State) (o : Op) (b : LdxByte) (rest done : List LdxByte) (bar : Place) : State :=
  let s1 := s.performBytes o.owner [(b.dst, b.val)] []
  let s2 := if b.bad then s1.taintPlaces [b.dst] else s1
  let s3 := if rest.isEmpty then { s2 with ops := s2.ops.filter (fun x => x.id != o.id) }.closeLdx (done ++ [b])
    else { s2 with ops := s2.ops.map (fun x => if x.id = o.id then { x with kind := .ldx rest (done ++ [b]) bar } else x) }
  let obj := bar.run 16
  (s3.performBytes o.owner (placed obj ((s3.barAt obj).landed 1 b.bad).raw.toNat) []).settleDrains

/-- LDX_BYTE_LANDING: one of the bytes that are still to land, any of them (R247, log entry 22). -/
def execLdxByteLanding (op : Nat) (s : State) : Out :=
  match s.ops.find? (fun o => o.id == op) with
  | some o =>
    (match o.kind with
     | .ldx bytes done bar =>
       let (n, s1) := s.free
       let i := (Config.reading n).toNat % bytes.length
       (match bytes[i]? with
        | some b => .next (s1.landByte o b (bytes.eraseIdx i) done bar)
        | none => .next s)
     | _ => .next s)
  | none => .next s

/-! ### ARRIVE (R248) -/

/-- Each Plumb copy arrives at the object of its own allocation (16 R407). -/
def execArrive (t : SReg) (x : Pair) (s : State) : Out :=
  s.issue (.comparing (pairRegs x) [.s t]) (fun s =>
    match s.checkBar (s.rdP x) with
    | .error f => s.failed f
    | .ok (s, l) =>
      s.releaseThen (fun s =>
        let r := (s.barAt l.bytes).arrive
        .next (((s.putHome s.g.ref l r.2.raw.toNat).wr t r.1).advance 12)))

end Sys2Proof.Machine
end

