-- ==== Sys2Proof/Machine/System.lean ====
section
/-! DEFINITION. RFT, CSRR, CSRW and HALTG (15 R385 to R387), SWAPK (16 R413), SNAP (16 R401) and the transaction instructions
TXB, TXC and TXA (16 R409, R410). -/

namespace Sys2Proof.Machine

/-- RFT: outside handler mode it is illegal whatever the gang waits for (R385, 03 R104). -/
def execRft (s : State) : Out :=
  if s.g.sc.handler = false then .next s.returnFromHandler
  else s.issue' (.switching [] []) (fun s => s.returnFromHandler)

/-- A control register (R386). -/
def State.control (s : State) (n : ControlReg) : DWord :=
  let crew (f : Crew → DWord) : DWord := match s.myCrew? with | some c => f c | none => 0#64
  match n with
  | .admSeq => BitVec.ofNat 64 s.g.ref.launch
  | .saves => crew (fun c => BitVec.ofNat 64 c.saves)
  | .resumes => BitVec.ofNat 64 s.g.sch.resumes
  | .lastFault => s.g.sch.lastFault
  | .drainEst => crew Crew.drainEst
  | .issued => BitVec.ofNat 64 s.g.sch.issued
  | .resident => crew (fun c => BitVec.ofNat 64 c.resident)

def execCsrr (t : Pair) (n : ControlReg) (s : State) : Out :=
  s.issue (.switching [] (pairRegs t)) (fun s =>
    if s.isSecondary then s.fromTwin (fun s vs => .next ((s.wrP t (vs.headD 0#64)).advance 12))
    else
      let v := s.control n
      .next (((s.wrP t v).sendTwin [v]).advance 12))

/-- CSRW: DRAINEST is the one register that is not read only (R386). -/
def execCsrw (n : ControlReg) (x : Pair) (s : State) : Out :=
  s.issue' (.switching (pairRegs x) []) (fun s =>
    let s1 := match n with
      | .drainEst => s.modCrew s.g.ref.crewRef (fun c => { c with drainEst := s.rdP x })
      | .admSeq | .saves | .resumes | .lastFault | .issued | .resident => s
    s1.advance 12)

/-- HALTG: the gang ends (R387). -/
def execHaltg (s : State) : Out := s.issue' (.comparing [] []) (fun s => s.stopGang s.g.ref .ended)

/-! ### SWAPK (R412, R413) -/

/-- The entry of the gang's code landing: the SHADOWED one that its entry PC reached, or the one that it reaches (R412). -/
def State.codeLanding (s : State) : Except Fail EntryKey :=
  match s.g.fetchHalf with
  | some (k, _) => .ok k
  | none =>
    let pc := match s.myLaunch? with | some l => l.entryPc s.g.stage | none => 0#64
    match s.checkTarget (s.request .fetch 4) .load 1 pc with
    | .error x => .error x
    | .ok l => .ok l.key

/-- A word of `n` bytes of the swap table, through the visible half. -/
def State.swapWord (s : State) (p : DWord) (n : Nat) : Except Fail Nat :=
  match s.checkTarget (s.request .fetch n) .load 1 p with
  | .error x => .error x
  | .ok l =>
    match s.checkData l p with
    | .error x => .error x
    | .ok l => .ok (s.ownValue l.bytes)

/-- Past the check that the pointer reaches the gang's code landing; a landing elsewhere is refused with PROTECTION (log
entry 23). -/
def State.swapCode (s : State) (t : SReg) (p : DWord) (y : SReg) (z : Pair) (l : Landing) : Out :=
  let visible := l.entry.sel
  let mine := match s.g.fetchHalf with
    | some (_, h) => h
    | none => visible
  let done (s : State) (v : Word) : Out := .next ((s.wr t v).advance 12)
  if visible = mine then done s 1#32
  else
    match s.swapWord p 8 with
    | .error x => s.failed x
    | .ok tag =>
      if tag ≠ (s.rdP z).toNat then done s 2#32
      else
        match s.swapWord (p + 8#64) 4 with
        | .error x => s.failed x
        | .ok n =>
          if (s.rd y).toNat ≥ n then done s 3#32
          else
            match s.swapWord (p + 12#64 + 4#64 * (s.rd y).setWidth 64) 4 with
            | .error x => s.failed x
            | .ok off =>
              let target := p + BitVec.ofNat 64 off
              if target.extractLsb' 0 2 ≠ 0#2 then s.failed (.fault (.plain kAlign))
              else
                .next (((s.wr t 0#32).modG (fun g => { g with fetchHalf := some (l.key, visible), oldWords := [] })).setPc target)

def execSwapk (t : SReg) (x : Pair) (y : SReg) (z : Pair) (s : State) : Out :=
  s.issue (.comparing (pairRegs x ++ [.s y] ++ pairRegs z) [.s t]) (fun s =>
    let p := s.rdP x
    match s.checkTarget (s.request .fetch 1) .load 1 p with
    | .error f => s.failed f
    | .ok l =>
      match s.codeLanding with
      | .error f => s.failed f
      | .ok c => if l.key = c then s.swapCode t p y z l else s.failed (l.fault kProtection p))

/-! ### SNAP (R401) -/

def execSnap (t x : SReg) (s : State) : Out :=
  if s.packet.snapshot = false then .next (s.kill .context)
  else
    s.issue (.switching [.s x] [.s t]) (fun s => s.sy t (fun s =>
      let i := s.ifc s.myIface
      let name := (s.rd x).toNat
      if name = 0 ∨ i.kept.any (fun k => k.name == name) then s.syDone t 1#32
      else if i.kept.length ≥ 16 then s.syDone t 2#32
      else if i.kept.any (fun k => k.launch == s.g.ref.launch) then s.syDone t 3#32
      else
        match s.myLaunch?.bind Launch.snapshot with
        | none => s.syDone t 0#32
        | some p =>
          (s.setIfc s.myIface { i with kept := i.kept ++ [{ name := name, launch := s.g.ref.launch, snap := p }] }).syDone t 0#32))

/-! ### Transactions (R408 to R411) -/

/-- Discard a gang's copies, whose reserve pages are free again, and close its transaction (R410). -/
def State.closeTxn (s : State) (r : GangRef) : State :=
  match (s.gang? r).bind Gang.txn with
  | none => s
  | some t =>
    let s1 := t.copies.foldl (fun s c => s.freeReserve c.iface [c.page]) s
    s1.modGang r (fun g => { g with txn := none })

/-- The status of a marked transaction (R409). -/
def TxMark.status (m : TxMark) : Word :=
  match m with
  | .cut => 0x110#32
  | .conflicted => 0x111#32
  | .reserveShort => 0x112#32
  | .oversized => 0x113#32

/-- The device of a granule: 0 is this one, 1 + d another. -/
def granuleDevice (g : Nat) : Nat := g / 2 ^ 32

/-- Every other device among the participants is reachable. -/
def State.txReach (s : State) (t : Txn) : Bool :=
  t.granules.all (fun g => granuleDevice g == 0 || s.fab.reach.contains (granuleDevice g - 1))

/-- A granule that the transaction has written has been sealed since (08 R251). -/
def State.copySealed (s : State) (c : TxCopy) : Bool := s.mem.seals.contains c.granule

/-- This device makes its copies its granules' contents (R410); one that has been sealed since keeps its own (08 R251, log entry
120). -/
def State.applyCopies (s : State) (who : GangRef) (all : List TxCopy) : State :=
  let cs := all.filter (fun c => !s.copySealed c)
  let s1 := cs.foldl (fun s c => s.copyGranule c.granule) s
  let s2 := cs.foldl (fun s c => s.copyOut c.page c.granule) s1
  s2.markConflicts who (cs.map TxCopy.granule)

/-- Phase 2 at every reachable participant, in one step each; the others apply it when they are reachable again (R409, R410). What
another device's granules hold then is not in this device's state (log entry 38). Answers whether one is left. -/
def State.phase2 (s : State) (r : GangRef) : Bool × State :=
  match (s.gang? r).bind Gang.txn with
  | none => (false, s)
  | some t =>
    let far (g : Nat) : Bool := granuleDevice g != 0 && !s.fab.reach.contains (granuleDevice g - 1)
    let later := t.granules.filter far
    let devs := (later.map granuleDevice).eraseDups
    let s1 := s.applyCopies r t.copies
    let s2 := { s1 with fab := { s1.fab with late := s1.fab.late ++ devs.map (fun d =>
      (d - 1, later.filter (fun g => granuleDevice g == d), t.far.filter (fun c => c.1 / 2 ^ 48 == d))) } }
    (!later.isEmpty, (t.pages.foldl State.markPage s2).closeTxn r)

def execTxb (t : SReg) (s : State) : Out :=
  s.issue (.comparing [] [.s t]) (fun s => s.sy t (fun s =>
    match s.g.txn with
    | some _ => s.syDone t 1#32
    | none =>
      (s.modG (fun g =>
        { g with
          txn := some { serial := g.txSerial + 1, granules := [], copies := [], far := [], pages := [], mark := none }
          txSerial := g.txSerial + 1 })).syDone t 0#32))

def execTxa (t : SReg) (s : State) : Out :=
  s.issue (.comparing [] [.s t]) (fun s => s.sy t (fun s =>
    match s.g.txn with
    | none => s.syDone t 1#32
    | some _ => (s.closeTxn s.g.ref).syDone t 0#32))

/-- What the participants on other devices answer in phase 1: ready, or the mark that their own agents, their reserves or the paths to
them have given the transaction by then (R408, R410). -/
def State.phase1 (s : State) (x : Txn) : Option TxMark :=
  if x.granules.all (fun g => granuleDevice g == 0) then none
  else
    match (Config.reading s.freeCtr).toNat % 4 with
    | 0 => none
    | 1 => some .conflicted
    | 2 => some .reserveShort
    | _ => some .cut

/-- The decision of TXC, past its release (R410). A commit on this device alone is applied in the same step; one with other
participants waits for TRANSACTION_PHASE_2. -/
def State.decideTxn (s : State) (t : SReg) (x : Txn) : Out :=
  let me := (s.g.ref.crew, s.g.ref.gang, x.serial)
  let known := match s.myLaunch? with | some l => l.journal.contains me | none => false
  if known then (s.closeTxn s.g.ref).syDone t 2#32
  else
    match x.mark.or (if x.copies.any s.copySealed then some .conflicted else if s.txReach x then s.phase1 x else some .cut) with
    | some m => ({ s with freeCtr := s.freeCtr + 1 }.closeTxn s.g.ref).syDone t m.status
    | none =>
        let s1 := s.modLaunch s.g.ref.launch (fun l => { l with journal := l.journal ++ [me] })
        let s2 := { s1 with nvm := { s1.nvm with journal := s1.nvm.journal ++ [(s.g.ref.launch, me)] } }
        if x.granules.all (fun g => granuleDevice g == 0) then (s2.phase2 s.g.ref).2.syDone t 0#32
        else .next (s2.again (.commit t))

def execTxc (t : SReg) (s : State) : Out :=
  s.issue (.comparing [] [.s t]) (fun s => s.sy t (fun s =>
    match s.g.txn with
    | none => s.syDone t 1#32
    | some _ =>
      s.drainThen true (fun s =>
        match s.g.txn with
        | none => s.syDone t 1#32
        | some x => s.decideTxn t x)))

/-- TRANSACTION_PHASE_2: the participants apply a journalled commit, and TXC ends (R409, R410). -/
def execTransactionPhase2 (g : GangRef) (s : State) : Out :=
  match s.runOf g with
  | .commit t =>
    .next (s.asGang g (fun s =>
      let r := s.phase2 g
      r.2.endWait t (if r.1 then 0x131#32 else 0#32)))
  | _ => .next s

end Sys2Proof.Machine
end

