-- ==== Sys2Proof/Machine/Engine.lean ====
section
/-! DEFINITION. What the EN instructions share: masks, roles and comparison (03 R96, R104; 07 R211; 16 R404 to R406), tokens
(11 R312, R313; 12 R333), shape records (11 R304 to R306), and the element accesses of an engine operation (11 R309). -/

namespace Sys2Proof.Machine

/-! ### Issue -/

/-- The roles of R209, by their bit. -/
def roleMatrix : Nat := 1
def roleCopy : Nat := 2
def roleDispatch : Nat := 3
def rolePopulation : Nat := 4
def roleFabric : Nat := 5

/-- The stage of the issuing gang lacks a role (R211). -/
def State.lacksRole (s : State) (role : Option Nat) : Bool :=
  match role with
  | none => false
  | some b =>
    s.packet.staged && (match s.stages[s.g.stage]? with
      | some x => !x.roles.getLsbD b
      | none => false)

/-- The exec mask is neither zero nor full (R96). -/
def Gang.partialMask (g : Gang) : Bool := g.exec != 0#96 && g.exec != g.la.live

/-- No load still brings a part of the exec mask (02 R46). -/
def State.maskKnown (s : State) : Bool := execRegs.all (fun r => !s.isPending r)

/-- What an EN instruction reads and writes. -/
def enUses (t : SReg) (reads : List RegRef) : Uses := .comparing reads (execRegs ++ [.s t])

/-- An EN instruction other than RESAMP, up to its effect under a full mask (R96, R104, R211, R308). `fits` is what its word
and context demand, the limits and records apart. -/
def State.en (s : State) (role : Option Nat) (fits : Bool) (i : Instr) (t : SReg) (reads : List RegRef)
    (vals : State → List DWord) (body : State → Out) : Out :=
  if fits = false then .next (s.kill .context)
  else if s.lacksRole role then .next (s.kill .role)
  else
    if (s.consumed (enUses t reads)).isNone ∧ s.g.partialMask = true ∧ s.maskKnown then
      s.atSwitch.heedStop (.next (s.atSwitch.raise (.plain kPartialMask)))
    else
      s.issue (enUses t reads) (fun s =>
        if s.g.exec = 0#96 then
          .next (((((s.sign (word0 i :: vals s)).wr t 1#32).modBoard (fun b => b.token t))).advance 12)
        else body s)

/-! ### Tokens (R312, R333) -/

/-- A pending register of some gang. -/
def State.pendingIn (s : State) (h : Gang) (r : RegRef) : Bool :=
  h.bd.pending.contains r || (match r with
    | .s t => s.tokenPending h.ref t
    | .v _ | .o _ => false)

/-- Gangs whose scoreboard wait is over are ready again (R93). -/
def State.wakeBoards (s : State) : State :=
  s.modGangs
    (fun h => match h.sch.run with
      | .board rs | .hazard rs => rs.all (fun r => !s.pendingIn h r)
      | _ => false)
    (fun h => { h with sch := { h.sch with run := .ready } })

/-- MDR and MRED: their tokens 0x20 and 0x21 trap the instruction that consumes them (R333). -/
def OpKind.traps (k : OpKind) : Bool :=
  match k with
  | .mdr _ _ _ _ _ _ _ | .drained _ _ _ _ _ _ | .mred _ _ _ _ _ _ _ => true
  | _ => false

/-- The token of an operation arrives; a gang that is over discards it, but not its 0x20 or 0x21 (R312, R336, R387). `trap` has the
PC of an operation whose 0x20 and 0x21 trap, and the home of its uncorrectable data. -/
def putToken (t : SReg) (v : Word) (trap : Option (DWord × Option Place)) (h : Gang) : Gang :=
  let rest := h.bd.poisoned.filter (fun p => p.1 != t)
  let code := v.toNat % 256
  let h1 := { h with bd := { h.bd with poisoned := match trap with
    | some pc => if code = kData ∨ code = kResidue then rest ++ [(t, pc)] else rest
    | none => rest } }
  if h.sch.run.isOver ∧ h1.bd.poisoned = rest then h1 else h1.wr t v

/-- Remove an operation and deliver its token to its own gang. -/
def State.closeOp (s : State) (o : Op) (v : Word) (home : Option Place) : State :=
  let s1 := { s with ops := s.ops.filter (fun x => x.id != o.id) }
  match o.token with
  | none => s1
  | some t => s1.modGang o.owner (putToken t v (if o.kind.traps then some (o.pc, home) else none))

/-- The twin's operation ends with the token of this one: it waits for it, or for pushes of a DGATH that has failed (13 R354). -/
def OpKind.follows (k : OpKind) (v : Word) : Bool :=
  match k with
  | .twin _ => true
  | .dgath _ _ _ => v != 0#32
  | _ => false

/-- The Plumb twin of an operation's gang receives the token (R406). -/
def State.tokenTwin (s : State) (o : Op) (v : Word) (home : Option Place) : State :=
  match o.token, s.gang? o.owner.other with
  | some _, some _ =>
    (match s.ops.find? (fun x => x.owner == o.owner.other && x.serial == o.serial && x.kind.follows v) with
     | some x => s.closeOp { x with kind := o.kind } v home
     | none => s.modGang o.owner.other (deliver o.serial [v.setWidth 64]))
  | _, _ => s

/-- The limit that an operation counts for (R315, 13 R347, 18 R448). -/
def OpKind.engineClass (k : OpKind) : EngineClass :=
  match k with
  | .copy _ _ _ _ | .publish _ => .copy
  | .dcnt _ _ | .dplan _ _ _ | .dscat _ _ | .dgath _ _ _ | .dstat _ _ _ _ _ => .dispatch
  | .mcast _ _ _ _ _ _ _ _ => .mcast
  | .twin c | .value _ c => c
  | .mls _ _ _ | .msw _ | .mst _ _ _ _ _ _ _ | .mred _ _ _ _ _ _ _ | .mza _ _ | .mdr _ _ _ _ _ _ _ | .drained _ _ _ _ _ _
  | .ldx _ _ _ | .rack _ | .peerq _ _ | .remoteLoad _ _ _ _ _ _ _ | .localLoad _ _ _ _ => .other

/-- Uncompleted operations of a gang that count for a limit. -/
def State.engineOps (s : State) (c : EngineClass) (r : GangRef) : Nat :=
  (s.ops.filter (fun o => o.owner == r && o.kind.engineClass == c)).length

/-- An operation completes with this token. A secondary's own operation ends with its primary's token (R406). -/
def State.endOp (s : State) (o : Op) (v : Word) (home : Option Place := none) : State :=
  let s1 := if o.owner.twin then
      (match (s.gang? o.owner).bind (fun h => h.plumb.inbox.find? (fun p => p.1 == o.serial)), o.token with
       | some p, some _ =>
         (s.modGang o.owner (fun h =>
           { h with plumb := { h.plumb with inbox := h.plumb.inbox.filter (fun q => q.1 != o.serial) } })).closeOp o
           ((p.2.headD 0#64).extractLsb' 0 32) home
       | none, some _ => { s with ops := s.ops.map (fun x => if x.id = o.id then { x with kind := .twin o.kind.engineClass } else x) }
       | _, none => s.closeOp o v none)
    else (s.closeOp o v home).tokenTwin o v home
  s1.wakeBoards.settleDrains

/-- Start an engine operation under token register `t` (R312). A Plumb secondary performs it only when it lies in its own
scratchpad allocation, and else waits for the primary's token (R403, R407). -/
def State.startOp (s : State) (i : Instr) (t : SReg) (vals : List DWord) (own : Bool) (k : OpKind) : State :=
  let s1 := (s.sign (word0 i :: vals)).modBoard (fun b => b.token t)
  let id := s1.nextId
  let serial := s1.g.plumb.serial
  let token := if t = 0#6 then none else some t
  let kind := if s1.isSecondary && !own then .twin k.engineClass else k
  let o : Op :=
    { id := id, owner := s1.g.ref, iface := s1.myIface, core := s1.myCore, pc := s1.g.sc.pc, token := token,
      serial := serial, kind := kind }
  let s2 := { s1 with nextId := id + 1 }
  let s3 := if s2.packet.plumb && token.isSome then
      s2.modG (fun g => { g with plumb := { g.plumb with serial := serial + 1 } })
    else s2
  let early := s3.g.plumb.inbox.find? (fun p => p.1 == serial)
  let s4 := match kind, token, early with
    | .twin _, some _, some p =>
      (s3.modG (fun g => { g with plumb := { g.plumb with inbox := g.plumb.inbox.filter (fun q => q.1 != serial) } })).closeOp
        { o with kind := k } ((p.2.headD 0#64).extractLsb' 0 32) none
    | .twin _, none, _ => s3
    | _, _, _ => { s3 with ops := s3.ops ++ [o] }
  s4.advance 12

/-! ### Shape records (R304 to R306) -/

/-- A record of 32 bytes. -/
def ShapeRec.ofNat (v : Nat) : ShapeRec :=
  let b := BitVec.ofNat 256 v
  { base := b.extractLsb' 0 64
    esize := (b.extractLsb' 124 3).toNat
    rank := (b.extractLsb' 92 2).toNat
    stride0 := (b.extractLsb' 64 28).toInt
    stride1 := (b.extractLsb' 96 28).toInt
    stride2 := (b.extractLsb' 128 28).toInt
    ext0 := (b.extractLsb' 160 16).toNat
    ext1 := (b.extractLsb' 176 16).toNat
    ext2 := (b.extractLsb' 192 16).toNat
    clip0 := (b.extractLsb' 208 16).toNat
    clip1 := (b.extractLsb' 224 16).toNat
    clip2 := (b.extractLsb' 240 16).toNat }

/-- The fields of dimension `k`: extent, clip and stride. -/
def ShapeRec.dim (r : ShapeRec) (k : Nat) : Nat × Nat × Int :=
  match k with
  | 0 => (r.ext0, r.clip0, r.stride0)
  | 1 => (r.ext1, r.clip1, r.stride1)
  | _ => (r.ext2, r.clip2, r.stride2)

/-- A defective record (R305). -/
def shapeDefect (v : Nat) : Bool :=
  let b := BitVec.ofNat 256 v
  let r := ShapeRec.ofNat v
  b.getLsbD 127 || b.extractLsb' 94 2 != 0#2 || b.extractLsb' 156 4 != 0#4 || r.esize > 4 || r.rank == 0 ||
    (List.range 3).any (fun k =>
      let (e, c, st) := r.dim k
      if k < r.rank then e == 0 || c > e else e != 0 || c != 0 || st != 0)

/-- The clip of a dimension; one at or above RANK has extent 1 (R305). -/
def ShapeRec.clip (r : ShapeRec) (k : Nat) : Nat := if k < r.rank then (r.dim k).2.1 else 1

/-- The address of an element (R306). -/
def ShapeRec.addr (r : ShapeRec) (i : Nat × Nat × Nat) : DWord :=
  r.base + BitVec.ofInt 64 (i.1 * r.stride0 + i.2.1 * r.stride1 + i.2.2 * r.stride2)

/-- Bytes of an element. -/
def ShapeRec.bytes (r : ShapeRec) : Nat := 2 ^ r.esize

/-- Index triples below three bounds, in element order (R306). -/
def indices (n0 n1 n2 : Nat) : List (Nat × Nat × Nat) :=
  ((List.range n2).map (fun i2 => ((List.range n1).map (fun i1 => (List.range n0).map (fun i0 => (i0, i1, i2)))).flatten)).flatten

/-- The elements inside the clips of both records, in element order. -/
def commonClip (a b : ShapeRec) : List (Nat × Nat × Nat) :=
  indices (min (a.clip 0) (b.clip 0)) (min (a.clip 1) (b.clip 1)) (min (a.clip 2) (b.clip 2))

/-- Read `n` bytes of a record or descriptor at issue, precisely (R308, R323). -/
def State.readAtIssue (s : State) (n align : Nat) (p : DWord) : Except Fail Nat :=
  match s.check (s.request .read n) .load align p with
  | .error x => .error x
  | .ok l => if s.lineBusy l.bytes then .error (.wait (.drain true)) else .ok (s.ownValue l.bytes)

/-! ### Element accesses (R309) -/

/-- A request of an engine operation, with its gang's interface. -/
def State.opRequest (s : State) (o : Op) (need : Perms) (size : Nat) : Req :=
  let base := match s.crew? o.owner.crewRef with
    | some c => c.site.base
    | none => 0
  let scratch := match s.launch? o.owner.launch with
    | some l => l.packet.scratch
    | none => 0
  { iface := o.iface, launch := o.owner.launch, core := o.core, base := base, alloc := allocBytes scratch,
    twin := o.owner.twin, need := need, size := size, shadow := false, half := none }

/-- An earlier write of the gang to a remote line of these places is not acknowledged yet (R310, 18 R441). -/
def State.busyFor (s : State) (o : Op) (ps : List Place) : Bool :=
  ps.any (fun p => p.remote.isSome &&
    s.fab.unacked.any (fun u => u.owner == o.owner && u.id < o.id && p.remote == some u.dev && u.lines.contains p.line))

/-- An engine read of `n` bytes, past the checks of its landing but not of its data (R309, R233). -/
def State.engineSource (s : State) (o : Op) (n align : Nat) (p : DWord) : Except Fail Landing :=
  match s.checkTarget (s.opRequest o .read n) .ldx align p with
  | .error x => .error x
  | .ok l => if s.busyFor o l.bytes then .error (.wait (.drain true)) else .ok l

/-- An engine write or atomic of `n` bytes (R309): target type, the shadow half, sealing. -/
def State.engineTarget (s : State) (o : Op) (need : Perms) (op : TargetOp) (shadow : Bool) (n align : Nat)
    (p : DWord) : Except Fail Landing :=
  if p.toNat % align ≠ 0 then .error (alignFail p)
  else
    match s.translate { s.opRequest o need n with shadow := shadow } p with
    | .error x => .error (x.fail p)
    | .ok l =>
      match targetFault op l.type with
      | some k => .error (l.fault k p)
      | none =>
        if l.type = tMmio ∨ (shadow && !l.entry.shadowed) = true then
          .error (l.fault kProtection p)
        else if s.hostGone l then .error (l.fault kPeer p)
        else if s.sealedBytes l.bytes then .error (l.fault kSealedStore p)
        else if s.busyFor o l.bytes then .error (.wait (.drain true))
        else .ok l

/-- The gang's earlier writes to these places are performed first (R310). -/
def State.flushBefore (s : State) (o : Op) (ps : List Place) : State :=
  (s.wq.filter (fun w => w.owner == o.owner && w.id < o.id && !s.isBuffered w && w.places.any ps.contains)).foldl
    State.performFrom s

/-- The value at a landing's home for an engine, which is an agent of its own. -/
def State.homeValue (s : State) (ps : List Place) : Nat := leValue (ps.map s.homeByte)

/-- A transfer of an operation to another device, pool or host: its flit waits until there is room on its path (18 R438, R440). `bad`
gives the bytes that cross marked as poisoned (R481). -/
def State.engineFlit (s : State) (o : Op) (l : Landing) (dev : Nat) (type : FlitType) (bulk : Bool) (payload : List Byte)
    (bad : List Nat) : State :=
  let f := { s.flit dev type bulk l.route payload s.nextId with poison := bad }
  { s with
    nextId := s.nextId + 1
    fab := { s.fab with engine := s.fab.engine ++
      [{ op := o.id, id := s.nextId, flit := f, pages := l.pages.map Prod.fst, entered := false, code := none }] } }

/-- Write an engine's bytes: to open transactions it is another agent (16 R408). With `bad` they are uncorrectable (R481). -/
def State.enginePut (s : State) (o : Op) (l : Landing) (v : Nat) (bad : Bool := false) (bulk : Bool := true) : State :=
  let s1 := s.noteReplay o.owner l.bytes
  match l.device? with
  | some d => s1.engineFlit o l d .write bulk (leBytes l.bytes.length v) (if bad then List.range l.bytes.length else [])
  | none => s1.performBytes noGang (placed l.bytes v) (l.pages.map Prod.fst)

/-- An atomic of an engine: its home turns the operand into the new value; at a home of this device `v` is that value. A data transfer
is BULK, a step on a binder is not (18 R438). -/
def State.engineAtomic (s : State) (o : Op) (l : Landing) (bulk : Bool) (operand : List Byte) (v : Nat) : State :=
  match l.device? with
  | some d => (s.noteReplay o.owner l.bytes).engineFlit o l d .atomic bulk operand []
  | none => s.enginePut o l v

/-- The work of an operation is done: its token and its flag follow once what it sent is acknowledged (R311, R312). -/
def State.endWhenSent (s : State) (o : Op) (v : Word) (flag : OpFlag := .noFlag) (home : Option Place := none) : State :=
  if s.fab.engine.any (fun e => e.op == o.id) then
    { s with ops := s.ops.map (fun (x : Op) => if x.id = o.id then { x with settle := some { token := v, flag := flag, home := home } } else x) }
  else s.endOp o v home

/-- Each line that an element or run of an engine transfer reaches is one access (17 R427). -/
def State.countEngine (s : State) (o : Op) (ps : List Place) : State := s.countFor o.iface (o.core / 160) ps

/-- The instance in a result: no result but LOCQ's depends on the die of a gang (00 R1), so level C is instance 0 here, as in
R258's tables (log entry 55). -/
def resultInst (level inst : Nat) : Nat := if level = lvC then 0 else inst

/-- The code of a failure, in the layout of R312. -/
def FaultInfo.token (f : FaultInfo) : Word :=
  let where? := (0x10 ≤ f.kind && f.kind ≤ 0x14) || f.kind == 0x18
  BitVec.ofNat 32 (f.kind + (if where? then f.level * 256 + resultInst f.level f.inst * 2048 else 0))

/-- What a transfer has done: its first failure, the bytes to poison and the bytes written (R310, R481). -/
structure Xfer where
  st : State
  fail : Option Fail
  taint : List Place
  wrote : List Place

/-- A transfer before its first element. -/
def Xfer.start (s : State) : Xfer := { st := s, fail := none, taint := [], wrote := [] }

/-- The end of a transfer. Its elements are one run: sectors that they cover whole lose their poison, and bytes whose source was
uncorrectable are poisoned (R481, log entry 36). -/
def Xfer.close (x : Xfer) : State :=
  let keys := x.wrote.filterMap (fun p => if p.remote.isSome then none else p.key)
  let whole (t : Nat) : Bool := (List.range 32).all (fun i => keys.contains (t * 32 + i))
  { x.st with mem := { x.st.mem with poison := x.st.mem.poison.filter (fun t => !whole t) } }.taintPlaces x.taint

end Sys2Proof.Machine
end

