-- ==== Sys2Proof/Machine/Copy.lean ====
section
/-! DEFINITION. COPY and PUBLISH and the steps that complete them (11 R307 to R317). -/

namespace Sys2Proof.Machine

/-! ### COPY at issue (R307, R308) -/

/-- Registers that the flag of a COPY reads. -/
def flagRegs (f : CopyFlag) : List RegRef :=
  match f with
  | .noFlag => []
  | .sem b n => pairRegs b ++ [.s n]
  | .word p v => pairRegs p ++ pairRegs v

/-- What the flag adds to the store signature: z and w (16 R404). -/
def State.flagValues (s : State) (f : CopyFlag) : List DWord :=
  match f with
  | .noFlag => []
  | .sem b n => [s.rdP b, (s.rd n).setWidth 64]
  | .word p v => [s.rdP p, s.rdP v]

/-- The flag with its operands read at issue (R311). -/
def State.opFlag (s : State) (f : CopyFlag) : OpFlag :=
  match f with
  | .noFlag => .noFlag
  | .sem b n => .sem (s.rdP b) (s.rd n)
  | .word p v => .word (s.rdP p) (s.rdP v)

/-- The pointer of a flag and its alignment (R308). -/
def OpFlag.ptr (f : OpFlag) : DWord × Nat :=
  match f with
  | .noFlag => (0#64, 1)
  | .sem p _ => (p, 32)
  | .word p _ => (p, 8)

/-- The records agree (R308). -/
def shapesAgree (a b : ShapeRec) : Bool :=
  a.esize == b.esize && a.rank == b.rank && a.ext0 == b.ext0 && a.ext1 == b.ext1 && a.ext2 == b.ext2

/-- Uncompleted COPY and PUBLISH operations of a gang (R315). -/
def State.copyOps (s : State) (r : GangRef) : Nat :=
  s.engineOps .copy r

/-- Every element of a transfer lands in the issuing crew's own allocation (16 R407); a lookup that is held is waited for (09
R280). -/
def State.ownTarget (s : State) (t : ShapeRec) (cells : List (Nat × Nat × Nat)) : Except Fail Bool :=
  let at' (i : Nat × Nat × Nat) : Except Stop Landing := s.translate (s.request .write t.bytes) (t.addr i)
  match cells.findSome? (fun i => match at' i with | .error (.wait r) => some r | _ => none) with
  | some r => .error (.wait r)
  | none => .ok (cells.all (fun i => match at' i with
    | .ok l => l.bytes.all s.ownScratch
    | .error _ => false))

/-- The two records of a COPY, read at issue. Of faults that coincide the pointers' alignment is first, in the order of the operands,
then the reads (R308, log entry 119). -/
def State.copyRecords (s : State) (x y : DWord) (flag : OpFlag) : Except Fail (Nat × Nat) :=
  if x.toNat % 32 ≠ 0 then .error (alignFail x)
  else if y.toNat % 32 ≠ 0 then .error (alignFail y)
  else if flag.ptr.1.toNat % flag.ptr.2 ≠ 0 then .error (alignFail flag.ptr.1)
  else
    match s.readAtIssue 32 32 x with
    | .error f => .error f
    | .ok a =>
      match s.readAtIssue 32 32 y with
      | .error f => .error f
      | .ok b => .ok (a, b)

def execCopy (shadow : Bool) (hint : Hint) (flag : CopyFlag) (t : SReg) (x y : Pair) (s : State) : Out :=
  let i : Instr := .copy shadow hint flag t x y
  s.en (some roleCopy) true i t (pairRegs x ++ pairRegs y ++ flagRegs flag)
    (fun s => [s.rdP x, s.rdP y] ++ s.flagValues flag) (fun s =>
    match s.copyRecords (s.rdP x) (s.rdP y) (s.opFlag flag) with
    | .error f => s.failed f
    | .ok (a, b) =>
      let src := ShapeRec.ofNat a
      let dst := ShapeRec.ofNat b
      if shapeDefect a || shapeDefect b || !shapesAgree src dst || s.copyOps s.g.ref ≥ 16 then .next (s.kill .context)
      else
        let start (own : Bool) : Out :=
          .next (s.startOp i t ([s.rdP x, s.rdP y] ++ s.flagValues flag) own (.copy src dst shadow (s.opFlag flag)))
        if s.isSecondary = false then start false
        else
          match s.ownTarget dst (commonClip src dst) with
          | .error f => s.failed f
          | .ok own => start own)

/-! ### COPY's operation (R309 to R312) -/

/-- One element of a copy, in the order of the elements, which a failure ends (log entry 123). Earlier writes of the gang to its bytes
are performed first (R310). -/
def copyElement (o : Op) (src dst : ShapeRec) (shadow : Bool) (x : Xfer) (i : Nat × Nat × Nat) : Xfer :=
  if x.fail.isSome then x
  else
    let n := src.bytes
    match x.st.engineSource o n n (src.addr i) with
    | .error f => { x with fail := some f }
    | .ok a =>
      match x.st.engineTarget o .write .store shadow n n (dst.addr i) with
      | .error f =>
        (match (x.st.flushBefore o a.bytes).poisonedByte a.bytes, f with
         | some _, .fault _ => { x with fail := some (.fault (.plain kData)) }
         | _, _ => { x with fail := some f })
      | .ok b =>
        let s1 := (x.st.flushBefore o a.bytes).flushBefore o b.bytes
        if (s1.poisonedByte a.bytes).isSome then
          { x with
            st := s1.enginePut o b (s1.homeValue a.bytes) true, fail := some (.fault (.plain kData)), taint := x.taint ++ b.bytes }
        else
          let s2 := (s1.countEngine o a.bytes).countEngine o b.bytes
          { x with st := s2.enginePut o b (s2.homeValue a.bytes), wrote := x.wrote ++ b.bytes }

/-- The flag's addition or store (R311). -/
def State.copyFlag (s : State) (o : Op) (flag : OpFlag) : Except Fail State :=
  match flag with
  | .noFlag => .ok s
  | .sem p n =>
    (match s.checkAt (s.opRequest o .atomic 32) .atomic 32 p with
     | .error f => .error f
     | .ok l =>
       if s.busyFor o l.bytes then .error (.wait (.drain true))
       else
         let s1 := s.flushBefore o l.bytes
         .ok (s1.engineAtomic o l false (leBytes 4 n.toNat) ((s1.binderAt l.bytes).add n.toNat).value))
  | .word p v =>
    (match s.checkTarget (s.opRequest o .write 8) .store 8 p with
     | .error f => .error f
     | .ok l =>
       if s.busyFor o l.bytes then .error (.wait (.drain true))
       else if l.type = tMmio then .ok ((s.noteReplay o.owner l.bytes).mmioStore l 8 v.toNat)
       else .ok ((s.flushBefore o l.bytes).enginePut o l v.toNat))

/-- A copy runs to its end; a wait of an element leaves everything as it was. -/
def State.runCopy (s : State) (o : Op) (src dst : ShapeRec) (shadow : Bool) (flag : OpFlag) : State :=
  let x := (commonClip src dst).foldl (copyElement o src dst shadow) (.start s)
  let s1 := x.close
  match x.fail with
  | some (.wait _) => s
  | some (.fault f) => s1.endWhenSent o f.token
  | none =>
    if o.owner.twin then s1.endOp o 0#32
    else if s1.fab.engine.any (fun e => e.op == o.id) then s1.endWhenSent o 0#32 flag
    else
      match s1.copyFlag o flag with
      | .error (.wait _) => s
      | .error (.fault f) => s1.endOp o f.token
      | .ok s2 => s2.endWhenSent o 0#32

/-- An operation whose work is not done. -/
def State.op? (s : State) (id : Nat) : Option Op := s.ops.find? (fun o => o.id == id && o.settle.isNone)

/-- An operation whose work is done ends once every home has answered: with the first failure in the order of its transfers, or with
its flag (R311, R312). -/
def State.settleOp (s : State) (id : Nat) : State :=
  let mine := s.fab.engine.filter (fun e => e.op == id)
  match s.ops.find? (fun o => o.id == id) with
  | none => s
  | some o =>
    match o.settle with
    | none => s
    | some x =>
      if mine.any (fun e => e.code.isNone) then s
      else
        let s1 := { s with fab := { s.fab with engine := s.fab.engine.filter (fun (e : EngineOut) => e.op != id) } }
        match (mine.filterMap EngineOut.code).find? (fun c => c != 0) with
        | some c => s1.endOp o (if x.token = 0#32 then BitVec.ofNat 32 c else x.token) x.home
        | none =>
          if x.token ≠ 0#32 ∨ x.flag = .noFlag then s1.endOp o x.token x.home
          else
            match s1.copyFlag o x.flag with
            | .error (.wait _) => s
            | .error (.fault f) => s1.endOp o f.token
            | .ok s2 => s2.endWhenSent o 0#32

/-- COPY_COMPLETION: the operation's elements, its flag and its token (R309, R312). -/
def execCopyCompletion (op : Nat) (s : State) : Out :=
  match s.op? op with
  | none => .next (s.settleOp op)
  | some o =>
    match o.kind with
    | .copy src dst shadow flag => .next (s.runCopy o src dst shadow flag)
    | _ => .next s

/-! ### PUBLISH (R314, R316) -/

def execPublish (t : SReg) (x : Pair) (s : State) : Out :=
  let i : Instr := .publish t x
  s.en (some roleCopy) true i t (pairRegs x) (fun s => [s.rdP x]) (fun s =>
    if s.copyOps s.g.ref ≥ 16 then .next (s.kill .context)
    else .next (s.startOp i t [s.rdP x] false (.publish (s.rdP x))))

/-- An operation of the copy engine that PUBLISH waits for (R314, R331). -/
def OpKind.copyEngine (k : OpKind) : Bool :=
  match k with
  | .copy _ _ _ _ | .publish _ | .mdr _ _ _ _ _ _ _ | .drained _ _ _ _ _ _ => true
  | _ => false

/-- The waits of PUBLISH are over, and no load that has not read its home yet may have used the landing (R314, 09 R277). -/
def State.publishReady (s : State) (o : Op) : Bool :=
  s.ops.all (fun p => match p.kind with | .localLoad _ _ _ _ | .remoteLoad _ _ _ _ _ _ _ => false | _ => true) &&
  s.ops.all (fun p => !(p.owner == o.owner && p.id < o.id && p.kind.copyEngine)) &&
    s.wq.all (fun w => !(w.owner == o.owner && w.id < o.id && !s.isBuffered w)) &&
    s.fab.unacked.all (fun u => !(u.owner == o.owner && u.id < o.id))

/-- Pending writes that used a landing's page map reach their homes first (09 R277). -/
def State.drainLanding (s : State) (l : Landing) : State :=
  let lo := pmapKey l.key.dev (l.entry.base.extractLsb' 0 40).toNat
  let hi := lo + 32 * l.entry.pageCount
  (s.wq.filter (fun w => !s.isBuffered w && w.pages.any (fun p => lo ≤ p && p < hi))).foldl State.performFrom s

/-- A write that used the landing's page map, or a step of SEAL or UNSEAL, is not performed: those of store buffers too (09 R277). -/
def State.landingBusy (s : State) (l : Landing) : Bool :=
  let lo := pmapKey l.key.dev (l.entry.base.extractLsb' 0 40).toNat
  let hi := lo + 32 * l.entry.pageCount
  s.wq.any (fun w => !w.isBytes || w.pages.any (fun p => lo ≤ p && p < hi))

/-- The launch's snapshot keeps the SEL that it toggles (R317). -/
def noteSel (k : EntryKey) (sel : Bool) (p : Snapshot) : Snapshot :=
  if p.sels.any (fun x => x.1 == k) then p else { p with sels := p.sels ++ [(k, sel)] }

/-- The halves of a landing change places (R314). -/
def LabelEntry.toggled (e : LabelEntry) : LabelEntry := { e with newLabel := e.newLabel ^^^ 8#12, gen := e.gen + 1#8 }

/-- PUBLISH's operation (R314). The manual gives its request no size: the model asks for 1 byte (log entry 78). -/
def State.runPublish (s : State) (o : Op) (p : DWord) : State :=
  if s.publishReady o = false then s
  else
    match s.translate (s.opRequest o .write 1) p with
    | .error x =>
      (match x.fail p with
       | .wait _ => s
       | .fault f => s.endOp o f.token)
    | .ok l =>
      if l.level = lvD ∧ l.type = tHbm ∧ l.entry.shadowed = true then
        let s0 := s.drainLanding l
        let s1 := s0.modLaunch o.owner.launch (fun x => { x with snapshot := x.snapshot.map (noteSel l.key l.entry.sel) })
        if s0.landingBusy l then s0 else (s1.setEntry l.key l.entry.toggled).endOp o 0#32
      else
        s.endOp o (BitVec.ofNat 32 (kProtection + l.level * 256 + resultInst l.level l.inst * 2048))

/-- PUBLISH_TOGGLE (R314). -/
def execPublishToggle (op : Nat) (s : State) : Out :=
  match s.op? op with
  | none => .next s
  | some o =>
    match o.kind with
    | .publish p => .next (s.runPublish o p)
    | _ => .next s

end Sys2Proof.Machine
end

