-- ==== Sys2Proof/Machine/Matrix.lean ====
section
/-! DEFINITION. The matrix arrays (12 R318 to R336) with the arithmetic of a pass (05 R157, R158). -/

namespace Sys2Proof

/-- The page-format code of a matrix format (09 R268). -/
def MxFmt.pageCode (f : MxFmt) : Nat :=
  match f with
  | .f16 => 2
  | .bf16 => 3
  | .t8 => 4
  | .t6 => 5

/-- Plane rows K (R319). -/
def MxFmt.rows (f : MxFmt) : Nat :=
  match f with
  | .f16 | .bf16 => 32
  | .t8 => 64
  | .t6 => 128

/-- ESIZE of a record of the format (R324). -/
def MxFmt.esize (f : MxFmt) : Nat :=
  match f with
  | .f16 | .bf16 => 1
  | .t8 | .t6 => 0

/-- ESIZE of a drain's record (R324). -/
def DrainFmt.esize (f : DrainFmt) : Nat :=
  match f with
  | .f32 => 2
  | .f16 | .bf16 => 1

end Sys2Proof

namespace Sys2Proof.Machine

/-! ### Elements (R325) -/

/-- +0. -/
def elemZero : Elem := .fin false 0 0

def elemOfVal (v : FVal) : Elem :=
  match v with
  | .fin s m e => if m = 0 then elemZero else .fin s m e
  | .inf s => .inf s
  | .nan _ => .nan

def Elem.val (x : Elem) : FVal :=
  match x with
  | .fin s m e => .fin s m e
  | .inf s => .inf s
  | .nan => .nan false

/-- An element of a format with its block's scale (R144, R318). -/
def mxElement (f : MxFmt) (x sc : Nat) : Elem :=
  let tap (g : TFmt) : Elem := if sc = 255 then .nan else elemOfVal ((sourceValue (.taper g) x).scale (sc - 127))
  match f with
  | .f16 => elemOfVal (f16.decode (x % 65536))
  | .bf16 => elemOfVal (bf16.decode (x % 65536))
  | .t8 => tap t8
  | .t6 => tap t6

/-- Target types with page formats, and those without (R325). -/
def pagedType (type : Nat) : Bool := type == tHbm || type == tPool
def plainType (type : Nat) : Bool := type == tScratch || type == tWindow || type == tCrew || type == tParam

/-- The place of the scale of element `i`, and the page's format, checked (R145, R325). -/
def Landing.mxPage (l : Landing) (f : MxFmt) (p : DWord) (i : Nat) : Except Fail (Option Place) :=
  if pagedType l.type then
    if l.pages.all (fun m => pageFormat m.2 == f.pageCode && formatOk (pageFormat m.2) (pageGeom m.2)) then .ok (l.scaleAt i)
    else .error (l.fault kFormat p)
  else .ok none

/-- The data of an element, past its format: steps 6 of R236 for the element and its scale. -/
def State.mxData (s : State) (o : Op) (f : MxFmt) (p : DWord) (l : Landing) (i pos : Nat) :
    Except Fail (Elem × List Place) :=
  match l.mxPage f p i with
  | .error x => .error x
  | .ok sc =>
    if s.busyFor o (l.bytes ++ sc.toList) then .error (.wait (.drain true))
    else if (s.poisonedByte (l.bytes ++ sc.toList)).isSome then
      .error (.fault { FaultInfo.plain kData with home := s.poisonedByte (l.bytes ++ sc.toList) })
    else
      let x := s.homeValue l.bytes
      .ok (mxElement f (if f = .t6 then t6Get x pos else x) (match sc with | some b => (s.homeByte b).toNat | none => 127),
        l.bytes)

/-- Element (i0, i1) of a record as an engine read (R325). -/
def State.mxRead (s : State) (o : Op) (f : MxFmt) (r : ShapeRec) (i0 i1 : Nat) :
    Except Fail (Elem × List Place) :=
  if f = .t6 then
    let p := r.base + BitVec.ofInt 64 (i1 * r.stride1) + BitVec.ofNat 64 (3 * (i0 / 4))
    match s.translate (s.opRequest o .read 1) p with
    | .error x => .error (x.fail p)
    | .ok l1 =>
      if pagedType l1.type && (l1.inPage % 3 != 0 || l1.inPage + 3 > l1.entry.pageBytes) then .error (alignFail p)
      else
        match s.translate (s.opRequest o .read 3) p with
        | .error x => .error (x.fail p)
        | .ok l =>
          if !(pagedType l.type || plainType l.type) then .error (l.fault kProtection p)
          else s.mxData o f p l (4 * (l.inPage / 3) + i0 % 4) (i0 % 4)
  else
    let n := r.bytes
    let p := r.addr (i0, i1, 0)
    if p.toNat % n ≠ 0 then .error (alignFail p)
    else
      match s.translate (s.opRequest o .read n) p with
      | .error x => .error (x.fail p)
      | .ok l =>
        if !(pagedType l.type || plainType l.type) then .error (l.fault kProtection p)
        else s.mxData o f p l (l.inPage / n) 0

/-- The elements of a record inside its clip, and the first error or the first wait. -/
structure MxRead where
  elems : List (Nat × Elem)
  err : Option FaultInfo
  data : Option (Option Place)
  wait : Bool
  places : List (List Place)

/-- Read the clipped elements in element order; `key` places element (i0, i1). The first error is kept, and whether any is
DATA-UNCORRECTABLE (R332). -/
def State.mxReadAll (s : State) (o : Op) (f : MxFmt) (r : ShapeRec) (key : Nat → Nat → Nat) : MxRead :=
  (indices (r.clip 0) (r.clip 1) 1).foldl
    (fun x i => match s.mxRead o f r i.1 i.2.1 with
      | .ok (e, ps) => { x with elems := Sparse.put elemZero x.elems (key i.1 i.2.1) e, places := ps :: x.places }
      | .error (.wait _) => { x with wait := true }
      | .error (.fault g) =>
        { x with err := (match x.err with | none => some g | some h => some h), data := x.data.or (if g.kind = kData then some g.home else none) })
    { elems := [], err := none, data := none, wait := false, places := [] }

/-- Count the elements read (17 R427). -/
def State.countRead (s : State) (o : Op) (x : MxRead) : State := x.places.foldl (fun s ps => s.countEngine o ps) s

/-- The gang's earlier writes are performed before an operation reads (R334). -/
def State.flushEarlier (s : State) (o : Op) : State :=
  (s.wq.filter (fun w => w.owner == o.owner && w.id < o.id && !s.isBuffered w)).foldl State.performFrom s

/-! ### Errors (R332) -/

/-- The error of a failure, in the fields of a token. -/
def FaultInfo.arrErr (f : FaultInfo) : ArrErr :=
  let t := f.token.toNat
  { kind := t % 256, level := t / 256 % 8, inst := t / 2048 % 32, home := f.home }

def ArrErr.token (e : ArrErr) : Word := BitVec.ofNat 32 (e.kind + e.level * 256 + e.inst * 2048)

/-- An error of this kind alone. -/
def errOf (kind : Nat) : ArrErr := { kind := kind, level := 0, inst := 0, home := none }

/-- Record an error against an accumulator: the first stays, but 0x20 and 0x21 replace any other (R332). -/
def Accum.note (a : Accum) (e : ArrErr) : Accum :=
  let hard (k : Nat) : Bool := k == kData || k == kResidue
  if e.kind = 0 then a
  else if a.err.kind = 0 ∨ (hard e.kind && !hard a.err.kind) = true then { a with err := e }
  else a

/-- The errors of a pass in the ranking of R332. -/
def rankedErrors (r : MxRead) (residue : Bool) (plane : Option Plane) (f : MxFmt) : List ArrErr :=
  let planeErr := match plane with
    | some p => p.err
    | none => .zero
  let wrongFmt := match plane with
    | some p => p.fmt != f
    | none => false
  ((match r.data with
    | some h => [{ errOf kData with home := h }]
    | none => if planeErr.kind = kData then [{ errOf kData with home := planeErr.home }] else []) ++ (if residue then [errOf kResidue] else []) ++
    (if planeErr.kind != 0 then [planeErr] else []) ++ (if wrongFmt then [errOf kFormat] else []) ++
    (match r.err with | some g => [g.arrErr] | none => []))

/-! ### The pass (05 R157, R158) -/

/-- acc := trunc_F32(acc + S) for one group of eight products; every zero result is +0. -/
def groupStep (acc : Nat) (products : List (Option FVal)) : Nat :=
  if products.any (fun p => p.isNone) then f32.nan
  else
    let v := (f32.sum .rz (f32.decode acc :: products.filterMap id)).1
    if v % 2 ^ 31 = 0 then 0 else v

/-- One output element: `a` and `w` by k. -/
def outElement (ovw neg : Bool) (groups : Nat) (old : Word) (a w : Nat → Elem) : Word :=
  let product (k : Nat) : Option FVal := ((a k).val.mul (w k).val).map (fun p => if neg then p.neg else p)
  BitVec.ofNat 32
    ((List.range groups).foldl
      (fun acc g => groupStep acc ((List.range 8).map (fun j => product (8 * g + j)))) (if ovw then 0 else old.toNat))

/-- A pass of `rows` rows into an accumulator (R328). -/
def Accum.pass (a : Accum) (f : MxFmt) (ovw neg : Bool) (row rows : Nat) (x : List (Nat × Elem)) (w : Nat → Nat → Elem) :
    Accum :=
  let put (c : List (Nat × Word)) (i : Nat × Nat × Nat) : List (Nat × Word) :=
    let key := (row + i.2.1) * 32 + i.1
    Sparse.put 0#32 c key (outElement ovw neg (f.rows / 8) (Sparse.get 0#32 a.cells key)
      (fun k => Sparse.get elemZero x (i.2.1 * 128 + k)) (fun k => w k i.1))
  { a with cells := (indices 32 rows 1).foldl put a.cells }

/-! ### Array order (R320, R321) -/

/-- The array that a queued operation acts on; a drain whose rows are taken acts on none. -/
def OpKind.array (k : OpKind) : Option (Fin 4) :=
  match k with
  | .mls a _ _ | .msw a | .mst a _ _ _ _ _ _ | .mred a _ _ _ _ _ _ | .mza a _ | .mdr a _ _ _ _ _ _ => some a
  | _ => none

/-- No earlier operation of the crew is queued for the array. -/
def State.arrayTurn (s : State) (o : Op) : Bool :=
  s.ops.all (fun p => !(p.owner.crewRef == o.owner.crewRef && p.id < o.id && p.kind.array == o.kind.array))

/-- A queued operation of a crew's arrays, its drains included. -/
def State.arrayWork (s : State) (c : CrewRef) : Bool :=
  s.ops.any (fun p => p.owner.crewRef == c && (p.kind.array.isSome || (match p.kind with
    | .drained _ _ _ _ _ _ => true
    | _ => false)))

/-- The arrays of an operation's crew. -/
def State.arrayOf (s : State) (o : Op) (a : Fin 4) : MxArray :=
  match s.crew? o.owner.crewRef with
  | some c => c.arrays[a.val]'a.isLt
  | none => .reset

def State.setArray (s : State) (o : Op) (a : Fin 4) (x : MxArray) : State :=
  s.modCrew o.owner.crewRef (fun c => { c with arrays := c.arrays.set a.val x a.isLt })

def MxArray.setAcc (x : MxArray) (a : Fin 8) (v : Accum) : MxArray := { x with accs := x.accs.set a.val v a.isLt }

/-- The crew on a core whose state its arrays hold. -/
def State.arrayHolder (s : State) (core : Nat) : Option Crew :=
  s.crews.find? (fun c => c.holdsArrays && c.site.isResident && c.site.core == core)

/-- A matrix instruction waits while the core's arrays hold another crew's state (R320). -/
def State.withArrays (s : State) (k : State → Out) : Out :=
  match s.arrayHolder s.myCore with
  | some c => if c.ref = s.g.ref.crewRef then k s else .next (s.again .arrays)
  | none => k s

/-- Start a matrix operation; each Plumb copy has its own arrays (R336). -/
def State.startMatrix (s : State) (i : Instr) (t : SReg) (vals : List DWord) (k : OpKind) : State :=
  (s.startOp i t vals true k).modCrew s.g.ref.crewRef (fun c => { c with usedMatrix := true, holdsArrays := true })

/-- ARRAY_STATE_SWAP: the arrays of a core take another crew's state (R320). -/
def execArrayStateSwap (core : Nat) (c : CrewRef) (s : State) : Out :=
  let waits := s.allGangs.any (fun h => h.ref.crewRef == c && h.sch.run == .arrays)
  let here := match s.crew? c with
    | some k => k.site.isResident && k.site.core == core
    | none => false
  let busy := match s.arrayHolder core with
    | some k => s.arrayWork k.ref
    | none => false
  if waits && here && !busy then
    let turn (k : Crew) : Crew :=
      if k.ref = c then { k with holdsArrays := true }
      else if k.site.isResident && k.site.core == core then { k with holdsArrays := false }
      else k
    let s1 := { s with crews := s.crews.map turn }
    .next (s1.modGangs (fun h => h.ref.crewRef == c && h.sch.run == .arrays)
      (fun h => { h with sch := { h.sch with run := .ready } }))
  else .next s

/-! ### Issue (R322 to R324) -/

/-- The record of a matrix instruction: read precisely, and judged. -/
def State.mxRecord (s : State) (p : DWord) (fits : ShapeRec → Bool) (k : State → ShapeRec → Out) : Out :=
  match s.readAtIssue 32 32 p with
  | .error f => s.failed f
  | .ok v => if shapeDefect v || !fits (ShapeRec.ofNat v) then .next (s.kill .context) else k s (ShapeRec.ofNat v)

/-- R324 for MLS. -/
def mlsShape (f : MxFmt) (r : ShapeRec) : Bool :=
  r.rank == 2 && r.esize == f.esize && r.ext0 == 32 && r.ext1 == f.rows && (f != .t6 || r.stride0 == 0)

/-- R324 for MST and MRED. -/
def mstShape (f : MxFmt) (row : Nat) (r : ShapeRec) : Bool :=
  r.rank == 2 && r.esize == f.esize && r.ext0 == f.rows && 1 ≤ r.ext1 && row + r.ext1 ≤ 64 && (f != .t6 || r.stride0 == 0)

/-- R324 for MDR. -/
def mdrShape (f : DrainFmt) (row : Nat) (r : ShapeRec) : Bool :=
  r.rank == 2 && r.esize == f.esize && r.ext0 == 32 && 1 ≤ r.ext1 && row + r.ext1 ≤ 64

def execMls (arr : BitVec 2) (fmt : MxFmt) (t : SReg) (x : Pair) (s : State) : Out :=
  let i : Instr := .mls arr fmt t x
  s.en (some roleMatrix) true i t (pairRegs x) (fun s => [s.rdP x]) (fun s => s.withArrays (fun s =>
    s.mxRecord (s.rdP x) (mlsShape fmt) (fun s r => .next (s.startMatrix i t [s.rdP x] (.mls arr.toFin fmt r)))))

def execMsw (arr : BitVec 2) (t : SReg) (s : State) : Out :=
  let i : Instr := .msw arr t
  s.en (some roleMatrix) true i t [] (fun _ => []) (fun s => s.withArrays (fun s =>
    .next (s.startMatrix i t [] (.msw arr.toFin))))

def execMst (arr : BitVec 2) (acc : BitVec 3) (neg ovw : Bool) (fmt : MxFmt) (t : SReg) (x : Pair) (row : BitVec 6)
    (s : State) : Out :=
  let i : Instr := .mst arr acc neg ovw fmt t x row
  s.en (some roleMatrix) true i t (pairRegs x) (fun s => [s.rdP x]) (fun s => s.withArrays (fun s =>
    s.mxRecord (s.rdP x) (mstShape fmt row.toNat) (fun s r =>
      .next (s.startMatrix i t [s.rdP x] (.mst arr.toFin acc.toFin neg ovw fmt r row.toNat)))))

def execMred (arr : BitVec 2) (acc : BitVec 3) (neg ovw : Bool) (fmt : MxFmt) (t : SReg) (x : Pair) (row : BitVec 6)
    (s : State) : Out :=
  let i : Instr := .mred arr acc neg ovw fmt t x row
  s.en (some roleMatrix) true i t (pairRegs x) (fun s => [s.rdP x]) (fun s => s.withArrays (fun s =>
    s.mxRecord (s.rdP x) (mstShape fmt row.toNat) (fun s r =>
      .next (s.startMatrix i t [s.rdP x] (.mred arr.toFin acc.toFin neg ovw fmt r row.toNat)))))

def execMza (arr : BitVec 2) (acc : BitVec 3) (t : SReg) (s : State) : Out :=
  let i : Instr := .mza arr acc t
  s.en (some roleMatrix) true i t [] (fun _ => []) (fun s => s.withArrays (fun s =>
    .next (s.startMatrix i t [] (.mza arr.toFin acc.toFin))))

/-- Under Plumb the drained values take the place in the store signature that the instruction has (16 R404). -/
def State.signDrain (s : State) (op : Nat) : State :=
  if s.packet.plumb then s.modG (fun g => { g with plumb := g.plumb.sign [.hole op] }) else s

def execMdr (arr : BitVec 2) (acc : BitVec 3) (add shadow : Bool) (df : DrainFmt) (t : SReg) (x : Pair) (row : BitVec 6)
    (s : State) : Out :=
  let i : Instr := .mdr arr acc add shadow df t x row
  s.en (some roleMatrix) true i t (pairRegs x) (fun s => [s.rdP x]) (fun s => s.withArrays (fun s =>
    s.mxRecord (s.rdP x) (mdrShape df row.toNat) (fun s r =>
      .next ((s.startMatrix i t [s.rdP x] (.mdr arr.toFin acc.toFin add shadow df r row.toNat)).signDrain s.nextId))))

/-! ### The operations (R326 to R331) -/

/-- A queued operation at the head of its array. -/
def State.arrayOp (s : State) (op : Nat) (k : Op → State) : Out :=
  match s.op? op with
  | none => .next s
  | some o => if s.arrayTurn o then .next (k o) else .next s

/-- The shadow plane filled, or none while an element waits (R326). -/
def State.fillPlane (s : State) (o : Op) (a : Fin 4) (f : MxFmt) (r : ShapeRec) : State :=
  let s1 := s.flushEarlier o
  let x := s1.mxReadAll o f r (fun i0 i1 => i1 * 32 + i0)
  if x.wait then s
  else
    let e := match x.err with
      | some g => g.arrErr
      | none => .zero
    let arr := s1.arrayOf o a
    ((s1.countRead o x).setArray o a { arr with shadow := { fmt := f, err := e, elems := x.elems } }).endOp o e.token

def execMlsFill (op : Nat) (s : State) : Out :=
  s.arrayOp op (fun o => match o.kind with
    | .mls a f r => s.fillPlane o a f r
    | _ => s)

def execMswExchange (op : Nat) (s : State) : Out :=
  s.arrayOp op (fun o => match o.kind with
    | .msw a =>
      let x := s.arrayOf o a
      (s.setArray o a { x with active := x.shadow, shadow := x.active }).endOp o 0#32
    | _ => s)

/-- MST: the active plane streams into an accumulator (R328). `residue` says whether a residue mismatch was met. -/
def State.passOf (s : State) (o : Op) (a : Fin 4) (c : Fin 8) (neg ovw : Bool) (f : MxFmt) (r : ShapeRec) (row : Nat)
    (residue : Bool) : State :=
  let s1 := s.flushEarlier o
  let x := s1.mxReadAll o f r (fun i0 i1 => i1 * 128 + i0)
  if x.wait then s
  else
    let arr := s1.arrayOf o a
    let errs := rankedErrors x residue (some arr.active) f
    let acc := (arr.accs[c.val]'c.isLt).pass f ovw neg row r.ext1 x.elems
      (fun k n => Sparse.get elemZero arr.active.elems (k * 32 + n))
    let acc1 := match errs with
      | e :: _ => acc.note e
      | [] => acc
    ((s1.countRead o x).setArray o a (arr.setAcc c acc1)).endOp o
      (match errs.find? (fun e => e.kind != kResidue) with
       | some e => e.token
       | none => 0#32)

def execMstPass (op : Nat) (residue : Bool) (s : State) : Out :=
  s.arrayOp op (fun o => match o.kind with
    | .mst a c neg ovw f r row => s.passOf o a c neg ovw f r row residue
    | _ => s)

/-- MRED: a plane of ones, and the accumulator's error as the token (R329). -/
def State.redOf (s : State) (o : Op) (a : Fin 4) (c : Fin 8) (neg ovw : Bool) (f : MxFmt) (r : ShapeRec) (row : Nat)
    (residue : Bool) : State :=
  let s1 := s.flushEarlier o
  let x := s1.mxReadAll o f r (fun i0 i1 => i1 * 128 + i0)
  if x.wait then s
  else
    let arr := s1.arrayOf o a
    let acc := (arr.accs[c.val]'c.isLt).pass f ovw neg row r.ext1 x.elems (fun _ _ => .fin false 1 0)
    let acc1 := match rankedErrors x residue none f with
      | e :: _ => acc.note e
      | [] => acc
    ((s1.countRead o x).setArray o a (arr.setAcc c acc1)).endOp o acc1.err.token acc1.err.home

def execMredPass (op : Nat) (residue : Bool) (s : State) : Out :=
  s.arrayOp op (fun o => match o.kind with
    | .mred a c neg ovw f r row => s.redOf o a c neg ovw f r row residue
    | _ => s)

def execMzaClear (op : Nat) (s : State) : Out :=
  s.arrayOp op (fun o => match o.kind with
    | .mza a c => (s.setArray o a ((s.arrayOf o a).setAcc c .reset)).endOp o 0#32
    | _ => s)

/-- The clipped elements of a drain with their values, in element order (R331). -/
def drainCells (r : ShapeRec) (vals : List Word) : List ((Nat × Nat × Nat) × Word) :=
  (indices (r.clip 0) (r.clip 1) 1).map (fun i => (i, vals.getD (i.2.1 * 32 + i.1) 0#32))

/-- MDR takes its rows at its place in array order (R331). -/
def State.takeRows (s : State) (o : Op) (a : Fin 4) (c : Fin 8) (ad shadow : Bool) (df : DrainFmt) (r : ShapeRec)
    (row : Nat) : State :=
  let acc := (s.arrayOf o a).accs[c.val]'c.isLt
  if acc.err.kind ≠ 0 then (s.modGang o.owner (fillSig o.id [])).endOp o acc.err.token acc.err.home
  else
    let vals := (List.range (r.ext1 * 32)).map (fun j => Sparse.get 0#32 acc.cells (row * 32 + j))
    let s1 := s.modGang o.owner (fillSig o.id ((drainCells r vals).map (fun x => x.2.setWidth 64)))
    { s1 with ops := s1.ops.map (fun p => if p.id = o.id then { p with kind := .drained vals acc.err ad shadow df r } else p) }

def execMdrDrain (op : Nat) (s : State) : Out :=
  s.arrayOp op (fun o => match o.kind with
    | .mdr a c ad shadow df r row => s.takeRows o a c ad shadow df r row
    | _ => s)

/-- The bytes that a drained element becomes (R331). -/
def drainValue (df : DrainFmt) (v : Word) : Nat :=
  match df with
  | .f32 => v.toNat
  | .f16 => (convert (.float f16) (.float f32) .rn v.toNat).1
  | .bf16 => (convert (.float bf16) (.float f32) .rn v.toNat).1

/-- One element of a drain. -/
def drainElement (o : Op) (ad shadow : Bool) (df : DrainFmt) (r : ShapeRec) (x : Xfer)
    (c : (Nat × Nat × Nat) × Word) : Xfer :=
  if x.fail.isSome then x
  else
    let p := r.addr c.1
    match x.st.engineTarget o (if ad then .atomic else .write) (if ad then .atomic else .store) shadow r.bytes r.bytes p with
    | .error f => { x with fail := some f }
    | .ok l =>
      let s1 := (x.st.flushBefore o l.bytes).countEngine o l.bytes
      if ad then
        if (s1.poisonedByte l.bytes).isSome then
          { x with st := s1, fail := some (.fault { FaultInfo.plain kData with home := s1.poisonedByte l.bytes }) }
        else
          { x with
            st := s1.engineAtomic o l true (leBytes 4 c.2.toNat) (f32.add .rn (s1.homeValue l.bytes) c.2.toNat).1
            wrote := x.wrote ++ l.bytes }
      else { x with st := s1.enginePut o l (drainValue df c.2), wrote := x.wrote ++ l.bytes }

/-- The place lies in the allocation of an operation's crew. -/
def State.opOwns (s : State) (o : Op) (p : Place) : Bool :=
  let q := s.opRequest o .write 1
  match p with
  | .scratch c off => c == q.core && q.base ≤ off && off < q.base + q.alloc
  | _ => false

/-- Every element of a transfer lands in the crew's own allocation (16 R407); none while a lookup is held (09 R280). -/
def State.opOwnTarget (s : State) (o : Op) (r : ShapeRec) (cells : List (Nat × Nat × Nat)) : Option Bool :=
  let at' (i : Nat × Nat × Nat) : Except Stop Landing := s.translate (s.opRequest o .write r.bytes) (r.addr i)
  if cells.any (fun i => match at' i with | .error (.wait _) => true | _ => false) then none
  else some (cells.all (fun i => match at' i with
    | .ok l => l.bytes.all (s.opOwns o)
    | .error _ => false))

/-- The writes of a drain (R331). -/
def State.finishDrain (s : State) (o : Op) (vals : List Word) (ad shadow : Bool) (df : DrainFmt) (r : ShapeRec) : State :=
  let cells := drainCells r vals
  if o.owner.twin && s.opOwnTarget o r (cells.map Prod.fst) == none then s
  else if o.owner.twin && s.opOwnTarget o r (cells.map Prod.fst) == some false then s.endOp o 0#32
  else
    let x := cells.foldl (drainElement o ad shadow df r) (.start s)
    match x.fail with
    | some (.wait _) => s
    | some (.fault f) => x.close.endWhenSent o f.token .noFlag f.home
    | none => x.close.endWhenSent o 0#32

def execMdrCompletion (op : Nat) (s : State) : Out :=
  match s.op? op with
  | none => .next (s.settleOp op)
  | some o =>
    match o.kind with
    | .drained vals _ ad shadow df r => .next (s.finishDrain o vals ad shadow df r)
    | _ => .next s

end Sys2Proof.Machine
end

