-- ==== Sys2Proof/Machine/Trowel.lean ====
section
/-! DEFINITION. The Trowel dispatch engine (13 R337 to R357). -/

namespace Sys2Proof.Machine

/-! ### Descriptors (R337, R338) -/

/-- Word `i` of a value of little-endian 64-bit words. -/
def word64 (v i : Nat) : DWord := BitVec.ofNat 64 (v / 2 ^ (64 * i))

def Descriptor.ofNat (v : Nat) : Descriptor :=
  let w0 := word64 v 0
  let w1 := word64 v 1
  let w2 := word64 v 2
  { word0 := w0
    word1 := w1
    nexp := (w0.extractLsb' 32 12).toNat + 1
    k := (w0.extractLsb' 24 3).toNat + 1
    myRank := (w0.extractLsb' 16 6).toNat
    npart := (w0.extractLsb' 8 6).toNat + 1
    pass := w0.getLsbD 1
    renorm := w0.getLsbD 0
    cap := (w1.extractLsb' 40 24).toNat
    rowBytes := (w1.extractLsb' 0 24).toNat
    mySlots := (w2.extractLsb' 32 16).toNat
    ntok := (w2.extractLsb' 0 24).toNat
    part := word64 v 3
    emap := word64 v 4
    ctx := word64 v 5
    route := word64 v 6
    rows := word64 v 7
    out := word64 v 8 }

def descriptorDefect (v : Nat) : Bool :=
  let d := Descriptor.ofNat v
  let w2 := word64 v 2
  d.word0.extractLsb' 44 20 != 0#20 || d.word0.extractLsb' 27 5 != 0#5 || d.word0.extractLsb' 22 2 != 0#2 ||
    d.word0.extractLsb' 14 2 != 0#2 || d.word0.extractLsb' 2 6 != 0#6 || d.word1.extractLsb' 24 16 != 0#16 ||
    w2.extractLsb' 48 16 != 0#16 || w2.extractLsb' 24 8 != 0#8 || v / 2 ^ 576 != 0 || d.myRank ≥ d.npart || d.cap == 0 ||
    d.rowBytes % 16 != 0 || d.rowBytes < 16 || d.rowBytes > 65536 || d.mySlots > 4096 || d.mySlots * d.cap ≥ 2 ^ 32 ||
    d.part.toNat % 32 != 0 || d.emap.toNat % 4 != 0 || d.ctx.toNat % 1024 != 0 || d.route.toNat % 8 != 0 ||
    d.rows.toNat % 16 != 0 || d.out.toNat % 16 != 0

/-! ### The context area (R343) -/

def alignUp (n a : Nat) : Nat := (n + a - 1) / a * a

/-- Bytes of a count vector, and of a row of the count matrix. -/
def Descriptor.cntBytes (d : Descriptor) : Nat := 4 * d.k * d.nexp
def Descriptor.gcmRow (d : Descriptor) : Nat := 32 + d.cntBytes

def Descriptor.offGcm (d : Descriptor) : Nat := alignUp (0x400 + d.cntBytes) 256
def Descriptor.offOfs (d : Descriptor) : Nat := alignUp (d.offGcm + 2 * d.npart * d.gcmRow) 256
def Descriptor.offFwd (d : Descriptor) : Nat := alignUp (d.offOfs + d.cntBytes) 256
def Descriptor.offInv (d : Descriptor) : Nat := alignUp (d.offFwd + 16 * d.ntok * d.k) 256
def Descriptor.offDrop (d : Descriptor) : Nat := alignUp (d.offInv + 16 * d.mySlots * d.cap) 256
def Descriptor.offStg (d : Descriptor) : Nat := alignUp (d.offDrop + 8 * d.ntok * d.k) 256
def Descriptor.areaSize (d : Descriptor) : Nat := d.offStg + d.rowBytes * d.ntok * d.k

/-- A pointer `n` bytes on. -/
def ptrAt (p : DWord) (n : Nat) : DWord := p + BitVec.ofNat 64 n

/-- Row (h, p) of the count matrix in an area (R343). -/
def Descriptor.gcmAt (d : Descriptor) (area : DWord) (h p : Nat) : DWord :=
  ptrAt area (d.offGcm + (h * d.npart + p) * d.gcmRow)

/-- STATE (R344). -/
def stCounted : Nat := 1
def stPlanned : Nat := 2
def stScattered : Nat := 3
def stGathered : Nat := 4

/-! ### Engine steps: an error ends the operation at that point, and its writes stay (R348) -/

abbrev Eng := EStateM Fail State

def engFail {α : Type} (f : Fail) : Eng α := fun s => .error f s

/-- A group error (R348). -/
def groupError {α : Type} : Eng α := engFail (.fault (.plain kProtection))

/-- An engine read. -/
def engRead (o : Op) (n align : Nat) (p : DWord) : Eng Nat := fun s =>
  match s.engineSource o n align p with
  | .error f => .error f s
  | .ok l => if (s.poisonedByte l.bytes).isSome then .error (.fault (.plain kData)) s else .ok (s.homeValue l.bytes) (s.countEngine o l.bytes)

/-- An engine write: only those of DSCAT are BULK, the count rows of DPLAN and DGATH are not (18 R438). -/
def engWrite (o : Op) (n align : Nat) (p : DWord) (v : Nat) : Eng Unit := fun s =>
  match s.engineTarget o .write .store false n align p with
  | .error f => .error f s
  | .ok l => .ok () ((s.countEngine o l.bytes).enginePut o l v (bulk := match o.kind with | .dscat _ _ => true | _ => false))

/-- Copy one run of `n` bytes; an uncorrectable source poisons the destination (R481). -/
def engCopy (o : Op) (n : Nat) (src dst : DWord) : Eng Unit := fun s =>
  match s.engineSource o n 1 src with
  | .error f => .error f s
  | .ok a =>
    match s.engineTarget o .write .store false n 1 dst with
    | .error f => .error f s
    | .ok b =>
      if (s.poisonedByte a.bytes).isSome then
        .error (.fault (.plain kData)) ((s.enginePut o b (s.homeValue a.bytes) true).taintPlaces b.bytes)
      else .ok () (((s.countEngine o a.bytes).countEngine o b.bytes).enginePut o b (s.homeValue a.bytes))

/-- Copy a row in runs of 32 bytes or what is left. -/
def engCopyRow (o : Op) (h : Nat) (src dst : DWord) : Eng Unit :=
  (List.range ((h + 31) / 32)).forM (fun i => engCopy o (min 32 (h - 32 * i)) (ptrAt src (32 * i)) (ptrAt dst (32 * i)))

/-- Add 1 to the COUNT of a binder as SEMP adds, with its checks (R353, R285). -/
def engSem (o : Op) (p : DWord) : Eng Unit := fun s =>
  match s.checkAt (s.opRequest o .atomic 32) .atomic 32 p with
  | .error f => .error f s
  | .ok l =>
    if s.busyFor o l.bytes then .error (.wait (.drain true)) s
    else .ok () (s.engineAtomic o l false (leBytes 4 1) ((s.binderAt l.bytes).add 1).value)

/-- Run a step of an operation: a wait leaves everything as it was, an error is the token. -/
def State.runEng (s : State) (o : Op) (m : Eng Unit) (k : State → State) : State :=
  match m (s.flushEarlier o) with
  | .ok _ t => k t
  | .error (.wait _) _ => s
  | .error (.fault f) t => t.endWhenSent o f.token

/-! ### Tables -/

/-- A participant (R339). -/
structure Participant where
  dev : Nat
  inBase : DWord
  outBase : DWord
  ctxBase : DWord

def readPart (o : Op) (d : Descriptor) (p : Nat) : Eng Participant := do
  let v ← engRead o 32 1 (ptrAt d.part (32 * p))
  pure { dev := v % 4096, inBase := word64 v 1, outBase := word64 v 2, ctxBase := word64 v 3 }

/-- The participant table; the entry of MYRANK names this device (R348). -/
def readParts (o : Op) (d : Descriptor) : Eng (List Participant) := do
  let ps ← (List.range d.npart).mapM (readPart o d)
  let s ← get
  if (ps[d.myRank]?).map Participant.dev = some s.pkg.device then pure ps else groupError

/-- The expert map (R340). -/
def readEmap (o : Op) (d : Descriptor) : Eng (List Nat) := (List.range d.nexp).mapM (fun e => engRead o 4 4 (ptrAt d.emap (4 * e)))

/-- Rank and slot of a valid entry (R340). -/
def entryHome (d : Descriptor) (v : Nat) : Option (Nat × Nat) :=
  let b := BitVec.ofNat 32 v
  if b.extractLsb' 28 4 ≠ 0#4 ∨ b.extractLsb' 6 10 ≠ 0#10 ∨ v % 64 ≥ d.npart then none
  else some (v % 64, (b.extractLsb' 16 12).toNat)

/-- Rank and slot of a valid expert (R340). -/
def expertHome (d : Descriptor) (emap : List Nat) (e : Nat) : Option (Nat × Nat) := emap[e]?.bind (entryHome d)

/-- A routing entry: the expert id as routed, whether a reserved bit makes it invalid, and the gate (R341, R350). -/
def readRoute (o : Op) (d : Descriptor) (t c : Nat) : Eng (Nat × Bool × Nat) := do
  let v ← engRead o 8 8 (ptrAt d.route (8 * (t * d.k + c)))
  pure (v % 65536, v / 65536 % 65536 == 0, v / 2 ^ 32)

/-- The home of the expert that a routing entry names. -/
def routedHome (d : Descriptor) (emap : List Nat) (r : Nat × Bool × Nat) : Option (Nat × Nat) :=
  if r.2.1 then expertHome d emap r.1 else none

/-- The group digest (R342). -/
def groupDigest (d : Descriptor) (ps : List Participant) (emap : List Nat) : DWord :=
  let mix (x : DWord) (v : Nat) : DWord := x.rotateLeft 7 ^^^ BitVec.ofNat 64 v
  let d1 := mix (d.word0 &&& ~~~ 0x3F0000#64) d.word1.toNat
  emap.foldl mix ((ps.map Participant.dev).foldl mix d1)

/-- SEQ and STATE (R344). -/
def readSeq (o : Op) (d : Descriptor) : Eng (Nat × Nat) := do
  let v ← engRead o 8 8 d.ctx
  pure (v / 2 ^ 32, v % 256)

/-- The operation's STATE (R349). -/
def needState (o : Op) (d : Descriptor) (st : Nat) : Eng Nat := do
  let (seq, now) ← readSeq o d
  if now = st then pure seq else groupError

def putState (o : Op) (d : Descriptor) (seq st : Nat) : Eng Unit := engWrite o 8 8 d.ctx (seq * 2 ^ 32 + st)

/-! ### DCNT (R350) -/

/-- The offsets of R343 in the header (R344), modulo the width of its fields (log entry 124). -/
def writeOffsets (o : Op) (d : Descriptor) : Eng Unit := do
  engWrite o 8 8 (ptrAt d.ctx 0x18) (d.offGcm % 2 ^ 32 * 2 ^ 32 + 0x400)
  engWrite o 8 8 (ptrAt d.ctx 0x20) (d.offFwd % 2 ^ 32 * 2 ^ 32 + d.offOfs % 2 ^ 32)
  engWrite o 8 8 (ptrAt d.ctx 0x28) (d.offDrop % 2 ^ 32 * 2 ^ 32 + d.offInv % 2 ^ 32)
  engWrite o 8 8 (ptrAt d.ctx 0x30) (d.areaSize % 2 ^ 32 * 2 ^ 32 + d.offStg % 2 ^ 32)

/-- Choices (t, c) in ascending order. -/
def Descriptor.choices (d : Descriptor) : List (Nat × Nat) :=
  ((List.range d.ntok).map (fun t => (List.range d.k).map (fun c => (t, c)))).flatten

/-- One choice is counted: cnt[c][e] is raised in the area when its expert is valid. The counts are the operation's own until it ends
(log entry 105). -/
def countChoice (o : Op) (d : Descriptor) (cnt : List Nat) (tc : Nat × Nat) : Eng (List Nat) := do
  let r ← readRoute o d tc.1 tc.2
  if r.2.1 && r.1 < d.nexp then
    let v ← engRead o 4 4 (ptrAt d.emap (4 * r.1))
    if (entryHome d v).isSome then
      let i := tc.2 * d.nexp + r.1
      let n := cnt.getD i 0 + 1
      engWrite o 4 4 (ptrAt d.ctx (0x400 + 4 * i)) n
      pure (cnt.set i n)
    else pure cnt
  else pure cnt

def runDcnt (o : Op) (d : Descriptor) : Eng Unit := do
  let (old, st) ← readSeq o d
  let seq := (old + 1) % 2 ^ 32
  putState o d seq st
  writeOffsets o d
  engWrite o 8 8 (ptrAt d.ctx 0x08) 0
  engWrite o 8 8 (ptrAt d.ctx 0x10) 0
  (List.range (d.k * d.nexp)).forM (fun i => engWrite o 4 4 (ptrAt d.ctx (0x400 + 4 * i)) 0)
  (List.range (d.mySlots * d.cap)).forM (fun r => engWrite o 16 16 (ptrAt d.ctx (d.offInv + 16 * r)) 0)
  let b0 ← engRead o 8 8 (ptrAt d.ctx 0x40)
  engWrite o 8 8 (ptrAt d.ctx 0x40) (b0 / 4 * 4 + 3)
  let _ ← d.choices.foldlM (countChoice o d) (List.replicate (d.k * d.nexp) 0)
  putState o d seq stCounted

/-! ### DPLAN (R351, R352) -/

/-- Round 1: this participant's counts and row header at every participant; a row starts at a multiple of 4 (R343). -/
def dplanCounts (o : Op) (d : Descriptor) : Eng Unit := do
  let seq ← needState o d stCounted
  let ps ← readParts o d
  let emap ← readEmap o d
  let cnt ← (List.range (d.k * d.nexp)).mapM (fun i => engRead o 4 4 (ptrAt d.ctx (0x400 + 4 * i)))
  ps.forM (fun q => do
    let row := d.gcmAt q.ctxBase (seq % 2) d.myRank
    (List.range cnt.length).forM (fun i => engWrite o 4 4 (ptrAt row (32 + 4 * i)) (cnt.getD i 0))
    engWrite o 8 4 (ptrAt row 8) (groupDigest d ps emap).toNat
    engWrite o 8 4 (ptrAt row 16) (d.offStg % 2 ^ 32 * 2 ^ 32 + d.offInv % 2 ^ 32)
    engWrite o 8 4 (ptrAt row 24) 0
    engWrite o 8 4 row (d.mySlots * 2 ^ 48 + seq))

/-- Header words of row (h, p): SEQ, NSLOTS, DIGEST, OFFINV, OFFSTG (R346). -/
structure RowHead where
  seq : Nat
  nslots : Nat
  digest : DWord
  offInv : Nat
  offStg : Nat

def readRow (o : Op) (d : Descriptor) (h p : Nat) : Eng RowHead := do
  let v ← engRead o 32 4 (d.gcmAt d.ctx h p)
  pure { seq := v % 2 ^ 32, nslots := v / 2 ^ 48 % 2 ^ 16, digest := word64 v 1, offInv := v / 2 ^ 128 % 2 ^ 32,
         offStg := v / 2 ^ 160 % 2 ^ 32 }

/-- G[p][c][e], by p and the count vector's order. -/
def readCounts (o : Op) (d : Descriptor) (h p : Nat) : Eng (List Nat) :=
  (List.range (d.k * d.nexp)).mapM (fun i => engRead o 4 4 (ptrAt (d.gcmAt d.ctx h p) (32 + 4 * i)))

/-- Σ over p of G[p][c][e]. -/
def globalCount (d : Descriptor) (g : List (List Nat)) (c e : Nat) : Nat := (g.map (fun x => x.getD (c * d.nexp + e) 0)).sum

/-- off[c][e] (R351). -/
def offsetOf (d : Descriptor) (g : List (List Nat)) (c e : Nat) : Nat :=
  ((List.range c).map (fun c2 => globalCount d g c2 e)).sum +
    ((g.take d.myRank).map (fun x => x.getD (c * d.nexp + e) 0)).sum

/-- Rank and slot of two valid experts coincide (R340). -/
def slotClash (d : Descriptor) (emap : List Nat) : Bool :=
  let hs := (List.range d.nexp).filterMap (expertHome d emap)
  hs.eraseDups.length != hs.length

/-- Where a choice goes (R351). -/
inductive Fate where
  | placed (dest row : Nat)
  | dropped (reason : Nat)
  | passed
  deriving DecidableEq, Repr

def Fate.survives (f : Fate) : Bool :=
  match f with
  | .placed _ _ | .passed => true
  | .dropped _ => false

/-- A planned choice: token, choice, expert id as routed, gate and fate. -/
structure Planned where
  token : Nat
  choice : Nat
  expert : Nat
  named : Bool
  gate : Nat
  fate : Fate
  deriving DecidableEq, Repr

/-- The plan of one choice after the plans of the choices before it; `r` is its routing entry. -/
def planChoice (d : Descriptor) (emap : List Nat) (g : List (List Nat)) (done : List Planned) (t c : Nat) (r : Nat × Bool × Nat) :
    Planned :=
  { token := t, choice := c, expert := r.1, named := r.2.1, gate := r.2.2
    fate := match routedHome d emap r with
      | none => .dropped 2
      | some (rank, slot) =>
        let before := (done.filter (fun x => x.token < t && x.choice == c && x.expert == r.1 && x.named)).length
        let pos := offsetOf d g c r.1 + before
        if pos < d.cap then .placed rank (slot * d.cap + pos) else if d.pass then .passed else .dropped 1 }

/-- REASON of a planned choice's drop record (R351); a placed one has none. -/
def Planned.reason (p : Planned) : Option Nat :=
  match p.fate with
  | .placed _ _ => none
  | .dropped n => some n
  | .passed => some 1

/-- An exact quotient of dyadics rounded once to F32, to nearest (R352). -/
def quotientF32 (neg : Bool) (m : Nat) (e : Int) (n : Nat) (f : Int) : Nat :=
  let k := 64 + Nat.log2 n
  let q := m * 2 ^ k / n
  let sticky := if m * 2 ^ k % n = 0 then 0 else 1
  (f32.round .rn neg (2 * q + sticky) (e - f - k - 1)).1

/-- The gates of one token: every gate with whether its choice survives (R352). -/
def gatesOf (renorm : Bool) (gs : List (Nat × Bool)) : List Nat :=
  let vals := gs.map (fun g => (f32.decode g.1, g.2))
  let terms := vals.filterMap (fun v => match v.1 with
    | .fin s m e => some ((s, m, e), v.2)
    | .inf _ | .nan _ => none)
  let (sn, se) := exactSum (terms.map Prod.fst)
  let (vn, ve) := exactSum ((terms.filter Prod.snd).map Prod.fst)
  gs.map (fun g =>
    if renorm && g.2 && terms.length == gs.length && vn != 0 then
      match f32.decode g.1 with
      | .fin s m e => quotientF32 ((s ^^ decide (sn < 0)) ^^ decide (vn < 0)) (m * sn.natAbs) (e + se) vn.natAbs ve
      | .inf _ | .nan _ => g.1
    else g.1)

/-- Forward entry, inverse entry and drop record (R345, R346). -/
def forwardEntry (gate expert : Nat) (f : Fate) : Nat :=
  gate * 2 ^ 96 + expert * 2 ^ 64 + (match f with
    | .placed dest row => row % 2 ^ 32 * 2 ^ 32 + dest * 256 + 1
    | .dropped _ => 2
    | .passed => 3)

def inverseEntry (gate token choice src : Nat) : Nat := gate * 2 ^ 96 + token * 2 ^ 40 + choice * 2 ^ 32 + src * 4 + 1

def dropRecord (token choice expert reason : Nat) : Nat := token * 2 ^ 40 + choice * 2 ^ 32 + expert * 2 ^ 16 + reason

/-- Forward entry (t, c) of the own area. -/
def Descriptor.forwardAt (d : Descriptor) (t c : Nat) : DWord := ptrAt d.ctx (d.offFwd + 16 * (t * d.k + c))

/-- One choice is planned: its forward entry, with the routed gate until R352 sets GATE, then its drop record (R351). -/
def planStep (o : Op) (d : Descriptor) (emap : List Nat) (g : List (List Nat)) (done : List Planned) (tc : Nat × Nat) :
    Eng (List Planned) := do
  let r ← readRoute o d tc.1 tc.2
  let p := planChoice d emap g done tc.1 tc.2 r
  engWrite o 16 16 (d.forwardAt p.token p.choice) (forwardEntry p.gate p.expert p.fate)
  match p.reason with
  | none => pure ()
  | some n =>
    engWrite o 8 8 (ptrAt d.ctx (d.offDrop + 8 * (done.filterMap Planned.reason).length)) (dropRecord p.token p.choice p.expert n)
  pure (done ++ [p])

/-- The plan of round 1 and the inverse entries of round 2 (R351). -/
def dplanPlan (o : Op) (d : Descriptor) (seq : Nat) (heads : List RowHead) : Eng Unit := do
  let ps ← readParts o d
  let emap ← readEmap o d
  let digest := groupDigest d ps emap
  let overSlot := (List.range d.nexp).any (fun e => match expertHome d emap e with
    | some (r, sl) => (match heads[r]? with
      | some x => sl ≥ x.nslots
      | none => true)
    | none => false)
  if heads.any (fun x => x.digest != digest) || overSlot || slotClash d emap then groupError
  let g ← (List.range d.npart).mapM (readCounts o d (seq % 2))
  (List.range d.k).forM (fun c => (List.range d.nexp).forM (fun e =>
    engWrite o 4 4 (ptrAt d.ctx (d.offOfs + 4 * (c * d.nexp + e))) (offsetOf d g c e % 2 ^ 32)))
  let fs ← d.choices.foldlM (planStep o d emap g) []
  let gated := ((List.range d.ntok).map (fun t =>
    let mine := fs.filter (fun f => f.token == t)
    mine.zip (gatesOf d.renorm (mine.map (fun f => (f.gate, f.fate.survives)))))).flatten
  gated.forM (fun x => engWrite o 4 4 (ptrAt (d.forwardAt x.1.token x.1.choice) 12) x.2)
  let drops := (fs.filterMap Planned.reason).length
  engWrite o 8 8 (ptrAt d.ctx 0x08) (drops * 2 ^ 32 + (fs.length - drops))
  gated.forM (fun x => match x.1.fate with
    | .placed dest row =>
      (match ps[dest]?, heads[dest]? with
       | some q, some hd =>
         engWrite o 16 16 (ptrAt q.ctxBase (hd.offInv + 16 * row)) (inverseEntry x.2 x.1.token x.1.choice d.myRank)
       | _, _ => groupError)
    | .dropped _ | .passed => pure ())
  ps.forM (fun q => engWrite o 4 4 (ptrAt q.ctxBase (0x100 + 4 * d.myRank)) seq)

/-- An operation that waits ends with PEER-UNREACHABLE when a participant's device is not reachable (R357). -/
def engWait {α : Type} (o : Op) (d : Descriptor) : Eng α := do
  let ps ← readParts o d
  let s ← get
  if ps.any (fun p => p.dev != s.pkg.device && !s.fab.reach.contains p.dev) then engFail (.fault (.plain kPeer))
  else engFail (.wait (.drain true))

/-- Every row of the half holds the SEQ, or the operation still waits. -/
def waitRows (o : Op) (d : Descriptor) : Eng (Nat × List RowHead) := do
  let (seq, _) ← readSeq o d
  let heads ← (List.range d.npart).mapM (readRow o d (seq % 2))
  if heads.all (fun x => x.seq == seq) then pure (seq, heads) else engWait o d

/-- Every tag at `off` holds the SEQ, or the operation still waits. -/
def waitTags (o : Op) (d : Descriptor) (off : Nat) : Eng Nat := do
  let (seq, _) ← readSeq o d
  let ts ← (List.range d.npart).mapM (fun p => engRead o 4 4 (ptrAt d.ctx (off + 4 * p)))
  if ts.all (fun t => t == seq) then pure seq else engWait o d

/-- Rows owned here (R351), for one slot. -/
def slotFill (d : Descriptor) (emap : List Nat) (g : List (List Nat)) (slot : Nat) : Nat :=
  match (List.range d.nexp).find? (fun e => expertHome d emap e == some (d.myRank, slot)) with
  | some e => min d.cap ((List.range d.k).map (fun c => globalCount d g c e)).sum
  | none => 0

def dplanEnd (o : Op) (d : Descriptor) : Eng Unit := do
  let seq ← waitTags o d 0x100
  let emap ← readEmap o d
  let g ← (List.range d.npart).mapM (readCounts o d (seq % 2))
  let slots := ((List.range d.nexp).filterMap (expertHome d emap)).filterMap (fun h => if h.1 = d.myRank then some h.2 else none)
  engWrite o 8 8 (ptrAt d.ctx 0x10) ((slots.eraseDups.map (slotFill d emap g)).sum % 2 ^ 32 * 2 ^ 32)
  putState o d seq stPlanned

/-! ### DSCAT (R353) -/

def runDscat (o : Op) (d : Descriptor) : Eng Unit := do
  let seq ← needState o d stPlanned
  let ps ← readParts o d
  d.choices.forM (fun tc => do
    let v ← engRead o 16 16 (d.forwardAt tc.1 tc.2)
    if v % 4 = 1 then
      match ps[v / 256 % 64]? with
      | some q =>
        engCopyRow o d.rowBytes (ptrAt d.rows (tc.1 * d.rowBytes)) (ptrAt q.inBase (v / 2 ^ 32 % 2 ^ 32 * d.rowBytes))
      | none => groupError)
  (List.range d.npart).forM (fun p => if p = d.myRank then pure () else
    match ps[p]? with
    | some q => engSem o (ptrAt q.ctxBase 0x40)
    | none => pure ())
  putState o d seq stScattered

/-! ### DGATH (R354) -/

def dgathPush (o : Op) (d : Descriptor) : Eng Unit := do
  let seq ← needState o d stScattered
  let ps ← readParts o d
  let me := ps.getD d.myRank { dev := 0, inBase := 0#64, outBase := 0#64, ctxBase := 0#64 }
  (List.range (d.mySlots * d.cap)).forM (fun r => do
    let v ← engRead o 16 16 (ptrAt d.ctx (d.offInv + 16 * r))
    if v % 2 = 1 then
      let src := v / 4 % 64
      match ps[src]? with
      | some q =>
        let hd ← readRow o d (seq % 2) src
        engCopyRow o d.rowBytes (ptrAt me.outBase (r * d.rowBytes))
          (ptrAt q.ctxBase (hd.offStg + d.rowBytes * (v / 2 ^ 40 % 2 ^ 24 * d.k + v / 2 ^ 32 % 8)))
      | none => groupError)
  ps.forM (fun q => engWrite o 4 4 (ptrAt q.ctxBase (0x200 + 4 * d.myRank)) seq)

/-- One choice of a combined element (R354); a placed one names a participant (R348). -/
def combineStep (o : Op) (d : Descriptor) (t j : Nat) (acc c : Nat) : Eng Nat := do
  let f ← engRead o 16 16 (d.forwardAt t c)
  let gate := f / 2 ^ 96
  if f % 4 = 1 then
    if f / 256 % 64 ≥ d.npart then groupError
    else
      let y ← engRead o 4 4 (ptrAt d.ctx (d.offStg + d.rowBytes * (t * d.k + c) + 4 * j))
      pure (f32.fma .rn false false gate y acc).1
  else if f % 4 = 3 then
    let y ← engRead o 4 4 (ptrAt d.rows (t * d.rowBytes + 4 * j))
    pure (f32.fma .rn false false gate y acc).1
  else pure acc

/-- The combine, once every tag is there. A Plumb secondary leaves the area as it is (16 R403). -/
def dgathEnd (o : Op) (d : Descriptor) : Eng Unit := do
  let seq ← waitTags o d 0x200
  (List.range d.ntok).forM (fun t => (List.range (d.rowBytes / 4)).forM (fun j => do
    let v ← (List.range d.k).foldlM (combineStep o d t j) 0
    engWrite o 4 4 (ptrAt d.out (t * d.rowBytes + 4 * j)) v))
  if o.owner.twin then pure () else putState o d seq stGathered

/-! ### DSTAT (R355) -/

def runDstat (o : Op) (d : Descriptor) (sel : DstatSel) (y z : Word) : Eng Nat := do
  let (seq, st) ← readSeq o d
  match sel with
  | .seq => pure seq
  | .state => pure st
  | .nplaced => engRead o 4 4 (ptrAt d.ctx 0x08)
  | .ndrop => engRead o 4 4 (ptrAt d.ctx 0x0C)
  | .nrecv => engRead o 4 4 (ptrAt d.ctx 0x14)
  | .fill _ =>
    if y.toNat ≥ d.mySlots then pure 0
    else
      let emap ← readEmap o d
      let g ← (List.range d.npart).mapM (readCounts o d (seq % 2))
      pure (slotFill d emap g y.toNat)
  | .gcount _ _ =>
    if z.toNat ≥ d.k ∨ y.toNat ≥ d.nexp then pure 0
    else
      let g ← (List.range d.npart).mapM (fun p =>
        engRead o 4 4 (ptrAt (d.gcmAt d.ctx (seq % 2) p) (32 + 4 * (z.toNat * d.nexp + y.toNat))))
      pure (g.sum % 2 ^ 32)

/-! ### Issue (R347, R348) -/

/-- A dispatch operation and its area. -/
def OpKind.area (k : OpKind) : Option DWord :=
  match k with
  | .dcnt _ a | .dplan _ a _ | .dscat _ a | .dgath _ a _ | .dstat _ a _ _ _ => some a
  | _ => none

/-- The order of R349: no earlier operation on the area is left. What a Plumb secondary performs of its own is no operation on the area
(R357). -/
def State.dispatchTurn (s : State) (o : Op) : Bool :=
  s.ops.all (fun p => !(p.id < o.id && p.owner.twin == o.owner.twin && p.kind.area.isSome && p.kind.area == o.kind.area))

/-- Uncompleted dispatch operations of a gang (R347). -/
def State.dispatchOps (s : State) (r : GangRef) : Nat :=
  s.engineOps .dispatch r

/-- The key of a context area's header; an area that translation refuses shares its order with no other. -/
def State.areaKey (s : State) (p : DWord) : Except Fail DWord :=
  match s.translate (s.request .read 8) p with
  | .ok l => .ok (BitVec.ofNat 64 ((l.bytes.head?.bind Place.key).getD 0))
  | .error (.wait r) => .error (.wait r)
  | .error (.fault _ _ _ _ _) => .ok (BitVec.ofNat 64 (2 ^ 64 - 1 - s.nextId))

/-- A DGATH of a Plumb secondary whose output rows lie wholly in the crew's own allocation (16 R407, log entry 106). -/
def State.ownDispatch (s : State) (k : OpKind) : Bool :=
  match k with
  | .dgath d _ _ =>
    (List.range (d.ntok * (d.rowBytes / 4))).all (fun i => match s.translate (s.request .write 4) (ptrAt d.out (4 * i)) with
      | .ok l => l.bytes.all s.ownScratch
      | .error _ => false)
  | _ => false

/-- What a Plumb secondary performs of such a DGATH: its combine, once the primary's pushes have arrived. -/
def State.copyKind (s : State) (k : OpKind) : OpKind :=
  match k with
  | .dgath d a st => .dgath d a (if s.isSecondary then .tags else st)
  | k => k

/-- What the five instructions do at issue. A fault of the descriptor's read comes before the kill of a fifth operation (R347, log entry
119). -/
def State.dispatch (s : State) (i : Instr) (t : SReg) (x : Pair) (extra : List SReg) (k : State → Descriptor → DWord → OpKind) :
    Out :=
  let vals (s : State) : List DWord := s.rdP x :: extra.map (fun r => (s.rd r).setWidth 64)
  s.en (some roleDispatch) true i t (pairRegs x ++ extra.map RegRef.s) vals (fun s =>
    match s.readAtIssue 128 64 (s.rdP x) with
    | .error f => s.failed f
    | .ok v =>
      if descriptorDefect v || s.dispatchOps s.g.ref ≥ 4 then .next (s.kill .context)
      else
        match s.areaKey (Descriptor.ofNat v).ctx with
        | .error f => s.failed f
        | .ok a =>
          let o := k s (Descriptor.ofNat v) a
          .next (s.startOp i t (vals s) (s.isSecondary && s.ownDispatch o) (s.copyKind o)))

def execDcnt (t : SReg) (x : Pair) (s : State) : Out := s.dispatch (.dcnt t x) t x [] (fun _ d a => .dcnt d a)

def execDplan (t : SReg) (x : Pair) (s : State) : Out := s.dispatch (.dplan t x) t x [] (fun _ d a => .dplan d a .start)

def execDscat (t : SReg) (x : Pair) (s : State) : Out := s.dispatch (.dscat t x) t x [] (fun _ d a => .dscat d a)

def execDgath (t : SReg) (x : Pair) (s : State) : Out := s.dispatch (.dgath t x) t x [] (fun _ d a => .dgath d a .start)

/-- The registers of DSTAT's selector (R355). -/
def DstatSel.regs (sel : DstatSel) : List SReg :=
  match sel with
  | .seq | .state | .nplaced | .ndrop | .nrecv => []
  | .fill y => [y]
  | .gcount y z => [y, z]

def execDstat (sel : DstatSel) (t : SReg) (x : Pair) (s : State) : Out :=
  let reg (s : State) (n : Nat) : Word := match (DstatSel.regs sel)[n]? with
    | some r => s.rd r
    | none => 0#32
  s.dispatch (.dstat sel t x) t x (DstatSel.regs sel) (fun s d a => .dstat d a sel (reg s 0) (reg s 1))

/-! ### The steps -/

/-- An operation changes what it waits for; one of a gang that is over is abandoned there (R357). -/
def State.setKind (s : State) (o : Op) (k : OpKind) : State :=
  if s.isOver o.owner.launch o.owner.crew o.owner.gang then { s with ops := s.ops.filter (fun p => p.id != o.id) }
  else { s with ops := s.ops.map (fun p => if p.id = o.id then { p with kind := k } else p) }

/-- The first, and for DCNT and DSTAT the only, step of a dispatch operation. A refused read of the expert map gives DSTAT the value that
one of the area gives (R355, log entry 125). -/
def State.startDispatch (s : State) (o : Op) : State :=
  if s.dispatchTurn o = false then s
  else
    match o.kind with
    | .dcnt d _ => s.runEng o (runDcnt o d) (fun t => t.endWhenSent o 0#32)
    | .dplan d a .start => s.runEng o (dplanCounts o d) (fun t => t.setKind o (.dplan d a .counts))
    | .dgath d a .start => s.runEng o (dgathPush o d) (fun t => t.setKind o (.dgath d a .tags))
    | .dstat d _ sel y z =>
      (match runDstat o d sel y z (s.flushEarlier o) with
       | .ok v t => t.endOp o (BitVec.ofNat 32 v)
       | .error (.wait _) _ => s
       | .error (.fault f) t => t.endOp o (BitVec.ofNat 32 (0xFFFFFF00 + f.kind)))
    | _ => s

/-- DPLAN_COUNTS_ARRIVED (R351). A saved crew's wait goes on at its resumption (R357). -/
def execDplanCountsArrived (op : Nat) (s : State) : Out :=
  match s.op? op with
  | none => .next s
  | some o =>
    match o.kind with
    | .dplan d a .counts =>
      if s.mayGoOn o.owner = false then .next s
      else .next (s.runEng o (do
        let (seq, heads) ← waitRows o d
        dplanPlan o d seq heads) (fun t => t.setKind o (.dplan d a .tags)))
    | _ => .next s

/-- DPLAN_INVTAGS_ARRIVED (R351). -/
def execDplanInvtagsArrived (op : Nat) (s : State) : Out :=
  match s.op? op with
  | none => .next s
  | some o =>
    match o.kind with
    | .dplan d _ .tags =>
      if s.mayGoOn o.owner = false then .next s
      else .next (s.runEng o (dplanEnd o d) (fun t => t.endWhenSent o 0#32))
    | _ => .next s

/-- DSCAT_SCATB_ADDITION: the rows are performed and every SCATB is raised (R353). -/
def execDscatScatbAddition (op : Nat) (s : State) : Out :=
  match s.op? op with
  | none => .next s
  | some o =>
    match o.kind with
    | .dscat d _ => if s.dispatchTurn o then .next (s.runEng o (runDscat o d) (fun t => t.endWhenSent o 0#32)) else .next s
    | _ => .next s

/-- DGATH_GATHTAGS_ARRIVED (R354). -/
def execDgathGathtagsArrived (op : Nat) (s : State) : Out :=
  match s.op? op with
  | none => .next s
  | some o =>
    match o.kind with
    | .dgath d _ .tags =>
      if s.mayGoOn o.owner = false then .next s
      else .next (s.runEng o (dgathEnd o d) (fun t => t.endWhenSent o 0#32))
    | _ => .next s

end Sys2Proof.Machine
end

