-- ==== Sys2Proof/Machine/Sieve.lean ====
section
/-! DEFINITION. The Sieve: RESAMP, its collective and PSEED (14 R358 to R374). -/

namespace Sys2Proof.Machine

/-! ### Population state (R361, R362, R372) -/

/-- r from CTR (R362). -/
def mixCtr (ctr : BitVec 128) : Word :=
  let a := ctr.extractLsb' 0 64
  let b := ctr.extractLsb' 64 64
  let z0 := (a ^^^ b.rotateLeft 23) ^^^ 0x6A3C9E15B7D24F81#64
  let z1 := (z0 ^^^ (z0 >>> 31)) * 0xD1B54A32D192ED03#64
  let z2 := (z1 ^^^ (z1 >>> 29)) * 0xAEF17502108EF2D9#64
  (z2 ^^^ (z2 >>> 32)).extractLsb' 32 32

/-- PSEED takes its one step on the population state at issue; its token follows (R372, R373). A Plumb secondary's is its primary's
(R374), and a stage without the role kills first (07 R211). -/
def State.pseed (s : State) (i : Instr) (t : SReg) (reads : List RegRef) (vals : State → List DWord)
    (f : State → Population → Population) : Out :=
  if s.lacksRole (some rolePopulation) then .next (s.kill .role)
  else
    s.en none s.packet.isPopulation i t reads vals (fun s =>
      let set (l : Launch) : Launch := { l with population := if s.isSecondary then l.population else l.population.map (f s) }
      .next ((s.modLaunch s.g.ref.launch set).startOp i t (vals s) true (.value 0#32 .other)))

def execPseed (t : SReg) (x y : Pair) (s : State) : Out :=
  s.pseed (.pseed t x y) t (pairRegs x ++ pairRegs y) (fun s => [s.rdP x, s.rdP y])
    (fun s p => { p with ctr := s.rdP y ++ s.rdP x, pend := false })

def execPseedDirect (t x : SReg) (s : State) : Out :=
  s.pseed (.pseedDirect t x) t [.s x] (fun s => [(s.rd x).setWidth 64])
    (fun s p => { p with pval := s.rd x, pend := true })

/-! ### RESAMP (R363, R364) -/

/-- Registers of earlier instructions that are still to be written (R364). -/
def State.outstanding (s : State) : List RegRef :=
  s.g.bd.pending ++ s.ops.filterMap (fun o => if o.owner = s.g.ref then o.token.map RegRef.s else none)

def execResamp (t x : SReg) (w : Src) (s : State) : Out :=
  let u : Uses := .comparing (.s x :: w.regs false 0) (execRegs ++ [.s t])
  if s.packet.isPopulation = false ∨ w.vEnd 1 > s.packet.vregs then .next (s.kill .context)
  else if (s.consumed u).isNone ∧ s.g.exec ≠ s.g.la.live ∧ s.maskKnown then
    s.atSwitch.heedStop (.next (s.atSwitch.raise (.plain kPartialMask)))
  else
    s.issue u (fun s =>
      if s.outstanding ≠ [] then .next (s.again (.board s.outstanding))
      else
        .next (((s.sign [word0 (.resamp t x w), (s.rd x).setWidth 64]).modBoard (fun b => b.token t)).setRun
          (.sieve t (s.rd x) w)))

/-! ### The collective (R365 to R371) -/

/-- The order of crew index, then gang index. -/
def gangBefore (a b : Gang) : Bool := a.ref.crew < b.ref.crew || (a.ref.crew == b.ref.crew && a.ref.gang < b.ref.gang)

def insertGang (g : Gang) : List Gang → List Gang
  | [] => [g]
  | h :: r => if gangBefore g h then g :: h :: r else h :: insertGang g r

def sortGangs (l : List Gang) : List Gang := l.foldr insertGang []

/-- The gangs of one copy of a launch, in order. -/
def State.copyGangs (s : State) (launch : Nat) (twin : Bool) : List Gang :=
  sortGangs (s.allGangs.filter (fun h => h.ref.launch == launch && h.ref.twin == twin && h.ref != noGang))

/-- Parked (R359). -/
def Gang.isParked (h : Gang) : Bool :=
  match h.sch.run with
  | .noLive _ => true
  | _ => false

/-- A member (R359). -/
def Gang.isMember (h : Gang) : Bool := !h.sch.run.isOver && !h.isParked

/-- Arrived at RESAMP: its status register, N and weight register. -/
def Gang.arrival (h : Gang) : Option (SReg × Word × Src) :=
  match h.sch.run with
  | .sieve t n w => some (t, n, w)
  | _ => none

/-- Every member has arrived and every crew is resident (R365); that the launch is halted is nothing to it (log entry 126). -/
def State.sieveReady (s : State) (l : Launch) (twin : Bool) : Bool :=
  let gs := s.copyGangs l.seq twin
  gs.any Gang.isMember && gs.all (fun h => !h.isMember || h.arrival.isSome) && l.nextCrew == l.packet.crews &&
    s.crews.all (fun c => c.ref.launch != l.seq || c.ref.twin != twin || c.site.isResident || c.site == .ended)

/-- The weight of a lane: an F32 value in units of 2^−149, and whether it counted as bad (R365). -/
def laneWeight (x : Nat) : Nat × Bool :=
  let ex := x / 2 ^ 23 % 256
  let fr := x % 2 ^ 23
  if ex = 255 ∨ 2 ^ 31 < x then (0, true)
  else if ex = 0 then (fr, false)
  else ((2 ^ 23 + fr) * 2 ^ (ex - 1), false)

/-- A lane of a gang by name. -/
structure Slot where
  ref : GangRef
  lane : Nat
  deriving DecidableEq, Repr

/-- The weight register of a gang in a lane. -/
def Gang.weightOf (h : Gang) (w : Src) (n : Nat) : Word :=
  match w with
  | .v i => laneAt (h.la.vreg i.toNat) n
  | .o i => laneAt (h.la.oreg i.toNat) n
  | .l _ | .s _ | .lane | .gang | .crew | .pidx => 0#32

/-- The live lanes of the members in global slot order, with their weights. -/
def liveWeights (members : List Gang) : List (Slot × Nat × Bool) :=
  (members.map (fun h => match h.arrival with
    | some (_, _, w) => ((List.range 96).filter (fun n => h.la.live.getLsbD n)).map (fun n =>
        (({ ref := h.ref, lane := n } : Slot), laneWeight (h.weightOf w n).toNat))
    | none => [])).flatten

/-- Offspring of every lane (R366): floor(N · S_i / W + r / 2^32) less the same for S_(i−1). -/
def offspring (n r w : Nat) : Nat → List (Slot × Nat) → List (Slot × Nat)
  | _, [] => []
  | acc, (sl, x) :: rest =>
    let at_ (v : Nat) : Nat := (n * v * 2 ^ 32 + r * w) / (w * 2 ^ 32)
    (sl, at_ (acc + x) - at_ acc) :: offspring n r w (acc + x) rest

/-- GEN + 1 in a lineage (R367). -/
def nextGen (x : DWord) : DWord := (x.extractLsb' 48 16 + 1#16) ++ x.extractLsb' 0 48

/-- A lane of a lineage replaced. -/
def setLineage (l : Lanes) (n : Nat) (v : DWord) : Lanes :=
  { l with lineage := Vector.ofFn (fun (i : Fin 96) => if i.val = n then v else l.lineage[i.val]) }

/-- Deaths and survivals in one gang (R367). -/
def Gang.sifted (h : Gang) (ns : List (Slot × Nat)) : Gang :=
  let mine := ns.filter (fun x => x.1.ref == h.ref)
  let stays (n : Nat) : Bool := mine.any (fun x => x.1.lane == n && x.2 != 0)
  let h1 := h.setLive (h.la.live &&& maskOf stays)
  let line (n : Nat) (x : DWord) : DWord := if stays n then nextGen x else x
  let la := h1.la
  { h1 with la := { la with lineage := Vector.ofFn (fun (i : Fin 96) => line i.val la.lineage[i.val]) } }

/-- The cores of one copy's crews, by crew index. -/
def State.crewCores (s : State) (launch : Nat) (twin : Bool) : List (Nat × Nat) :=
  (s.crews.filter (fun c => c.ref.launch == launch && c.ref.twin == twin)).map (fun c => (c.ref.crew, c.site.core))

/-- How near a dead slot is to a parent (R368). -/
def nearness (cores : List (Nat × Nat)) (p d : Slot) : Nat :=
  let coreOf (x : Slot) : Nat := match cores.find? (fun (c : Nat × Nat) => c.1 == x.ref.crew) with
    | some c => c.2
    | none => 0
  let cp : Nat := coreOf p
  let cd : Nat := coreOf d
  if d.ref = p.ref then 1
  else if d.ref.crewRef = p.ref.crewRef then 2
  else if cd = cp then 3
  else if cd / 160 = cp / 160 then 4
  else 5

/-- The dead slot that a clone of `p` takes: the nearest class, then the lowest index; `dead` is in global slot order. -/
def nearest (cores : List (Nat × Nat)) (p : Slot) (dead : List Slot) : Option Slot :=
  (List.range 6).findSome? (fun k => dead.find? (fun d => nearness cores p d == k))

/-- Predicates p1 to p7 copied from lane to lane. -/
def clonePreds (src dst : Lanes) (from_ dest : Nat) : Vector LaneMask 8 :=
  Vector.ofFn (fun (i : Fin 8) =>
    let bit := 1#96 <<< dest
    if src.preds[i.val].getLsbD from_ then dst.preds[i.val] ||| bit else dst.preds[i.val] &&& ~~~ bit)

/-- A lane of a lane register replaced. -/
def setLaneOf (r : LaneReg) (n : Nat) (v : Word) : LaneReg := mergeReg (1#96 <<< n) r (fun _ => v)

/-- A clone's slot becomes live and takes its parent's lane state (R369). -/
def cloneLane (vregs serial : Nat) (src : Gang) (from_ dest : Nat) (h : Gang) : Gang :=
  let la1 := (List.range vregs).foldl
    (fun (la : Lanes) i => la.setV i (setLaneOf (la.vreg i) dest (laneAt (src.la.vreg i) from_))) h.la
  let la2 := (List.range 8).foldl
    (fun (la : Lanes) i => la.setO i (setLaneOf (la.oreg i) dest (laneAt (src.la.oreg i) from_))) la1
  let la3 := { la2 with preds := clonePreds src.la la2 from_ dest }
  let line := (laneAt64 src.la.lineage from_).extractLsb' 24 40 ++ BitVec.ofNat 24 serial
  let m := h.la.live ||| 1#96 <<< dest
  let h1 := { h with la := setLineage la3 dest line, badLanes := h.badLanes &&& ~~~ (1#96 <<< dest) }
  (h1.setLive m).setExec m

/-- Place the clones of one parent after another (R368). -/
def State.placeClones (s : State) (cores : List (Nat × Nat)) (vregs : Nat) : List Slot → List Slot → Nat → State × Nat
  | [], _, serial => (s, serial)
  | p :: rest, dead, serial =>
    match nearest cores p dead, s.gang? p.ref with
    | some d, some src =>
      let serial1 := (serial + 1) % 2 ^ 24
      (s.modGang d.ref (cloneLane vregs serial1 src p.lane d.lane)).placeClones cores vregs rest (dead.filter (· != d)) serial1
    | _, _ => s.placeClones cores vregs rest dead serial

/-- Dead slots of members and parked gangs, in global slot order (R359). -/
def deadSlots (gs : List Gang) : List Slot :=
  (gs.map (fun h => ((List.range 96).filter (fun n => h.la.present.getLsbD n && !h.la.live.getLsbD n)).map
    (fun n => ({ ref := h.ref, lane := n } : Slot)))).flatten

/-- A member takes its status and goes on, or parks without a live lane (R370, R371). -/
def endResamp (status : Word) (used : Word) (h : Gang) : Gang :=
  match h.arrival with
  | none => h
  | some (t, n, _) =>
    let v := if n = used then status else status ||| 0x1000#32
    let h1 := h.wr t v
    { h1 with
      sc := { h1.sc with pc := h1.sc.pc + 12#64 }
      sch := { h1.sch with run := if h1.la.live = 0#96 then .noLive t else .ready } }

/-- A parked gang that received a clone wakes (R371); its status enters the signature of a Plumb copy (16 R404). -/
def wakeParked (plumb : Bool) (status : Word) (h : Gang) : Gang :=
  match h.sch.run with
  | .noLive t =>
    if h.la.live = 0#96 then h
    else
      let h1 := h.wr t (status ||| 0x2000#32)
      { h1 with
        la := { h1.la with latchValid := 0#4 }
        sch := { h1.sch with run := .ready }
        plumb := if plumb then h1.plumb.sign [.val ((status ||| 0x2000#32).setWidth 64)] else h1.plumb }
  | _ => h

/-- The status enters the signature of a Plumb copy (16 R404). -/
def signStatus (status used : Word) (h : Gang) : Gang :=
  match h.sch.run with
  | .sieve _ n _ =>
    { h with plumb := h.plumb.sign [.val ((if n = used then status else status ||| 0x1000#32).setWidth 64)] }
  | _ => h

/-- A parent's register image is uncorrectable: RESAMP traps precisely in every member (R374). -/
def State.trapMembers (s : State) (members : List Gang) : State :=
  members.foldl (fun s h => s.raiseNow h.ref h.sc.pc (.plain kData)) s

/-- The performance of a collective with this r, from this SERIAL, by the cores that placement goes by (R365). `done` puts the
population state away. -/
def State.resample (s : State) (l : Launch) (twin : Bool) (r : Word) (serial0 : Nat) (cores : List (Nat × Nat))
    (done : Nat → Launch → Launch) : State :=
  let gs := (s.copyGangs l.seq twin).filter (fun h => !h.sch.run.isOver)
  let members := gs.filter Gang.isMember
  let used := match members.head?.bind Gang.arrival with
    | some (_, n, _) => n
    | none => 0#32
  let ws := liveWeights members
  let bad : Word := if ws.any (fun w => w.2.2) then 0x200#32 else 0#32
  let total := (ws.map (fun w => w.2.1)).sum
  let mine (h : Gang) : Bool := h.ref.launch == l.seq && h.ref.twin == twin && h.ref != noGang
  let finish (s : State) (status : Word) (serial : Nat) : State :=
    let s0 := if l.packet.plumb then s.modGangs mine (signStatus status used) else s
    ((s0.modGangs mine (endResamp status used)).modLaunch l.seq (done serial)).wakeBoards
  if used = 0#32 then finish s (bad ||| 0x800#32) serial0
  else if total = 0 then finish s (bad ||| 0x100#32) serial0
  else
    let room := (ws.length) + (deadSlots gs).length
    let n := min used.toNat room
    let status := if used.toNat > room then bad ||| 0x400#32 else bad
    let ns := offspring n r.toNat total 0 (ws.map (fun w => (w.1, w.2.1)))
    let clones := (ns.map (fun x => List.replicate (x.2 - 1) x.1)).flatten
    if members.any (fun h => clones.any (fun c => c.ref == h.ref && h.badLanes.getLsbD c.lane)) then s.trapMembers members
    else
      let s1 := s.modGangs (fun h => mine h && h.arrival.isSome) (fun h => h.sifted ns)
      let after := (s1.copyGangs l.seq twin).filter (fun h => !h.sch.run.isOver)
      let (s2, serial) := s1.placeClones cores l.packet.vregs clones (deadSlots after) serial0
      finish (s2.modGangs (fun h => mine h && h.isParked) (wakeParked l.packet.plumb status)) status serial

/-- r of the next collective (R365). -/
def Population.next (p : Population) : Word := if p.pend then p.pval else mixCtr p.ctr

/-- The collective of the first copies; a Plumb launch's second copies perform it after them, with the same r and placement
(R374). -/
def State.sieveFirst (s : State) (l : Launch) (p : Population) : State :=
  let cores := s.crewCores l.seq false
  s.resample l false p.next p.serial cores (fun serial l =>
    { l with
      population := some { p with pend := false, ctr := p.ctr + 1#128, serial := serial }
      sieved := if l.packet.plumb then l.sieved ++ [{ r := p.next, serial := p.serial, cores := cores }] else l.sieved })

/-- No gang of the first copies can arrive before its twin has been compared: they have diverged (16 R405). -/
def State.firstStuck (s : State) (l : Launch) : Bool :=
  (s.copyGangs l.seq false).all (fun h => h.sch.run.isOver || h.sch.run == .compare)

/-- The collective of the second copies: the oldest that the first copies have performed. Copies that have diverged perform one of
their own, on no population state, so that a comparison finds them out (log entry 107). -/
def State.sieveSecond (s : State) (l : Launch) (p : Population) : State :=
  match l.sieved with
  | x :: rest => s.resample l true x.r x.serial x.cores (fun _ l => { l with sieved := rest })
  | [] => if s.firstStuck l then s.resample l true p.next p.serial (s.crewCores l.seq true) (fun _ l => l) else s

/-- One copy's collective, where it may be performed. -/
def State.sieveCopy (s : State) (launch : Nat) (twin : Bool) : State :=
  match s.launch? launch with
  | none => s
  | some l =>
    match l.population with
    | none => s
    | some p => if s.sieveReady l twin then (if twin then s.sieveSecond l p else s.sieveFirst l p) else s

/-- COLLECTIVE_PERFORMANCE: each Plumb copy performs its own (R365, R374). -/
def execCollectivePerformance (launch : Nat) (s : State) : Out :=
  .next ((s.sieveCopy launch false).sieveCopy launch true)

end Sys2Proof.Machine
end

