-- ==== Sys2Proof/Machine/Command.lean ====
section
/-! DEFINITION. The command processor: queue port and doorbells (07 R191 to R193), the checks of a launch packet (R186 to R190,
R196, R199, R205, R206, R209, 03 R98 to R100), completion records (R195) and dequeuing (R194, R202, R207, 16 R394). -/

namespace Sys2Proof.Machine

/-! ### Accesses of the command processor -/

/-- `n` bytes at a pointer. -/
def State.cpRead (s : State) (iface : Nat) (p : DWord) (n : Nat) : Except Fail (List Byte) :=
  match s.checkAt (cpReq iface .read n) .load 1 p with
  | .error x => .error x
  | .ok l => .ok (l.bytes.map s.homeByte)

/-- Write bytes at a pointer. -/
def State.cpWrite (s : State) (iface : Nat) (p : DWord) (bs : List Byte) : Except Fail State :=
  match s.checkTarget (cpReq iface .write bs.length) .store 1 p with
  | .error x => .error x
  | .ok l => .ok (s.performBytes noGang (l.bytes.zip bs) (l.pages.map Prod.fst))

/-- Entries of `size` bytes from `p` on, up to the first that `last` accepts, `n` at most. -/
def State.cpTable (s : State) (iface : Nat) (p : DWord) (size : Nat) (last : Nat → Bool) : Nat → Except Fail (List Nat)
  | 0 => .ok []
  | n + 1 =>
    match s.cpRead iface p size with
    | .error x => .error x
    | .ok bs =>
      let v := leValue bs
      if last v then .ok []
      else
        match s.cpTable iface (p + BitVec.ofNat 64 size) size last n with
        | .error x => .error x
        | .ok vs => .ok (v :: vs)

/-- The checks of SEMP on a binder pointer, without the test for a bad binder (R195, R217). -/
def State.cpBinder (s : State) (iface : Nat) (p : DWord) : Except Fail Landing :=
  s.checkTarget (cpReq iface .atomic 32) .atomic 32 p

/-- Add to a checked binder's COUNT; an addition that meets uncorrectable data is lost (R195). -/
def State.cpAdd (s : State) (l : Landing) (n : Nat) : State :=
  match s.poisonedByte l.bytes with
  | some _ => s
  | none => s.setBinder noGang l ((s.binderAt l.bytes).add n)

/-! ### Statuses (R196) -/

def stField : Nat := 0x81
def stParams : Nat := 0x82
def stBands : Nat := 0x83
def stStages : Nat := 0x84
def stCosched : Nat := 0x85
def stPopulation : Nat := 0x86
def stQuota : Nat := 0x87
def stKind : Nat := 0x88
def stGraph : Nat := 0x89
def stDiscarded : Nat := 0x90

/-- A launch error record as its 16 bytes hold it (01 R42). -/
def ErrRec.bits (e : ErrRec) : Nat :=
  e.killPc.toNat * 2 ^ 64 + e.crew % 2 ^ 24 * 2 ^ 40 + e.gang % 16 * 2 ^ 36 + e.count % 2 ^ 16 * 2 ^ 16 +
    e.reason % 256 * 256 + e.kind % 256

/-- A completion record's 48 bytes (R195). -/
def completionRecord (seq status : Nat) (time : DWord) (doneErr : Nat) (e : ErrRec) : List Byte :=
  leBytes 8 seq ++ leBytes 8 status ++ leBytes 8 time.toNat ++ leBytes 8 doneErr ++ leBytes 16 e.bits

/-- The check of the DONE binder: the refusal in DONEERR's layout, with the level that refuses an unreachable device (19 R460,
log entry 33), or the landing. None while a lookup waits (R195). -/
def State.doneCheck (s : State) (iface : Nat) (p : Packet) : Option (Nat × Option Landing) :=
  if p.done = 0#64 then some (0, none)
  else
    match s.cpBinder iface p.done with
    | .ok l => some (0, some l)
    | .error (.fault f) => some (if f.kind = kPeer then kPeer + f.level * 256 + resultInst f.level f.inst * 2048 else f.token.toNat % 65536, none)
    | .error (.wait _) => none

/-- The addition to the completion binder. -/
def State.serveDone (s : State) (l : Option Landing) (p : Packet) : State :=
  match l with
  | none => s
  | some l => s.cpAdd l p.doneValue.toNat

/-- Write the completion record into the slot and serve the DONE binder (R195, R203). None while a lookup waits. -/
def State.complete (s : State) (iface queue slot seq status : Nat) (e : ErrRec) (p : Packet) : Option State :=
  match s.doneCheck iface p with
  | none => none
  | some (doneErr, l) =>
    match s.cpWrite iface (BitVec.ofNat 64 slot) (completionRecord seq status (s.view iface) doneErr e) with
    | .ok t => some (t.serveDone l p)
    | .error (.wait _) => none
    | .error (.fault _) =>
      some ((s.setQueue iface queue { s.queue iface queue with error := true }).serveDone l p)

/-! ### The packet (R186, R187) -/

/-- Word `i` of a packet's words. -/
def pword (ws : List Nat) (i : Nat) : DWord := BitVec.ofNat 64 (ws.getD i 0)

/-- The sixteen words of 128 bytes. -/
def packetWords (bs : List Byte) : List Nat := (List.range 16).map (fun i => leValue ((bs.drop (8 * i)).take 8))

def Packet.ofWords (ws : List Nat) : Packet :=
  let w0 := pword ws 0
  let shape := pword ws 2
  { kind := (w0.extractLsb' 40 8).toNat
    priority := (w0.extractLsb' 32 3).toNat
    flags := w0.extractLsb' 0 8
    code := pword ws 1
    crews := (shape.extractLsb' 40 24).toNat + 1
    gangs := (shape.extractLsb' 36 4).toNat + 1
    vregs := 16 * ((shape.extractLsb' 32 4).toNat + 1)
    lastLanes := (shape.extractLsb' 25 7).toNat
    scratch := (shape.extractLsb' 0 21).toNat
    params := pword ws 3
    paramBytes := ((pword ws 4).extractLsb' 0 13).toNat
    bands := pword ws 5
    stages := pword ws 6
    start := pword ws 7
    watchdog := pword ws 8
    bound := pword ws 9
    done := pword ws 10
    doneValue := pword ws 11
    seed := pword ws 12 }

/-- A reserved bit is set (R186, R187). -/
def packetReserved (ws : List Nat) : Bool :=
  let w0 := pword ws 0
  w0.extractLsb' 48 16 != 0#16 || w0.extractLsb' 35 5 != 0#5 || w0.extractLsb' 8 24 != 0#24 ||
    (pword ws 2).extractLsb' 21 4 != 0#4 || (pword ws 4).extractLsb' 13 51 != 0#51 ||
    pword ws 13 != 0#64 || pword ws 14 != 0#64 || pword ws 15 != 0#64

/-- The FIELD refusals of a packet (R188, R190, R205, 14 R358); `cap` is the scratchpad capacity. -/
def fieldRefused (ws : List Nat) (p : Packet) (cap : Nat) : Bool :=
  let zero (is : List Nat) : Bool := is.all (fun i => pword ws i == 0#64)
  packetReserved ws || (p.timed && p.start == 0#64) ||
    (match p.kind with
     | 0 =>
       (p.staged && p.isPopulation) || (p.staged != (p.stages != 0#64)) || p.lastLanes == 0 || p.lastLanes > 96 ||
         p.scratch > cap || p.code.extractLsb' 0 2 != 0#2 || (p.isPopulation && p.crews > 1 && !p.cosched)
     | 1 => !zero [2, 5, 6, 8, 9, 12] || p.flags &&& 0xAF#8 != 0#8
     | _ => !zero [1, 2, 3, 4, 5, 6, 7, 8, 9, 12] || p.flags &&& 0xEF#8 != 0#8)

/-! ### Bands and stages (03 R98, R99, 07 R209) -/

/-- The members of a band table entry. -/
def bandMembers (first n stride gmask : Nat) : List (Nat × Nat) :=
  ((List.range n).map (fun i =>
    ((List.range 16).filter (fun g => gmask.testBit g)).map (fun g => (first + i * stride, g)))).flatten

/-- One entry as a band, or none where R99 refuses it. -/
def bandOf (p : Packet) (v : Nat) : Option Band :=
  let b := BitVec.ofNat 128 v
  let first := (b.extractLsb' 104 24).toNat
  let n := (b.extractLsb' 80 24).toNat + 1
  let stride := (b.extractLsb' 56 24).toNat
  let gmask := (b.extractLsb' 40 16).toNat
  if b.extractLsb' 0 40 ≠ 0#40 ∨ (stride = 0 ∧ n ≠ 1) ∨ first + (n - 1) * stride ≥ p.crews ∨ gmask ≥ 2 ^ p.gangs ∨
      (n ≠ 1 ∧ p.cosched = false) then none
  else some { members := bandMembers first n stride gmask, oneCrew := n == 1, phase := 0#32, arrived := [] }

/-- The bands of a launch without a band table: each crew is one (R100). -/
def defaultBands (p : Packet) : List Band :=
  (List.range p.crews).map (fun c =>
    { members := (List.range p.gangs).map (fun g => (c, g)), oneCrew := true, phase := 0#32, arrived := [] })

/-- Bands from the entries of a table, or none where R99 refuses them. -/
def bandsOfTable (p : Packet) (vs : List Nat) : Option (List Band) :=
  let bs := vs.map (bandOf p)
  if bs.any Option.isNone then none
  else
    let l := bs.filterMap id
    let all := (l.map Band.members).flatten
    if all.any (fun m => all.countP (fun x => x == m) > 4) then none else some l

/-- A stage from its entry (R209). -/
def stageOf (v : Nat) : Stage :=
  let b := BitVec.ofNat 256 v
  { entry := b.extractLsb' 192 64, ring := (b.extractLsb' 160 32).toNat, roles := b.extractLsb' 154 6,
    minGangs := (b.extractLsb' 149 5).toNat, maxGangs := (b.extractLsb' 144 5).toNat }

/-- The refusals of R209. -/
def stagesRefused (p : Packet) (vs : List Nat) : Bool :=
  let ss := vs.map stageOf
  vs.any (fun v => v % 2 ^ 144 != 0) ||
    ss.any (fun t => t.roles == 0#6 || t.minGangs > t.maxGangs || t.maxGangs == 0 || t.ring % 16 != 0 ||
      t.ring + 16 > p.scratch || t.entry.extractLsb' 0 2 != 0#2) ||
    (ss.map Stage.minGangs).sum > p.gangs || (ss.map Stage.maxGangs).sum < p.gangs ||
    (ss.map Stage.ring).eraseDups.length != ss.length

/-! ### Room on the cores (03 R83, R84) -/

/-- The core is on a live die, enabled and not fenced. -/
def State.coreOn (s : State) (c : Nat) : Bool :=
  s.pkg.dieMask.getLsbD (c / 160) && c < 640 && c % 160 < s.pkg.coresPerDie && !s.pkg.fenced.contains c

/-- Gangs of a declared register count that one pipe holds (R83). -/
def pipeGangs (vregs : Nat) : Nat := min 8 (262144 / (384 * vregs))

/-- Crews of a packet that one empty core holds (R83, R84). -/
def State.crewsPerCore (s : State) (p : Packet) : Nat :=
  let byGangs := 8 * pipeGangs p.vregs / p.gangs
  let alloc := allocBytes p.scratch
  if alloc = 0 then byGangs else min byGangs (s.spadBytes / alloc)

/-- Eight cores make a cluster (00_scope.md). -/
def clusterOf (core : Nat) : Nat := core / 8

/-- Enabled cores. -/
def State.enabledCores (s : State) : List Nat := (List.range 640).filter s.coreOn

/-- All crews of a COSCHED launch can be resident at once (R199, 16 R403). -/
def State.coschedFits (s : State) (iface : Nat) (p : Packet) : Bool :=
  let copies := if p.plumb then 2 else 1
  let each := s.crewsPerCore p
  let cores := s.enabledCores
  let total := each * cores.length
  let most := (List.range 80).foldl (fun m k => max m (each * (cores.filter (fun c => clusterOf c == k)).length)) 0
  p.crews * copies ≤ (s.ifc iface).crewMax &&
    (if p.plumb then p.crews ≤ min (total / 2) (total - most) else p.crews ≤ total)

/-! ### The graph object (R206, R207) -/

/-- The 64-byte header: NODES, EDGES, NODEPTR, EDGEPTR, and whether its zero fields are zero. -/
def headerOf (bs : List Byte) : Nat × Nat × DWord × DWord × Bool :=
  let ws := (List.range 8).map (fun i => leValue ((bs.drop (8 * i)).take 8))
  let w0 := pword ws 0
  ((w0.extractLsb' 0 16).toNat, (w0.extractLsb' 16 16).toNat, pword ws 1, pword ws 2,
    w0.extractLsb' 32 32 == 0#32 && (ws.drop 3).all (fun w => w == 0))

/-- An edge word of 32 bits, or none where it is defective (R206; log entry 35). -/
def edgeOf (nodes v : Nat) : Option (Nat × Nat) :=
  let f := v % 2 ^ 16
  let t := v / 2 ^ 16 % 2 ^ 16
  if f < t ∧ t < nodes then some (f, t) else none

/-- A patch entry; whole entries only are read (R207). -/
def patchOf (v : Nat) : Patch × Bool :=
  let b := BitVec.ofNat 128 v
  let len := (b.extractLsb' 28 3).toNat + 1
  ({ node := (b.extractLsb' 0 16).toNat, offset := (b.extractLsb' 16 12).toNat,
     bytes := leBytes len (b.extractLsb' 64 64).toNat }, b.extractLsb' 31 33 == 0#33)

/-- The bytes of a parameter block with the patches of one node applied in list order (R207). -/
def patched (params : List Byte) (ps : List Patch) : List Byte :=
  if ps = [] then params
  else
    ps.foldl
      (fun bs p => (List.range p.bytes.length).foldl (fun bs i => bs.set (p.offset + i) (p.bytes.getD i 0#8)) bs)
      (params ++ List.replicate (4096 - params.length) 0#8)

/-! ### The checks in their order (R196) -/

/-- What a packet that passes its checks turns into. -/
inductive Admitted where
  | marker
  | kernel (params : List Byte) (bands : List Band) (stages : List Stage)
  | graph (header nodes : Nat) (nodePtr : DWord) (edges : List (Nat × Nat)) (patches : List Patch)
  deriving DecidableEq, Repr

/-- A refused read gives a status; a lookup that waits gives none. -/
def refusedAs {α : Type} (status : Nat) (x : Except Fail α) : Except (Option Nat) α :=
  match x with
  | .ok v => .ok v
  | .error (.fault _) => .error (some status)
  | .error (.wait _) => .error none

/-- Go on unless a condition refuses. -/
def guardStatus (bad : Bool) (status : Nat) : Except (Option Nat) Unit :=
  if bad then .error (some status) else .ok ()

/-- The PARAMBYTES of a graph's node, for the check of its patches. -/
def State.nodeParamBytes (s : State) (iface : Nat) (nodePtr : DWord) (n : Nat) : Except (Option Nat) Nat :=
  match refusedAs stGraph (s.cpRead iface (nodePtr + BitVec.ofNat 64 (128 * n)) 128) with
  | .error x => .error x
  | .ok bs => .ok (Packet.ofWords (packetWords bs)).paramBytes

/-- Every patch names a node and stays in its PARAMBYTES (R207). -/
def State.patchesOk (s : State) (iface : Nat) (nodePtr : DWord) (nodes : Nat) : List (Patch × Bool) →
    Except (Option Nat) Unit
  | [] => .ok ()
  | (p, ok) :: r =>
    if ok = false ∨ p.node ≥ nodes then .error (some stGraph)
    else
      match s.nodeParamBytes iface nodePtr p.node with
      | .error x => .error x
      | .ok n => if p.offset + p.bytes.length > n then .error (some stGraph) else s.patchesOk iface nodePtr nodes r

/-- The graph object and the patch list of a GRAPH packet (R206, R207). -/
def State.admitGraph (s : State) (iface : Nat) (p : Packet) : Except (Option Nat) Admitted := do
  let l ← refusedAs stGraph (s.checkAt (cpReq iface .read 64) .load 1 p.code)
  let (nodes, edges, nodePtr, edgePtr, zero) := headerOf (l.bytes.map s.homeByte)
  guardStatus (!zero || nodes == 0 || nodes > 4096) stGraph
  let es ← refusedAs stGraph (s.cpTable iface edgePtr 4 (fun _ => false) edges)
  let pairs := es.map (edgeOf nodes)
  guardStatus (pairs.any Option.isNone) stGraph
  let ps ← refusedAs stGraph (s.cpTable iface p.params 16 (fun _ => false) (p.paramBytes / 16))
  s.patchesOk iface nodePtr nodes (ps.map patchOf)
  let header := (l.bytes.head?.bind Place.key).getD 0
  .ok (.graph header nodes nodePtr (pairs.filterMap id) (ps.map (fun v => (patchOf v).1)))

/-- The parameters, bands and stages of a KERNEL packet (R189, 03 R99, R209, 03 R90, R199). -/
def State.admitKernel (s : State) (iface : Nat) (p : Packet) : Except (Option Nat) Admitted := do
  let params ← if p.paramBytes = 0 then .ok [] else refusedAs stParams (s.cpRead iface p.params p.paramBytes)
  let vs ← if p.bands = 0#64 then .ok []
    else refusedAs stBands (s.cpTable iface p.bands 16 (fun v => v / 2 ^ 40 % 2 ^ 16 == 0) 256)
  let bands ← match (if p.bands = 0#64 then some (defaultBands p) else bandsOfTable p vs) with
    | some b => .ok b
    | none => .error (some stBands)
  let ts ← if p.staged then refusedAs stStages (s.cpTable iface p.stages 32 (fun v => v / 2 ^ 192 == 0) 4) else .ok []
  guardStatus (p.staged && stagesRefused p ts) stStages
  guardStatus (p.isPopulation && p.crews * p.gangs * 96 > 2 ^ 32) stPopulation
  guardStatus (p.cosched && !s.coschedFits iface p) stCosched
  .ok (.kernel params bands (ts.map stageOf))

/-- The checks of a packet, in the order of R196: a status where one refuses, none while a lookup waits. -/
def State.checkPacket (s : State) (iface : Nat) (isNode : Bool) (ws : List Nat) (p : Packet) : Except (Option Nat) Admitted := do
  guardStatus (p.kind > 2 || (isNode && p.kind == 1)) stKind
  guardStatus (fieldRefused ws p s.spadBytes) stField
  guardStatus (p.priority > (s.ifc iface).maxPrio) stQuota
  guardStatus (p.paramBytes > 4096) stParams
  match p.kind with
  | 0 => s.admitKernel iface p
  | 1 => s.admitGraph iface p
  | _ => .ok .marker

/-! ### The snapshot set (16 R394) -/

/-- Pages of the page-mapped HBM landings of an interface that grant W: the memory key of each page-map entry, and the
page's first granule and count of granules where it is present. -/
def State.writablePages (s : State) (iface : Nat) : List (Nat × Nat × Nat) :=
  (s.labels.map (fun ke =>
    let k := ke.1
    let e := ke.2
    if k.dev = 0 ∧ k.level = lvD ∧ k.iface = iface ∧ e.action = .land ∧ e.hop = 0x01#8 ∧ e.w = true ∧ e.psz ≠ 3 then
      (List.range (e.pageCount * (if e.shadowed then 2 else 1))).filterMap (fun i =>
        let key := (e.base.extractLsb' 0 40).toNat + 16 * i
        let m := s.pageEntry key
        if m.getLsbD 0 then some (key, pagePpn m, e.pageBytes / 65536) else none)
    else [])).flatten

/-- Set COW in the page-map entries of these pages (R394, R400). -/
def State.setCow (s : State) (ps : List (Nat × Nat × Nat)) : State :=
  ps.foldl (fun s p => { s with mem := s.mem.putBytes p.1 (leBytes 16 (s.pageEntry p.1 ||| 2#128).toNat) }) s

/-- The snapshot of a launch that asks for one, at its dequeue (R394, R396). -/
def State.startSnapshot (s : State) (l : Launch) : State :=
  if l.packet.snapshot = false then { s with launches := s.launches ++ [l] }
  else
    let ps := s.writablePages l.iface
    let snap : Snapshot :=
      { set := (ps.map (fun p => (p.2.1, p.2.2))).eraseDups, copied := [], missed := [], seals := [], sels := [],
        nonReplayable := false, replays := 0 }
    let s1 := { s with launches := s.launches ++ [{ l with snapshot := some snap }] }
    let s2 := s1.setCow ps
    if (s2.reg l.iface rUcPages).extractLsb' 0 32 = 0#32 then s2.nonReplayable l.seq else s2

/-! ### Dequeuing (R194, R202) -/

/-- The device takes work: booted and ACTIVE (20 R468, R471). -/
def State.serving (s : State) : Bool := s.pkg.boot == 0x80 && s.pw.pstate == .active

/-- The queue has a packet that the device may look at (R192, R193); a RESTORE ends first (16 R414). -/
def State.servable (s : State) (iface q : Nat) : Bool :=
  let u := s.queue iface q
  s.serving && q < (s.ifc iface).queues && u.enable && !u.error && u.head != u.tail && s.reg iface rSnapStat != 1#64

/-- Pointer to the slot at HEAD (R191). -/
def Queue.slotPtr (u : Queue) : DWord := u.base + BitVec.ofNat 64 (128 * (u.head.toNat % 2 ^ u.log2))

/-- Every crew of the launch has been placed for the first time (R202). -/
def Launch.allPlaced (l : Launch) : Bool := l.packet.crews ≤ l.nextCrew

/-- Every crew of every node of a replay has been placed for the first time (R202). -/
def State.replayPlaced (s : State) (r : Replay) : Bool :=
  r.done.length + r.running.length == r.nodes &&
    r.running.all (fun n => match s.launch? n.2 with | some l => l.allPlaced | none => true)

/-- The packet at HEAD may begin: its queue's earlier launches have ended, or with OVERLAP are placed (R202). -/
def State.mayBegin (s : State) (iface q : Nat) (overlap : Bool) : Bool :=
  s.launches.all (fun l => l.iface != iface || l.queue != q || l.graph.isSome || (overlap && l.allPlaced)) &&
    s.replays.all (fun r => r.iface != iface || r.queue != q || (overlap && s.replayPlaced r))

/-- The device wakes at this doorbell store or admission (20 R470). -/
def State.wake (s : State) : State := { s with pw := { s.pw with woken := true } }

/-- A launch takes its place among those admitted. Time before START is not counted, and a START already past delays
nothing (R208). -/
def State.admitLaunch (s : State) (l : Launch) : State :=
  s.wake.startSnapshot { l with started := !l.packet.timed || decide (l.packet.start.toNat ≤ (s.view l.iface).toNat) }

/-- DEQUEUE (R194, R202). A packet that cannot be read is taken as one without OVERLAP (log entry 32). -/
def execDequeue (iface q : Nat) (s : State) : Out :=
  if s.servable iface q = false then .next s
  else
    let u := s.queue iface q
    match s.cpRead iface u.slotPtr 128 with
    | .error (.wait _) => .next s
    | .error (.fault _) =>
      if s.mayBegin iface q false then .next (s.setQueue iface q { u with error := true }) else .next s
    | .ok bs =>
      let ws := packetWords bs
      let p := Packet.ofWords ws
      if s.mayBegin iface q p.overlap = false then .next s
      else
        let seq := s.admSeq + 1
        let slot := u.slotPtr.toNat
        let s1 := { s.setQueue iface q { u with head := u.head + 1#32 } with admSeq := seq }
        let ended (status : Nat) : Out := match s1.complete iface q slot seq status .reset p with
          | some t => .next t
          | none => .next s
        match s.checkPacket iface false ws p with
        | .error none => .next s
        | .error (some status) => ended status
        | .ok .marker => ended 0
        | .ok (.kernel params bands stages) =>
          .next (s1.admitLaunch { freshLaunch seq iface q slot none p with
            params := params, bandList := bands, stageList := stages })
        | .ok (.graph header nodes nodePtr edges patches) =>
          let r : Replay :=
            { iface := iface, queue := q, slot := slot, seq := seq, header := header, packet := p, nodes := nodes,
              nodePtr := nodePtr, edges := edges, patches := patches, done := [], discarded := false, running := [] }
          .next { s1 with replays := s1.replays ++ [r] }

/-! ### Graph nodes (R207) -/

/-- A node of the replay has failed or been refused, or the replay is discarded (17 R417). -/
def Replay.failed (r : Replay) : Bool := r.discarded || r.done.any (fun d => d.2.1 != 0)

/-- The failing node with the lowest index; DISCARDED of the replay itself, or DONE (R207, 17 R417). -/
def Replay.result (r : Replay) : Nat × ErrRec :=
  let bad := r.done.filter (fun d => d.2.1 != 0)
  match bad.foldl (fun (acc : Option (Nat × Nat × ErrRec)) d => match acc with
      | none => some d
      | some b => if d.1 < b.1 then some d else acc) none with
  | some d => d.2
  | none => (if r.discarded then stDiscarded else 0, .reset)

/-- The last node has ended. -/
def Replay.ended (r : Replay) : Bool := r.running.isEmpty && (r.failed || r.done.length == r.nodes)

def State.modReplay (s : State) (seq : Nat) (f : Replay → Replay) : State :=
  { s with replays := s.replays.map (fun r => if r.seq = seq then f r else r) }

/-- The replay's record still waits for a lookup. -/
def State.replayWaits (s : State) : List Nat := (s.replays.filter Replay.ended).map Replay.seq

/-- End a replay whose last node has ended: the GRAPH slot's record and DONE binder (R207). -/
def State.settleReplay (s : State) (seq : Nat) : State :=
  match s.replays.find? (fun r => r.seq == seq) with
  | none => s
  | some r =>
    if r.ended = false then s
    else
      match s.complete r.iface r.queue r.slot r.seq r.result.1 r.result.2 r.packet with
      | none => s
      | some t => { t with replays := t.replays.filter (fun x => x.seq != seq) }

/-- A node ends with a status: its own DONE binder is served, and it writes no record (R195, R207). None while a lookup
waits. -/
def State.endNode (s : State) (seq node status : Nat) (e : ErrRec) (iface : Nat) (p : Packet) : Option State :=
  match s.doneCheck iface p with
  | none => none
  | some (_, l) =>
    some (((s.serveDone l p).modReplay seq (fun r =>
      { r with done := r.done ++ [(node, status, e)], running := r.running.filter (fun n => n.1 != node) })).settleReplay seq)

/-- The device is booted, and not PARKED: an admission wakes it from IDLE (20 R470). -/
def State.admits (s : State) : Bool := s.pkg.boot == 0x80 && (s.pw.pstate == .active || s.pw.pstate == .idle)

/-- The node may be dequeued: every node before it has ended, no earlier replay of the object runs, and the replay's START is
past (R205, R207). -/
def State.nodeReady (s : State) (r : Replay) (node : Nat) : Bool :=
  s.admits && node < r.nodes && !r.failed && r.done.all (fun d => d.1 != node) && r.running.all (fun n => n.1 != node) &&
    r.edges.all (fun e => e.2 != node || r.done.any (fun d => d.1 == e.1)) &&
    s.replays.all (fun x => x.header != r.header || r.seq ≤ x.seq) &&
    (!r.packet.timed || decide (r.packet.start.toNat ≤ (s.view r.iface).toNat)) && s.reg r.iface rSnapStat != 1#64

/-- GRAPH_NODE_DEQUEUE (R207). A node whose packet cannot be read ends with GRAPH, and with no DONE binder of its own (log entry
101). -/
def execGraphNodeDequeue (graph node : Nat) (s : State) : Out :=
  match s.replays.find? (fun r => r.seq == graph) with
  | none => .next s
  | some r =>
    if s.nodeReady r node = false then .next s
    else
      let s1 := { s with admSeq := s.admSeq + 1 }
      let seq := s1.admSeq
      let ended (status : Nat) (p : Packet) : Out := match s1.endNode graph node status .reset r.iface p with
        | some t => .next t
        | none => .next s
      match s.cpRead r.iface (r.nodePtr + BitVec.ofNat 64 (128 * node)) 128 with
      | .error (.wait _) => .next s
      | .error (.fault _) => ended stGraph Packet.zero
      | .ok bs =>
        let ws := packetWords bs
        let p := Packet.ofWords ws
        match s.checkPacket r.iface true ws p with
        | .error none => .next s
        | .error (some status) => ended status p
        | .ok .marker | .ok (.graph _ _ _ _ _) => ended 0 p
        | .ok (.kernel params bands stages) =>
          .next ((s1.modReplay graph (fun r => { r with running := r.running ++ [(node, seq)] })).admitLaunch
            { freshLaunch seq r.iface r.queue 0 (some (graph, node)) p with
              params := patched params (r.patches.filter (fun x => x.node == node))
              bandList := bands
              stageList := stages })

/-! ### Doorbells and the queue port (R192, R193) -/

/-- A doorbell store (R192, R222, 20 R468, R470, R471). -/
def execDoorbell (iface queue : Nat) (v : Word) (s : State) : Out :=
  let u := s.queue iface queue
  if s.pkg.boot ≠ 0x80 ∨ queue ≥ (s.ifc iface).queues then .next s
  else if u.enable = false ∨ u.error = true ∨ v = u.tail then .next s.wake
  else
    let room := 2 ^ u.log2 - (u.tail - u.head).toNat
    .next (s.wake.setQueue iface queue
      (if (v - u.tail).toNat ≤ room then { u with tail := v } else { u with error := true }))

/-- The number of the queue that QSEL names. -/
def State.qsel (s : State) (iface : Nat) : Nat := (s.reg iface rQSel).toNat % 1024

/-- A reserved bit of QSEL is set (R193). -/
def State.qselReserved (s : State) (iface : Nat) : Bool := (s.reg iface rQSel).extractLsb' 10 54 != 0#54

/-- The descriptor in QDATA0 to QDATA3. -/
def State.qdata (s : State) (iface : Nat) : BitVec 256 :=
  s.reg iface (rQData + 24) ++ s.reg iface (rQData + 16) ++ s.reg iface (rQData + 8) ++ s.reg iface rQData

/-- A descriptor as 256 bits (R191). -/
def Queue.bits (u : Queue) : BitVec 256 :=
  u.base ++ u.tail ++ u.head ++ 0#117 ++ BitVec.ofBool u.error ++ BitVec.ofBool u.enable ++ 0#4 ++ BitVec.ofNat 5 u.log2

/-- WRITE (R193). -/
def execQcmdWrite (iface : Nat) (s : State) : Out :=
  let q := s.qsel iface
  let d := s.qdata iface
  let u := s.queue iface q
  let base := d.extractLsb' 192 64
  let enable := d.getLsbD 9
  let log2 := (d.extractLsb' 0 5).toNat
  if s.qselReserved iface then .next (s.setReg iface rQStat 0x10#64)
  else if q ≥ (s.ifc iface).queues then .next (s.setReg iface rQStat 0x11#64)
  else if d.extractLsb' 11 117 ≠ 0#117 ∨ d.extractLsb' 5 4 ≠ 0#4 ∨ log2 < 1 ∨ 16 < log2 ∨ base.extractLsb' 0 7 ≠ 0#7 ∨
      (u.enable = true ∧ enable = true ∧ (base ≠ u.base ∨ log2 ≠ u.log2)) then
    .next (s.setReg iface rQStat 0x10#64)
  else
    let v : Queue := { u with base := base, log2 := log2, enable := enable }
    let w : Queue := if enable then { v with head := 0#32, tail := 0#32, error := false } else v
    .next ((s.setQueue iface q w).setReg iface rQStat 0#64)

/-- READ (R193). -/
def execQcmdRead (iface : Nat) (s : State) : Out :=
  let q := s.qsel iface
  if s.qselReserved iface then .next (s.setReg iface rQStat 0x10#64)
  else if q ≥ (s.ifc iface).queues then .next (s.setReg iface rQStat 0x11#64)
  else
    let d := (s.queue iface q).bits
    .next (((((s.setReg iface rQData (d.extractLsb' 0 64)).setReg iface (rQData + 8) (d.extractLsb' 64 64)).setReg iface
      (rQData + 16) (d.extractLsb' 128 64)).setReg iface (rQData + 24) (d.extractLsb' 192 64)).setReg iface rQStat 0#64)

end Sys2Proof.Machine
end

