-- ==== Sys2Proof/Machine/Fabric.lean ====
section
/-! DEFINITION. The EN instructions of the fabric and of locality: MCAST (18 R446 to R450), RACK (18 R451, 10 R484), PEERQ (18
R452) and LOCQ (17 R424 to R426), and the step that completes an engine operation with its token (11 R312). -/

namespace Sys2Proof.Machine

/-! ### MCAST (R446 to R449) -/

/-- The group entry of a number; one that no one wrote is not valid (R446). -/
def State.group (s : State) (n : Nat) : GroupEntry :=
  match s.fab.groups.find? (fun g => g.1 == n) with
  | some g => g.2
  | none => { tree := [], valid := false, owner := 0, dest := 0#64, flag := 0#64, limit := 0 }

/-- The device and child count of a unit (R447). -/
def unitDevice (u : Nat) : Nat := u / 16
def unitChildren (u : Nat) : Nat := u % 16

/-- The first `n` subtrees of a pre-order list as one list, and the rest; fuel bounds the units. -/
def takeTrees : Nat → Nat → List Nat → List Nat × List Nat
  | 0, _, us => ([], us)
  | _, 0, us => ([], us)
  | f + 1, n + 1, us =>
    match us with
    | [] => ([], [])
    | u :: r =>
      let x := takeTrees f (unitChildren u) r
      let y := takeTrees f n x.2
      (u :: x.1 ++ y.1, y.2)

/-- The subtrees of a list of subtrees. -/
def subtrees : Nat → List Nat → List (List Nat)
  | 0, _ => []
  | f + 1, us =>
    match us with
    | [] => []
    | _ :: _ =>
      let x := takeTrees (us.length + 1) 1 us
      x.1 :: subtrees f x.2

/-- The subtrees of a tree's root, its own unit stripped. -/
def childTrees (tree : List Nat) : List (List Nat) :=
  match tree with
  | [] => []
  | _ :: r => subtrees (r.length + 1) r

/-- Queue the packets of a multicast to each child of a tree; a child that is not reachable answers at once with 0x30 for
every unit of its subtree (R447, R449). The flit's PTR names the group (log entry 24). -/
def State.sendChildren (s : State) (tree : List Nat) (iface group offset tag src : Nat) (data : List Byte)
    (owner : Option GangRef) : State × List (Nat × Nat) :=
  (childTrees tree).foldl
    (fun acc t =>
      let dev := unitDevice (t.headD 0)
      if acc.1.fab.reach.contains dev then
        let f : Flit := { acc.1.flit dev .mcast true (iface, BitVec.ofNat 64 group) data tag with src := src }
        ({ acc.1 with fab := { acc.1.fab with
            egress := acc.1.fab.egress ++ [{ flit := f, owner := owner, mcast := some (t, offset) }] } }, acc.2)
      else (acc.1, acc.2 ++ t.map (fun u => (unitDevice u, kPeer)))) (s, [])

/-- Uncompleted MCAST operations of a gang (R448). -/
def State.mcastOps (s : State) (r : GangRef) : Nat :=
  s.engineOps .mcast r

/-- A fault of MCAST at level C (R448). -/
def mcastFault (kind off : Nat) : Fail := .fault { FaultInfo.plain kind with pointer := BitVec.ofNat 64 off }

/-- The operation of an MCAST whose operands are good: nothing is sent for an entry that is not this interface's, and an
uncorrectable source is the token (R449, 08 R481). -/
def State.mcastStart (s : State) (i : Instr) (ack : Bool) (t : SReg) (vals : List DWord) (off n grp dest : Nat) : Out :=
  let e := s.group grp
  let places := (Place.scratch s.myCore (s.myBase + off)).run n
  if e.valid = false ∨ e.owner ≠ s.myIface then .next (s.startOp i t vals false (.value 0x12#32 .mcast))
  else if (s.poisonedByte places).isSome then .next (s.startOp i t vals false (.value 0x20#32 .mcast))
  else if s.isSecondary then .next (s.startOp i t vals false (.twin .mcast))
  else if (childTrees e.tree).any (fun c => s.egressNoRoom (unitDevice (c.headD 0)) ((n + 223) / 224)) then
    .next (s.again .egress)
  else
    let data := places.map s.ownByte
    let s1 := s.noteReplay s.g.ref [.peerHbm 0 0]
    let (s2, early) := s1.sendChildren e.tree s1.myIface grp dest s1.nextId s1.pkg.device data (some s1.g.ref)
    .next ((s2.countLines places).startOp i t vals false
      (.mcast ack off dest s1.myIface e.tree [] early true))

def execMcast (ack : Bool) (t x y z w : SReg) (s : State) : Out :=
  let i : Instr := .mcast ack t x y z w
  let vals (s : State) : List DWord := [x, y, z, w].map (fun r => (s.rd r).setWidth 64)
  s.en (some roleFabric) true i t [.s x, .s y, .s z, .s w] vals (fun s =>
    let off := (s.rd x).toNat
    let n := (s.rd y).toNat
    if s.mcastOps s.g.ref ≥ 4 then .next (s.kill .context)
    else if off % 16 ≠ 0 ∨ n % 16 ≠ 0 then s.failed (mcastFault kAlign off)
    else if n = 0 ∨ off + n > s.myAlloc then s.failed (mcastFault kLimit off)
    else s.mcastStart i ack t (vals s) off n ((s.rd z).toNat % 1024) (s.rd w).toNat)

/-- The token of an MCAST, once it has one (R449): the first error in tree pre-order. -/
def mcastToken (ack : Bool) (tree : List Nat) (answers : List (Nat × Nat)) : Option Word :=
  if ack = false then some 0#32
  else
    let others := tree.drop 1
    if others.all (fun u => answers.any (fun a => a.1 == unitDevice u)) then
      some (BitVec.ofNat 32 ((others.findSome? (fun u =>
        (answers.find? (fun a => a.1 == unitDevice u && a.2 != 0)).map Prod.snd)).getD 0))
    else none

/-! ### RACK (R451, R484) -/

def State.rackUses (s : State) (i : Instr) (t : SReg) (x : List SReg) (dev : State → Option Nat) : Out :=
  let vals (s : State) : List DWord := x.map (fun r => (s.rd r).setWidth 64)
  s.en (some roleFabric) true i t (x.map RegRef.s) vals (fun s =>
    .next (s.flushCoalescer.startOp i t (vals s) false (.rack (dev s))))

def execRack (t : SReg) (s : State) : Out := s.rackUses (.rack t) t [] (fun _ => none)

def execRackDev (t x : SReg) (s : State) : Out :=
  s.rackUses (.rackDev t x) t [x] (fun s => some ((s.rd x).toNat % 4096))

/-- The device is one that a RACK asks about. -/
def rackNames (dev : Option Nat) (d : Nat) : Bool :=
  match dev with
  | none => true
  | some e => d == e

/-- Every remote write and atomic before the RACK is acknowledged or discarded (R451). -/
def State.rackDone (s : State) (o : Op) (dev : Option Nat) : Bool :=
  s.fab.unacked.all (fun u => !(u.owner == o.owner && u.id < o.id && rackNames dev u.dev))

/-- A RACK ends and reports what was discarded (R484). -/
def State.endRack (s : State) (o : Op) (dev : Option Nat) : State :=
  if s.rackDone o dev then
    let lost := match s.gang? o.owner with
      | some h => h.discarded.any (fun r => rackNames dev r.dev)
      | none => false
    (s.modGang o.owner (fun h => { h with discarded := h.discarded.filter (fun r => !rackNames dev r.dev) })).endOp o
      (if lost then 0x30#32 else 0#32)
  else s

/-! ### PEERQ (R452) -/

def execPeerq (sel : PeerSel) (t x : SReg) (s : State) : Out :=
  let i : Instr := .peerq sel t x
  let vals (s : State) : List DWord := [(s.rd x).setWidth 64]
  s.en (some roleFabric) true i t [.s x] vals (fun s =>
    .next (s.startOp i t (vals s) false (.peerq sel ((s.rd x).toNat % 4096))))

/-- A LIT entry that names a device (R434). -/
def entryNames (e : Word) (dev : Nat) : Bool := e.getLsbD 16 && (e.extractLsb' 4 12).toNat == dev

/-- Ticks to the next lit window of a circuit of port `p` to a device (R433, R452). -/
def Port.nextSlot (c : Port) (p time dev : Nat) : Option Nat :=
  let size := c.calendar.length
  let n := (time - 256 * p) / 4096
  let start (k : Nat) : Nat := 256 * p + 4096 * (n + k)
  let named (k : Nat) : Bool := match c.calendar[(n + k) % size]? with
    | some e => entryNames e dev
    | none => false
  if size = 0 then none
  else if c.state == .up && c.circuitAt p time == some dev then some 0
  else ((List.range (size + 1)).find? (fun k => named k && start k > time)).map (fun k => start k - time)

/-- The least of some numbers. -/
def leastOf (xs : List Nat) : Option Nat :=
  xs.foldl (fun (a : Option Nat) x => match a with
    | none => some x
    | some y => some (min x y)) none

/-- The value of PEERQ (R452). -/
def State.peerValue (s : State) (iface : Nat) (sel : PeerSel) (dev : Nat) : Word :=
  match sel with
  | .state =>
    if dev = s.pkg.device then 0#32
    else if s.fab.reach.contains dev = false then 2#32
    else if s.fab.suspects.contains dev then 3#32
    else 1#32
  | .egress =>
    let mine := s.fab.egress.filter (fun o => o.flit.dst == dev && o.flit.iface == iface)
    BitVec.ofNat 32 (min 0xFFFFFFFF (mine.map (fun o => o.flit.payload.length)).sum)
  | .nextSlot =>
    (match leastOf ((List.range 16).filterMap (fun p => match s.fab.ports.toList[p]? with
        | some c => c.nextSlot p s.time dev
        | none => none)) with
     | some n => BitVec.ofNat 32 (min n 0xFFFFFFFF)
     | none => 0xFFFFFFFF#32)
  | .slots =>
    BitVec.ofNat 32 ((s.fab.ports.toList.map (fun c => (c.calendar.filter (fun e => entryNames e dev)).length)).sum)

/-! ### LOCQ (17 R415, R424 to R426) -/

/-- The link that joins two adjacent dies (R415). -/
def linkOf (a b : Nat) : Option Nat :=
  match min a b, max a b with
  | 0, 1 => some 0
  | 1, 3 => some 1
  | 2, 3 => some 2
  | 0, 2 => some 3
  | _, _ => none

/-- Hops on the current route between two dies (R415). -/
def State.dieHops (s : State) (a b : Nat) : Nat :=
  if a = b then 0
  else
    match linkOf a b with
    | some k => if s.pkg.linkUp.getLsbD k then 1 else 3
    | none => 2

/-- The result word (R425). -/
def locWord (die dist type inst level code : Nat) : Word :=
  BitVec.ofNat 32 (die * 2 ^ 30 + dist * 2 ^ 24 + type * 2 ^ 16 + inst * 2 ^ 11 + level * 2 ^ 8 + code)

/-- A refusal (R426). -/
def locRefused (x : Stop) : Option Word :=
  match x with
  | .fault kind level inst _ _ => some (locWord 0 0xF 0 (resultInst level inst) level kind)
  | .wait _ => none

/-- LOCQ of a pointer, for a gang's request (R426). -/
def State.locValue (s : State) (req : Req) (p : DWord) : Option Word :=
  let die := req.core / 160
  let w := Walk.start die req.iface (ptrLabels p) (ptrOffset p)
  match ptrLabels p with
  | [] => locRefused (w.refuse kNullDepth)
  | label :: _ =>
    if label = 0xFFF ∨ label = 0xFFE then
      match State.coreWindow w label { req with need := { r := false, w := false, x := false, a := false, s := false } } with
      | .error x => locRefused x
      | .ok _ => some (locWord die 0 (if label = 0xFFF then tScratch else tHbm) 0 lvC 0)
    else
      match s.locate req 12 w with
      | none => none
      | some (.error x) => locRefused x
      | some (.ok (w1, e)) =>
        let d := if w1.lv = lvD ∨ w1.lv = lvRD then w1.inst else 0
        some (locWord d (if w1.lv = lvD then s.dieHops die w1.inst else 4) e.hop.toNat w1.inst w1.lv 0)

/-- LOCQ's lookups come in the gang's program order, so they are made at its issue, where they wait for a quiesce (09 R276, 17 R426). -/
def execLocq (t : SReg) (x : Pair) (s : State) : Out :=
  let i : Instr := .locq t x
  s.en none true i t (pairRegs x) (fun s => [s.rdP x]) (fun s =>
    match s.locValue (s.request .read 1) (s.rdP x) with
    | some v => .next (s.startOp i t [s.rdP x] false (.value v .other))
    | none => s.failed (.wait .quiesce))

def execLocqSelf (t : SReg) (s : State) : Out :=
  let i : Instr := .locqSelf t
  s.en none true i t [] (fun _ => []) (fun s =>
    .next (s.startOp i t [] false (.value (locWord s.myDie 0 0 0 0 0) .other)))

/-! ### Completion (R312) -/

/-- OPERATION_COMPLETION: an operation without a step of its own name takes its step. -/
def State.completeOp (s : State) (o : Op) : State :=
  match o.kind with
  | .value w _ => s.endOp o w
  | .rack dev => s.endRack o dev
  | .peerq sel dev => s.endOp o (s.peerValue o.iface sel dev)
  | .mcast ack _ _ _ tree _ answers _ =>
    (match mcastToken ack tree answers with
     | some v => s.endOp o v
     | none => s)
  | .dcnt _ _ | .dplan _ _ .start | .dgath _ _ .start | .dstat _ _ _ _ _ => s.startDispatch o
  | _ => s

def execOperationCompletion (op : Nat) (s : State) : Out :=
  match s.op? op with
  | none => .next (s.settleOp op)
  | some o => .next (s.completeOp o)

end Sys2Proof.Machine
end

