-- ==== Sys2Proof/Machine/Placement.lean ====
section
/-! DEFINITION. Scheduling: issue selection and promotion (07 R213, 02 R74), the return of data (03 R93), placement, timed start
and resumption of crews (07 R198 to R201, R208, R210, 15 R391), and pre-emption (15 R388 to R392). -/

namespace Sys2Proof.Machine

/-! ### Issue (R213) -/

/-- The gang is ready on this pipe (R213); a gang of a launch that waits for its START is held (R208). -/
def State.readyOn (s : State) (core pipe : Nat) (h : Gang) : Bool :=
  h.sch.run == .ready && h.sch.pipe == pipe &&
    (match s.crew? h.ref.crewRef with | some c => c.site.isResident && c.site.core == core | none => false) &&
    (match s.launch? h.ref.launch with | some l => l.started | none => false)

/-- `a` ranks before `b` by age: placement or latest resumption, then crew, then gang (R213); among equals the model puts the older
launch, then the primary, first (log entry 102). -/
def olderThan (a b : Gang) : Bool :=
  let before (m n : Nat) (r : Bool) : Bool := m < n || (m == n && r)
  before a.sch.age b.sch.age (before a.ref.crew b.ref.crew (before a.ref.gang b.ref.gang
    (before a.ref.launch b.ref.launch (!a.ref.twin))))

/-- `a` issues before `b`: promoted gangs in order of promotion, then the others by age, deferred ones last (R213, R74). -/
def issuesBefore (a b : Gang) : Bool :=
  match a.sch.promoted, b.sch.promoted with
  | some m, some n => m < n
  | some _, none => true
  | none, some _ => false
  | none, none =>
    if a.sch.deferred = b.sch.deferred then olderThan a b else !a.sch.deferred

/-- The gang that issues first. -/
def firstToIssue : List Gang → Option Gang
  | [] => none
  | h :: r =>
    match firstToIssue r with
    | none => some h
    | some b => if issuesBefore b h then some b else some h

/-- Cycles of one issue: three at most (R213). -/
def issueCycles (n : Nat) : Nat := 1 + (Config.reading n).toNat % 3

/-- Promote the ready gangs of a pipe whose counters have reached 64; of several the older first (R213). -/
def State.promoteDue (s : State) (core pipe : Nat) : State :=
  let due (h : Gang) : Bool := s.readyOn core pipe h && 64 ≤ h.sch.notIssued && h.sch.promoted.isNone
  let ds := s.allGangs.filter due
  if ds.isEmpty then s
  else
    { s with nextId := s.nextId + ds.length }.modGangs due (fun h => { h with sch := { h.sch with
      promoted := some (s.nextId + (ds.filter (fun k => olderThan k h)).length), deferred := false } })

/-- The gang stands on this pipe of the core. -/
def State.onPipe (s : State) (core pipe : Nat) (h : Gang) : Bool :=
  h.sch.pipe == pipe &&
    (match s.crew? h.ref.crewRef with | some c => c.site.isResident && c.site.core == core | none => false)

/-- ISSUE_SELECTION: the pipe issues its first gang; those left ready count the cycles, and every deferral on the pipe is spent
(R213, R74). No gang passes one whose counter has reached 64. -/
def execIssueSelection (core pipe : Nat) (s0 : State) : Out :=
  if s0.issuing then .next s0
  else
    let s := s0.promoteDue core pipe
    match firstToIssue (s.allGangs.filter (s.readyOn core pipe)) with
    | none => .next s0
    | some h =>
      let (n, s1) := s.free
      let was (k : Gang) : Pick :=
        { ref := k.ref, notIssued := k.sch.notIssued, promoted := k.sch.promoted, deferred := k.sch.deferred }
      let s2 := { s1 with picks := (s1.allGangs.filter (s1.onPipe core pipe)).map was }.modGangs (s1.onPipe core pipe) (fun k =>
        if k.ref = h.ref then k
        else { k with sch := { k.sch with
          notIssued := if s1.readyOn core pipe k then k.sch.notIssued + issueCycles n else k.sch.notIssued
          deferred := false } })
      .next { s2.select h.ref with issuing := true }

/-- PROMOTION: the counter of cycles spent ready and not issued has reached 64 (R213). -/
def execPromotion (g : GangRef) (s : State) : Out :=
  match s.gang? g with
  | none => .next s
  | some h =>
    if h.sch.notIssued < 64 ∨ h.sch.promoted.isSome then .next s
    else
      let (n, s1) := s.fresh
      .next (s1.modGang g (fun k => { k with sch := { k.sch with promoted := some n, deferred := false } }))

/-- A remote load of the gang will still write this register (18 R441). -/
def State.remotePending (s : State) (g : GangRef) (r : RegRef) : Bool :=
  s.ops.any (fun o => o.owner == g && (match o.kind with
    | .remoteLoad dst _ _ _ _ _ _ =>
      (match dst with
       | .scalar t _ => r == .s t
       | .pair t => r == .s (pairLo t) || r == .s (pairHi t)
       | .lanes d _ _ => (match d, r with
         | .v n, .v m => n.toNat ≤ m.toNat && m.toNat < n.toNat + 4
         | .o n, .o m => n.toNat ≤ m.toNat && m.toNat < n.toNat + 4
         | _, _ => false))
    | _ => false))

/-- A load of the gang that reads its homes as its data returns, into this register (10 R291). -/
def State.lateOp? (s : State) (g : GangRef) (r : RegRef) : Option Op :=
  s.ops.find? (fun o => o.owner == g && (match o.kind with | .localLoad _ _ rs _ => rs.contains r | _ => false))

/-- Data is there for some registers. -/
def clearPending (rs : List RegRef) (h : Gang) : Gang :=
  { h with bd := { h.bd with pending := h.bd.pending.filter (fun q => !rs.contains q) } }

/-- The data of a load is there: for one that reads its homes now, all of it (10 R291). -/
def State.dataBack (s : State) (g : GangRef) (r : RegRef) : State :=
  match s.lateOp? g r with
  | some o => (s.endLate o).modGang g (clearPending (match o.kind with | .localLoad _ _ rs _ => rs | _ => []))
  | none => s.modGang g (clearPending [r])

/-- DATA_RETURN: the data of a load is there, and readers of its register go on (R93). -/
def execDataReturn (g : GangRef) (r : RegRef) (s : State) : Out :=
  if s.remotePending g r then .next s else .next (s.dataBack g r).wakeBoards.settleDrains

/-! ### Room (03 R83, R84, 08 R226) -/

/-- Accesses of other crews to a crew's allocation that are under way are performed on the bytes that it holds (08 R254). -/
def State.settleAlloc (s : State) (r : CrewRef) : State :=
  let s1 := (s.wq.filter (fun w => !s.isBuffered w && w.places.any (s.inAllocation r))).foldl State.performFrom s
  let s2 := (s1.ops.filter (fun o => match o.kind with
    | .localLoad _ _ _ items => items.any (fun i => i.places.any (s.inAllocation r))
    | _ => false)).foldl
    (fun s o => match o.kind with
      | .localLoad _ _ (q :: _) _ => s.dataBack o.owner q
      | _ => s) s1
  s2.wakeBoards.settleDrains

/-- Bytes of an allocation that has gone, in the store buffers of other Plumb crews: their stores were on the old bytes (08 R254). -/
def State.loseBuffered (s : State) (r : CrewRef) : State :=
  { s with wq := s.wq.map (fun w => match w.kind with
      | .bytes bs pages owner route =>
        if s.isBuffered w && w.owner.crewRef != r then
          { w with kind := .bytes (bs.filter (fun b => !s.inAllocation r b.1)) pages owner route }
        else w
      | .elem _ _ _ _ _ _ | .seal _ _ _ => w) }

/-- The store buffer of another crew's Plumb primary has stores to the crew's allocation: they are under way (08 R254). -/
def State.bufferedInto (s : State) (r : CrewRef) : Bool :=
  s.wq.any (fun w => s.isBuffered w && !w.owner.twin && w.owner.launch != r.launch && w.places.any (s.inAllocation r))

/-- Mark the crews that have ended. -/
def State.markEnded (s : State) : State :=
  { s with crews := s.crews.map (fun c =>
      if c.site.isResident && s.crewEnded c.ref then { c with site := .ended, holdsArrays := false } else c) }

/-- A crew that has ended frees its slots and scratchpad at once (R198). -/
def State.reap (s : State) : State :=
  ((s.crews.filter (fun c => c.site.isResident && s.crewEnded c.ref)).foldl (fun s c => (s.settleAlloc c.ref).loseBuffered c.ref) s).markEnded

/-- The crew is drained: no new crew takes what its gangs free before it ends (15 R388). -/
def State.draining (s : State) (r : CrewRef) : Bool :=
  match s.crew? r with
  | some c => (match c.preempt with | .drain _ => true | .no | .save | .flush => false)
  | none => false

/-- The gang still takes its slot: it runs, operations of it are not complete (R387), or its crew is drained (R388). -/
def State.takesSlot (s : State) (h : Gang) : Bool :=
  !h.sch.run.isOver || s.draining h.ref.crewRef || s.ops.any (fun o => o.owner == h.ref) || s.wq.any (fun w => w.owner == h.ref) ||
    s.fab.unacked.any (fun u => u.owner == h.ref)

/-- Bytes of the main register slice that a launch's gang takes (R83). -/
def State.gangBytes (s : State) (launch : Nat) : Nat :=
  match s.launch? launch with
  | some l => 384 * l.packet.vregs
  | none => 0

/-- Gangs on a pipe, and the bytes of its slice that they take. -/
def State.pipeUse (s : State) (core pipe : Nat) : Nat × Nat :=
  let hs := s.allGangs.filter (fun h => h.sch.pipe == pipe && s.takesSlot h &&
    (match s.crew? h.ref.crewRef with | some c => c.site.isResident && c.site.core == core | none => false))
  (hs.length, (hs.map (fun h => s.gangBytes h.ref.launch)).sum)

/-- A pipe for each of `n` gangs of `bytes` bytes, or none (R83, R84). `use` is what the pipes hold. -/
def pipesFor (use : List (Nat × Nat)) (bytes : Nat) : Nat → Option (List Nat)
  | 0 => some []
  | n + 1 =>
    match (List.range use.length).find? (fun i => match use[i]? with
      | some u => u.1 < 8 && u.2 + bytes ≤ 262144
      | none => false) with
    | none => none
    | some i => (pipesFor (use.modify i (fun u => (u.1 + 1, u.2 + bytes))) bytes n).map (fun is => i :: is)

def State.pipes (s : State) (core : Nat) (p : Packet) : Option (List Nat) :=
  pipesFor ((List.range 8).map (s.pipeUse core)) (384 * p.vregs) p.gangs

/-- Scratchpad ranges in use on a core: first byte and length. -/
def State.ranges (s : State) (core : Nat) : List (Nat × Nat) :=
  (s.crews.filter (fun c => c.site.isResident && c.site.core == core)).map (fun c =>
    (c.site.base, allocBytes (match s.launch? c.ref.launch with | some l => l.packet.scratch | none => 0)))

/-- A range is free on a core. -/
def State.rangeFree (s : State) (core base alloc : Nat) : Bool :=
  base % 256 == 0 && base + alloc ≤ s.spadBytes &&
    (alloc == 0 || (s.ranges core).all (fun r => r.2 == 0 || base + alloc ≤ r.1 || r.1 + r.2 ≤ base))

/-- The first free place of an allocation: not architectural (R81, R198). -/
def State.findBase (s : State) (core alloc : Nat) : Option Nat :=
  (0 :: (s.ranges core).map (fun r => r.1 + r.2)).find? (fun b => s.rangeFree core b alloc)

/-- A crew of the launch fits the core (R84). -/
def State.fitsOn (s : State) (l : Launch) (core : Nat) : Bool :=
  s.coreOn core && (s.pipes core l.packet).isSome && (s.findBase core (allocBytes l.packet.scratch)).isSome

/-! ### The order of R198 -/

/-- The launch's lowest crew that is not placed: its index, and whether it is a saved one. -/
def State.nextCrewOf (s : State) (l : Launch) : Option (Nat × Bool) :=
  let out := s.crews.filter (fun c => c.ref.launch == l.seq && c.ref.twin == false &&
    (match c.site with | .saved _ _ | .unplaced => true | .resident _ _ | .ended => false))
  let saved (c : Crew) : Bool := match c.site with | .saved _ _ => true | _ => false
  match out.foldl (fun (b : Option Crew) c => match b with
      | none => some c
      | some x => if c.ref.crew < x.ref.crew then some c else b) none with
  | some c => some (c.ref.crew, saved c)
  | none => if l.nextCrew < l.packet.crews then some (l.nextCrew, false) else none

/-- Resident crews of an interface (R197). -/
def State.residentCrews (s : State) (iface : Nat) : Nat :=
  (s.crews.filter (fun c => c.site.isResident && s.ifaceOf c.ref.launch == iface)).length

/-- Copies of each crew (16 R403). -/
def Packet.copies (p : Packet) : Nat := if p.plumb then 2 else 1

/-- Crews that the launch places at once: all of them when COSCHED (R199, R201). -/
def State.atOnce (s : State) (l : Launch) : Nat :=
  if l.packet.cosched then
    l.packet.crews - (s.crews.filter (fun c => c.ref.launch == l.seq && c.ref.twin == false &&
      (c.site == .ended || c.site.isResident))).length
  else 1

/-- The launch has an unplaced crew, and its interface is below CREWMAX (R198). A COSCHED launch stands in the order whether all its
crews would fit below CREWMAX or not (R199). -/
def State.wants (s : State) (l : Launch) : Bool :=
  l.phase == .running && !l.halted && (s.nextCrewOf l).isSome &&
    (if l.packet.cosched then decide (s.residentCrews l.iface < (s.ifc l.iface).crewMax)
     else decide (s.residentCrews l.iface + l.packet.copies ≤ (s.ifc l.iface).crewMax))

/-- The launch to serve among these: highest priority, then the round-robin that each round starts from the oldest (R198). -/
def chooseLaunch (ls : List Launch) : Option Launch :=
  let top := ls.foldl (fun m l => max m l.packet.priority) 0
  let best := ls.filter (fun l => l.packet.priority == top)
  let left := best.filter (fun l => l.turn == 0)
  (if left = [] then best else left).foldl (fun (b : Option Launch) l => match b with
    | none => some l
    | some x => if l.seq < x.seq then some l else b) none

/-! ### Placement (R198, R199, R210) -/

/-- Place one crew on a core, from entry state (R84, R210, R212, 08 R226, 12 R318). -/
def State.placeCrew (s : State) (l : Launch) (r : CrewRef) (core : Nat) : Option State :=
  match s.pipes core l.packet, s.findBase core (allocBytes l.packet.scratch) with
  | some pipes, some base =>
    if s.coreOn core = false then none
    else
      let counts := if l.packet.staged then stageCounts l.packet.gangs l.stageList else []
      let old := match s.crew? r with | some c => c | none => freshCrew r
      let c : Crew :=
        { freshCrew r with
          site := .resident core base, stageCounts := counts, saves := old.saves, resident := old.resident, placedOnce := true }
      let s1 := { s with
        crews := s.crews.filter (fun (x : Crew) => x.ref != r) ++ [c]
        mem := s.mem.zero (scratchKey core base) (allocBytes l.packet.scratch) }
      let gang (x : Nat × Nat) : Gang :=
        let h := entryGang l { launch := r.launch, crew := r.crew, gang := x.1, twin := r.twin } counts s.time x.2
        { h with fetchHalf := s1.fetchHalfOf h }
      some { s1 with gangs := s1.gangs ++ ((List.range l.packet.gangs).zip pipes).map gang }
  | _, _ => none

/-- Place crew `i` of a launch, twice under Plumb on cores of different clusters (16 R403); answers the cores left. -/
def State.placeCopies (s : State) (l : Launch) (i : Nat) (cores : List Nat) : Option (State × List Nat) :=
  match cores with
  | [] => none
  | c :: rest =>
    match s.placeCrew l { launch := l.seq, crew := i, twin := false } c with
    | none => none
    | some t =>
      if l.packet.plumb = false then some (t, rest)
      else
        match rest with
        | [] => none
        | d :: rest =>
          if clusterOf c = clusterOf d then none
          else (t.placeCrew l { launch := l.seq, crew := i, twin := true } d).map (fun u => (u, rest))

/-- Place these crews of a launch one after another. -/
def State.placeAll (s : State) (l : Launch) : List Nat → List Nat → Option State
  | [], [] => some s
  | [], _ :: _ => none
  | i :: r, cores =>
    match s.placeCopies l i cores with
    | none => none
    | some (t, rest) => t.placeAll l r rest

/-- Cores in an order that starts at a free one. -/
def coresFrom (n : Nat) : List Nat := (List.range 640).map (fun i => (i + n) % 640)

/-- Cores for `n` crews that are not doubled, in turn, each the first of `cores` that has room. -/
def State.pickSingles (s : State) (l : Launch) (cores : List Nat) : Nat → List Nat
  | 0 => []
  | n + 1 =>
    match cores.findSome? (fun c => (s.placeCrew l { launch := l.seq, crew := 2 ^ 24 + n, twin := false } c).map (fun t => (c, t))) with
    | none => []
    | some (c, t) => c :: t.pickSingles l cores n

/-- Crews of a launch that a core still takes, at most `n`. -/
def State.coreRoom (s : State) (l : Launch) (core : Nat) : Nat → Nat
  | 0 => 0
  | n + 1 =>
    match s.placeCrew l { launch := l.seq, crew := 2 ^ 25 + n, twin := false } core with
    | none => 0
    | some t => t.coreRoom l core n + 1

/-- Crews of a launch that a cluster still takes: a core has 64 slots. -/
def State.clusterRoom (s : State) (l : Launch) (cores : List Nat) (k : Nat) : Nat :=
  ((cores.filter (fun c => clusterOf c == k)).map (fun c => s.coreRoom l c 64)).sum

/-- Clusters of some cores in the order of the room that they have, the most first. -/
def byRoom (xs : List (Nat × Nat)) : List Nat :=
  (xs.foldl (fun (acc : List (Nat × Nat)) x => acc.takeWhile (fun y => x.2 ≤ y.2) ++ [x] ++ acc.dropWhile (fun y => x.2 ≤ y.2)) []).map
    Prod.fst

/-- Pairs of cores for `n` Plumb crews, in two clusters each: those that have the most room give the next pair, so that the crews go in
whenever they fit (16 R403, 07 R199). `room` is what the clusters still take. -/
def State.pickPairs (s : State) (l : Launch) (cores : List Nat) (room : List (Nat × Nat)) : Nat → List Nat
  | 0 => []
  | n + 1 =>
    let r (twin : Bool) : CrewRef := { launch := l.seq, crew := 2 ^ 24 + n, twin := twin }
    let on (t : State) (twin : Bool) (k : Nat) : Option (Nat × State) :=
      cores.findSome? (fun c => if clusterOf c = k then (t.placeCrew l (r twin) c).map (fun u => (c, u)) else none)
    match byRoom (room.filter (fun x => x.2 != 0)) with
    | j :: k :: _ =>
      match on s false j with
      | none => []
      | some (c, t) =>
        match on t true k with
        | none => [c]
        | some (d, u) => c :: d :: u.pickPairs l cores (room.map (fun x => if x.1 = j ∨ x.1 = k then (x.1, x.2 - 1) else x)) n
    | [_] | [] => []

/-- Cores for `n` crews of a launch, in turn, each the first of `cores` that has room; two of different clusters for each
under Plumb (07 R198, 16 R403). -/
def State.pickCores (s : State) (l : Launch) (cores : List Nat) (n : Nat) : List Nat :=
  if l.packet.plumb then
    s.pickPairs l cores (((cores.map clusterOf).eraseDups).map (fun k => (k, s.clusterRoom l cores k))) n
  else s.pickSingles l cores n

/-- A gang goes on at its crew's resumption or at RUN: its stop ends (R391, 20 R477). -/
def goOn (h : Gang) : Gang :=
  if h.sch.run = .stopped then { h with sch := { h.sch with run := .ready } } else h

/-- A place in an allocation of `alloc` bytes that has moved from one core and base to another (08 R226). -/
def movedPlace (core base alloc core2 base2 : Nat) (p : Place) : Place :=
  match p with
  | .scratch c o => if c = core ∧ base ≤ o ∧ o < base + alloc then .scratch core2 (o - base + base2) else p
  | .hbm _ | .window _ _ | .mmio _ _ | .pool _ _ | .host _ _ | .peerHbm _ _ | .peerScratch _ _ _ | .peerWindow _ _ _
  | .param _ _ => p

/-- Put a saved crew back on a core, its scratchpad at `base` (R391); binders that its gangs hold there move with it (10 R302). -/
def State.restoreCrew (s : State) (l : Launch) (k : Crew) (core base : Nat) : Option State :=
  let alloc := allocBytes l.packet.scratch
  match s.pipes core l.packet with
  | none => none
  | some pipes =>
    if s.coreOn core = false ∨ s.rangeFree core base alloc = false then none
    else
      let lo := scratchKey core base
      let m := (s.mem.zero lo alloc).paste lo alloc (k.savedBytes.map (fun x => (x.1 + lo, x.2)))
      let m1 := { m with poison := k.savedPoison.foldl (fun ps t => insertKey (t + lo / 32) ps) m.poison }
      let c : Crew := { k with site := .resident core base, savedBytes := [], savedPoison := [] }
      let s1 := { s with
        mem := m1
        crews := s.crews.map (fun (x : Crew) => if x.ref = k.ref then c else x)
        ops := s.ops.map (fun (o : Op) => if o.owner.crewRef = k.ref then { o with core := core } else o) }
      some (s1.modGangs (fun h => h.ref.crewRef == k.ref) (fun h =>
        goOn { h with held := h.held.map (movedPlace k.site.core k.site.base alloc core base), sch := { h.sch with
          age := s.time, pipe := pipes.getD h.ref.gang 0, notIssued := 0, promoted := none } }))

/-- Put these saved crews back at these places, one after another; a COSCHED crew only where it was (R201). -/
def State.restoreAll (s : State) (l : Launch) : List Crew → List (Nat × Nat) → Option State
  | [], [] => some s
  | k :: r, (core, base) :: ps =>
    if l.packet.cosched ∧ (k.site.core ≠ core ∨ k.site.base ≠ base) then none
    else
      match s.restoreCrew l k core base with
      | none => none
      | some t => t.restoreAll l r ps
  | _, _ => none

/-- The two copies of a Plumb crew are on different clusters (16 R403). -/
def placesApart : List Crew → List (Nat × Nat) → Bool
  | k :: j :: r, p :: q :: ps =>
    if k.ref.crew = j.ref.crew then clusterOf p.1 != clusterOf q.1 && placesApart r ps else placesApart (j :: r) (q :: ps)
  | _, _ => true

/-- The saved crews that are resumed together: one, with its Plumb copy, or all of a COSCHED launch (R201). -/
def State.resumeUnit (s : State) (l : Launch) : List Crew :=
  match s.nextCrewOf l with
  | some (i, true) =>
    let mine := s.crews.filter (fun c => c.ref.launch == l.seq && (match c.site with | .saved _ _ => true | _ => false) &&
      (l.packet.cosched || c.ref.crew == i))
    (List.range l.packet.crews).foldl (fun acc j =>
      acc ++ (mine.filter (fun c => c.ref.crew == j && c.ref.twin == false)) ++ (mine.filter (fun c => c.ref.crew == j && c.ref.twin))) []
  | some (_, false) | none => []

/-- Places for saved crews: their own for a COSCHED launch (07 R201), else any with room. -/
def State.pickPlaces (s : State) (l : Launch) (cores : List Nat) : Option Nat → List Crew → List (Nat × Nat)
  | _, [] => []
  | prev, k :: r =>
    if l.packet.cosched then (k.site.core, k.site.base) :: s.pickPlaces l cores none r
    else
      let base (c : Nat) : Nat := (s.findBase c (allocBytes l.packet.scratch)).getD 0
      let apart (c : Nat) : Bool := match prev with | some p => clusterOf c != clusterOf p | none => true
      match cores.find? (fun c => apart c && (s.restoreCrew l k c (base c)).isSome) with
      | none => []
      | some c => (c, base c) :: ((s.restoreCrew l k c (base c)).getD s).pickPlaces l cores (some c) r

/-- The cores have room for all crews of a COSCHED launch, or for its saved ones at their places (R199, R201). -/
def State.roomForAll (s : State) (l : Launch) : Bool :=
  match s.nextCrewOf l with
  | some (_, true) =>
    let us := s.resumeUnit l
    (s.restoreAll l us (us.map (fun k => (k.site.core, k.site.base)))).isSome
  | some (_, false) => (s.pickCores l (coresFrom 0) l.packet.crews).length == l.packet.crews * l.packet.copies
  | none => false

/-- All crews of a COSCHED launch can be placed, or its saved ones go back to their places, at once (R199, R201). -/
def State.canPlaceAll (s : State) (l : Launch) : Bool :=
  decide (s.residentCrews l.iface + s.atOnce l * l.packet.copies ≤ (s.ifc l.iface).crewMax) && s.roomForAll l

/-- Those of the highest priority. -/
def topLaunches (ls : List Launch) : List Launch :=
  let top := ls.foldl (fun m l => max m l.packet.priority) 0
  ls.filter (fun l => l.packet.priority == top)

/-- The launch that a core with room serves (R198). A COSCHED launch stands in the order whether it fits or not, and while it waits
for room nothing of lower priority is placed (R199). -/
def State.firstFor (s : State) (core : Nat) : Option Launch :=
  chooseLaunch ((topLaunches (s.launches.filter (fun l => s.wants l && (l.packet.cosched || s.fitsOn l core)))).filter
    (fun l => !l.packet.cosched || s.canPlaceAll l))

/-- The launch that is first in R198's order, whether any core has room or not (R200). -/
def State.orderFirst (s : State) : Option Launch := chooseLaunch (s.launches.filter s.wants)

/-- The launch has had its turn of the round (R198). -/
def State.served (s : State) (l : Launch) : State :=
  let s1 := if l.turn = 0 then s
    else { s with launches := s.launches.map (fun x =>
      if x.packet.priority = l.packet.priority then { x with turn := 0 } else x) }
  s1.modLaunch l.seq (fun x => { x with turn := 1 })

/-- CREW_PLACEMENT: the launch's next crew, or all crews of a COSCHED launch, on these cores (R198, R199). No crew is resident but in ACTIVE
(20 R471). -/
def execCrewPlacement (launch : Nat) (cores : List Nat) (s0 : State) : Out :=
  let s := s0.reap
  match s.launch? launch, s.firstFor (cores.headD 0) with
  | some l, some f =>
    if f.seq ≠ launch ∨ s0.pw.pstate ≠ .active then .next s0
    else
      match s.nextCrewOf l with
      | some (i, false) =>
        let is := if l.packet.cosched then List.range l.packet.crews else [i]
        if l.packet.cosched ∧ s.canPlaceAll l = false then .next s0 else
        (match s.placeAll l is cores with
         | none => .next s0
         | some t =>
           .next ((t.served l).modLaunch launch (fun x => { x with nextCrew := max x.nextCrew (is.foldl max 0 + 1) })))
      | some (_, true) | none => .next s0
  | _, _ => .next s0

/-- TIMED_START: the time view reaches START, and every placed crew is released (R208). -/
def execTimedStart (launch : Nat) (s : State) : Out :=
  match s.launch? launch with
  | none => .next s
  | some l =>
    if l.packet.start.toNat ≤ (s.view l.iface).toNat then .next (s.modLaunch launch (fun l => { l with started := true }))
    else .next s

/-! ### Pre-emption (15 R388, R389) -/

/-- Context bytes of a crew (R390). -/
def contextBytes (p : Packet) (usedMatrix : Bool) : Nat :=
  p.gangs * (384 * p.vregs + 3072 + 1024 + (if p.isPopulation then 768 else 0)) + allocBytes p.scratch + 1024 +
    (if usedMatrix then 294912 else 0)

/-- Ts (R389). -/
def saveTicks (p : Packet) (c : Crew) : Nat := 2000 + (contextBytes p c.usedMatrix + 255) / 256

/-- Mean RESIDENT of the launch's ended crews (R389), in whole ticks (log entry 127). -/
def State.meanResident (s : State) (launch : Nat) : Option Nat :=
  let cs := s.crews.filter (fun c => c.ref.launch == launch && (c.site == .ended || (c.site.isResident && s.crewEnded c.ref)))
  if cs = [] then none else some ((cs.map Crew.resident).sum / cs.length)

/-- Td, unknown without an estimate (R389). -/
def State.drainTicks (s : State) (c : Crew) : Option Nat :=
  if c.drainEst ≠ 0#64 then some c.drainEst.toNat else (s.meanResident c.ref.launch).map (fun a => a - c.resident)

/-- Flush is available (R392). -/
def State.mayFlush (s : State) (p : Packet) (c : Crew) : Bool :=
  p.idempotent && !p.cosched && !p.isPopulation &&
    s.allGangs.all (fun h => h.ref.crewRef != c.ref || (h.held.isEmpty && (match h.sch.run with | .parked _ => false | _ => true)))

/-- An option with its latency and cost; none stands for an unknown drain. -/
structure PreemptOption where
  how : Preempt
  latency : Option Nat
  cost : Option Nat
  deriving DecidableEq, Repr

/-- The sum of costs and the greatest of latencies; unknown when one is (R389). -/
def sumKnown (xs : List (Option Nat)) : Option Nat :=
  xs.foldl (fun a x => match a, x with | some m, some n => some (m + n) | _, _ => none) (some 0)

def maxKnown (xs : List (Option Nat)) : Option Nat :=
  xs.foldl (fun a x => match a, x with | some m, some n => some (max m n) | _, _ => none) (some 0)

/-- The options for some crews that are pre-empted together; of a Plumb pair the primary counts (R389). -/
def State.preemptOptions (s : State) (p : Packet) (all : List Crew) : List PreemptOption :=
  let cs := all.filter (fun c => c.ref.twin == false)
  let td := cs.map s.drainTicks
  let ts := cs.map (fun c => some (saveTicks p c))
  [{ how := .drain none, latency := maxKnown td, cost := sumKnown td },
   { how := .save, latency := maxKnown ts, cost := (sumKnown ts).map (fun n => 2 * n) }] ++
    (if all.all (s.mayFlush p) then
      [{ how := .flush, latency := some 1000, cost := sumKnown (cs.map (fun c => some c.resident)) }] else [])

/-- `a` is less than `b`, an unknown value being more than any. -/
def lessKnown (a b : Option Nat) : Bool :=
  match a, b with
  | some m, some n => m < n
  | some _, none => true
  | none, _ => false

/-- The first option with the least value; the list has them in the order of R389's ties. -/
def leastBy (f : PreemptOption → Option Nat) : List PreemptOption → Option PreemptOption
  | [] => none
  | x :: r =>
    match leastBy f r with
    | none => some x
    | some y => if lessKnown (f y) (f x) then some y else some x

/-- The option that the device takes against a bound, 0 for none (R389). -/
def choosePreempt (bound : Nat) (os : List PreemptOption) : Preempt :=
  let meets := os.filter (fun o => bound == 0 || (match o.latency with | some n => n ≤ bound | none => false))
  match (if meets = [] then leastBy PreemptOption.latency os else leastBy PreemptOption.cost meets) with
  | some o => o.how
  | none => .save

/-- A crew that leaves its core together with `c`: a copy of the same Plumb crew, or a crew of the same COSCHED launch (03 R103, R389,
R393). -/
def State.together (s : State) (c : CrewRef) (x : Crew) : Bool :=
  x.site.isResident && !s.crewEnded x.ref && x.ref.launch == c.launch &&
    (x.ref.crew == c.crew || (match s.launch? c.launch with | some l => l.packet.cosched | none => false))

/-- The crews that are pre-empted together with one (R389). -/
def State.preemptUnit (s : State) (c : CrewRef) : List Crew := s.crews.filter (s.together c)

/-- PREEMPTION: the crew is drained, saved or flushed, for R200 or at the operating firmware's request (R388, R389). A request for a
crew that is being pre-empted already changes nothing (log entry 127). -/
def execPreemption (c : CrewRef) (bound : Nat) (s : State) : Out :=
  match s.launch? c.launch, s.crew? c with
  | some l, some k =>
    if k.site.isResident = false ∨ k.preempt ≠ .no ∨ s.crewEnded c = true then .next s
    else
      let cs := s.preemptUnit c
      let how := match choosePreempt bound (s.preemptOptions l.packet cs) with
        | .drain _ => .drain (if bound = 0 then none else some (s.time + bound))
        | h => h
      .next { s with crews := s.crews.map (fun x => if cs.any (fun y => y.ref == x.ref) then { x with preempt := how } else x) }
  | _, _ => .next s

/-- The state as it will be when the crews that are already being pre-empted have left. -/
def State.cleared (s : State) : State :=
  { s with crews := s.crews.map (fun c => if c.site.isResident ∧ c.preempt ≠ .no then { c with site := .ended } else c) }

/-- Cores have room for the launch's next crew, or for all that go together (R200). -/
def State.fitsNow (s : State) (l : Launch) : Bool :=
  if l.packet.cosched then s.roomForAll l
  else
    match s.nextCrewOf l with
    | some (_, true) => (s.pickPlaces l (coresFrom 0) none (s.resumeUnit l)).length == (s.resumeUnit l).length
    | some (_, false) => (s.pickCores l (coresFrom 0) 1).length == l.packet.copies
    | none => true

/-- The crew to pre-empt next for a launch: of strictly lower priority, the lowest priority first, then the youngest launch, then the
highest crew index (R200); for saved crews of a COSCHED launch only on the cores that they left (R201). -/
def State.victim (s : State) (l : Launch) : Option Crew :=
  let us := s.resumeUnit l
  let prio (c : Crew) : Nat := match s.launch? c.ref.launch with | some m => m.packet.priority | none => 8
  let before (a b : Crew) : Bool :=
    prio a < prio b || (prio a == prio b && (b.ref.launch < a.ref.launch || (a.ref.launch == b.ref.launch && b.ref.crew < a.ref.crew)))
  (s.crews.filter (fun c => c.site.isResident && c.preempt == .no && !s.crewEnded c.ref && prio c < l.packet.priority &&
    (!(l.packet.cosched && !us.isEmpty) || us.any (fun k => k.site.core == c.site.core)))).foldl
    (fun (b : Option Crew) c => match b with
      | none => some c
      | some x => if before c x then some c else b) none

/-- Pre-empt for a launch that is first in R198's order and has no room, one crew at a time until those that leave make room (R200). -/
def State.preemptFor (s0 : State) (launch : Nat) : Out :=
  let s := s0.reap
  match s.launch? launch, s.orderFirst with
  | some l, some f =>
    if f.seq ≠ launch ∨ s.fitsNow l = true ∨ s.cleared.fitsNow l = true then .next s0
    else
      match s.victim l with
      | some c => execPreemption c.ref l.packet.bound.toNat s
      | none => .next s0
  | _, _ => .next s0

/-- DRAIN_BOUND_EXPIRY: a drain that has not ended B ticks after the request turns into a save (R389). -/
def execDrainBoundExpiry (c : CrewRef) (s : State) : Out :=
  match s.crew? c with
  | none => .next s
  | some k =>
    match k.preempt with
    | .drain (some d) =>
      if d ≤ s.time then
        .next { s with crews := s.crews.map (fun x => if x.ref = c ∨ (s.together c x ∧ x.preempt = k.preempt) then { x with preempt := .save } else x) }
      else .next s
    | .drain none | .no | .save | .flush => .next s

/-! ### Save, flush and resumption (15 R391, R392) -/

/-- A gang that is taken as it stands: it does not issue, and no SEAL or UNSEAL, no wait of REL, SEMP or FENCE and no request in a
quiesce is under way, which end first (R391, 08 R252, 09 R280, 10 R303). -/
def Run.taken : Run → Bool
  | .ready | .hazard _ | .sealing _ _ | .drain _ | .release _ | .quiesce => false
  | .board _ | .band _ _ | .wait _ _ _ | .acq _ _ _ _ | .parked _ | .sieve _ _ _ | .noLive _ | .egress
  | .savedScratch | .arrays | .commit _ | .compare | .stopped | .ended | .killed => true

/-- Every memory and engine operation of the crew is complete, but for waits on other participants (R391, R357). -/
def State.crewQuiet (s : State) (r : CrewRef) : Bool :=
  s.ops.all (fun o => o.owner.crewRef != r || o.kind.abandoned) &&
    s.wq.all (fun w => w.owner.crewRef != r || s.isBuffered w) && s.fab.unacked.all (fun u => u.owner.crewRef != r) &&
    s.allGangs.all (fun h => h.ref.crewRef != r || h.bd.pending.isEmpty)

/-- Every gang of the crew has stopped (R391). -/
def State.crewStopped (s : State) (r : CrewRef) : Bool :=
  s.allGangs.all (fun h => h.ref.crewRef != r || h.sch.run.taken)

/-- The crew's context leaves its core: its scratchpad bytes are kept with it, by offset (R390, R391). -/
def State.saveCrew (s : State) (k : Crew) (core base alloc : Nat) : State :=
  let lo := scratchKey core base
  let c : Crew :=
    { k with
      site := .saved core base
      savedBytes := (s.mem.cut lo alloc).map (fun x => (x.1 - lo, x.2))
      savedPoison := (s.mem.poison.filter (fun t => lo ≤ t * 32 && t * 32 < lo + alloc)).map (fun t => t - lo / 32)
      saves := k.saves + 1
      holdsArrays := false
      preempt := .no }
  { s with crews := s.crews.map (fun x => if x.ref = k.ref then c else x) }

/-- The crew is discarded: its gangs and waits go, with the copies of their open transactions, and it returns to the unplaced crews
(R392). The bands of a crew that may be flushed are its own (03 R99), and their phases return to 0 with its context (log entry 103). -/
def State.flushCrew (s0 : State) (k : Crew) : State :=
  let mine (g : GangRef) : Bool := g.crewRef == k.ref
  let s := (s0.allGangs.filter (fun h => mine h.ref)).foldl (fun s h => s.closeTxn h.ref) s0
  let gone : Crew := { k with site := .unplaced, holdsArrays := false, preempt := .no }
  let s1 := s.deselect
  let s2 := { s1 with
    gangs := s1.gangs.filter (fun (h : Gang) => !mine h.ref)
    ops := s1.ops.filter (fun (o : Op) => !mine o.owner)
    wq := s1.wq.filter (fun (w : PendWrite) => !mine w.owner)
    crews := s1.crews.map (fun (x : Crew) => if x.ref = k.ref then gone else x) }
  s2.modLaunch k.ref.launch (fun l => { l with bandList := l.bandList.map (fun b =>
    { b with
      arrived := b.arrived.filter (fun m => m.1 != k.ref.crew)
      phase := if b.members.all (fun m => m.1 == k.ref.crew) then 0#32 else b.phase }) })

/-- The context of one crew is written, or discarded: `how` is its pre-emption (R391, R392). -/
def State.leaveCore (s : State) (k : Crew) : State :=
  match k.site, s.launch? k.ref.launch with
  | .resident core base, some l =>
    (match k.preempt with
     | .save => s.deselect.saveCrew k core base (allocBytes l.packet.scratch)
     | .flush => s.flushCrew k
     | .no | .drain _ => s)
  | _, _ => s

/-- SAVE: crews whose gangs have stopped and whose operations are complete leave their cores: a crew, both copies of a Plumb crew, or
all crews of a COSCHED launch together (03 R103, R391, R392). What the coalescers hold is sent first (18 R437), and accesses of others
to the allocations are performed (08 R254). A flush that is no longer available is a save (log entry 104). -/
def execSave (c : CrewRef) (s : State) : Out :=
  match s.launch? c.launch with
  | none => .next s
  | some l =>
    let us := s.preemptUnit c
    let leaving (k : Crew) : Bool := match k.preempt with | .save | .flush => true | .no | .drain _ => false
    if us.isEmpty ∨ us.all leaving = false ∨ us.all (fun k => s.crewStopped k.ref) = false then .next s
    else if us.any (fun k => k.preempt == .flush && !s.mayFlush l.packet k) then
      .next { s with crews := s.crews.map (fun x => if us.any (fun k => k.ref == x.ref) then { x with preempt := .save } else x) }
    else
      let s1 := s.sendHeld (fun h => us.any (fun k => h.owner.crewRef == k.ref))
      let s2 := us.foldl (fun s k => s.settleAlloc k.ref) s1
      if us.all (fun k => s2.crewQuiet k.ref && !s2.bufferedInto k.ref) then .next (us.foldl State.leaveCore s2) else .next s2

/-- CREW_RESUMPTION: the launch's saved crew, or all of a COSCHED launch, go on at these places (R201, R391). A gang that
waited for their scratchpads issues again (08 R228). -/
def execCrewResumption (launch : Nat) (places : List (Nat × Nat)) (s0 : State) : Out :=
  let s := s0.reap
  match s.launch? launch, s.firstFor (places.headD (0, 0)).1 with
  | some l, some f =>
    let ks := s.resumeUnit l
    if f.seq ≠ launch ∨ ks = [] ∨ placesApart ks places = false ∨ s0.pw.pstate ≠ .active then .next s0
    else
      match s.restoreAll l ks places with
      | none => .next s0
      | some t =>
        .next ((t.served l).modGangs (fun h => h.sch.run == .savedScratch)
          (fun h => { h with sch := { h.sch with run := .ready } }))
  | _, _ => .next s0

end Sys2Proof.Machine
end

