-- ==== Sys2Proof/Machine/Recovery.lean ====
section
/-! DEFINITION. The fault queue (15 R377 to R383), the watchdog (07 R214), the end of a launch (07 R203, R207), rollback and
replay (16 R397 to R400) and persistent snapshots (16 R401, R402). -/

namespace Sys2Proof.Machine

/-! ### Fault queue (15 R377 to R381) -/

/-- A record as its entry of 64 bytes holds it (R377, R379). -/
def FaultRec.bytes (r : FaultRec) : List Byte :=
  let pc := r.pc.toNat / 4 * 4 + (if r.handler then 2 else 0) + (if r.parked then 1 else 0)
  leBytes 8 (recordWord0 (BitVec.ofNat 64 r.time) r.seq r.info).toNat ++ leBytes 8 pc ++ leBytes 8 r.info.pointer.toNat ++
    leBytes 12 r.info.lanes.toNat ++ leBytes 12 r.info.whr.toNat ++
    leBytes 8 (r.gang.launch % 2 ^ 32 * 2 ^ 32 + r.gang.crew % 2 ^ 24 * 2 ^ 8 + r.gang.gang % 16 * 2 ^ 4) ++ leBytes 8 0

/-- Entries of the fault queue: 2^n (R380). -/
def State.fqSlots (s : State) (iface : Nat) : Nat := 2 ^ ((s.reg iface rFqCtl).extractLsb' 0 5).toNat

/-- The oldest record of an interface that waits in the backlog. -/
def State.nextRecord (s : State) (iface : Nat) : Option FaultRec :=
  s.records.find? (fun r => r.iface == iface && !r.written)

/-- The queue has space for a record and no refused write holds it up (R381). -/
def State.fqOpen (s : State) (iface : Nat) : Bool :=
  (s.reg iface rFqCtl).getLsbD 9 && !(s.ifc iface).fqStuck &&
    ((s.reg iface rFqTail).extractLsb' 0 32 - (s.reg iface rFqHead).extractLsb' 0 32).toNat < s.fqSlots iface

/-- Replace bits 15:8 of FQSTAT, NFAIL (R380). -/
def State.setNfail (s : State) (iface kind : Nat) : State :=
  let v := s.reg iface rFqStat
  s.setReg iface rFqStat (v.extractLsb' 16 48 ++ BitVec.ofNat 8 kind ++ v.extractLsb' 0 8)

/-- The end of a command: its code and the count of records acted on (R380). -/
def State.setFqStat (s : State) (iface count code : Nat) : State :=
  let v := s.reg iface rFqStat
  s.setReg iface rFqStat (0#32 ++ BitVec.ofNat 16 count ++ v.extractLsb' 8 8 ++ BitVec.ofNat 8 code)

/-- The notification of a written record (R381). None while a lookup waits. -/
def State.notify (s : State) (iface : Nat) : Option State :=
  let p := s.reg iface rFqNotify
  if p = 0#64 then some s
  else
    match s.cpBinder iface p with
    | .ok l => some (s.cpAdd l 1)
    | .error (.fault f) => some (s.setNfail iface f.kind)
    | .error (.wait _) => none

/-- FAULT_RECORD_WRITE (R381): after the tick of the fault, whose faults have their order then (log entry 130). -/
def execFaultRecordWrite (iface : Nat) (s : State) : Out :=
  match s.nextRecord iface with
  | none => .next s
  | some r =>
    if s.fqOpen iface = false ∨ r.time = (s.view iface).toNat then .next s
    else
      let tail := (s.reg iface rFqTail).extractLsb' 0 32
      let p := s.reg iface rFqBase + BitVec.ofNat 64 (64 * (tail.toNat % s.fqSlots iface))
      match s.cpWrite iface p r.bytes with
      | .error (.wait _) => .next s
      | .error (.fault _) => .next (s.setIfc iface { s.ifc iface with fqStuck := true })
      | .ok t =>
        let mark (x : FaultRec) : FaultRec := if x.id = r.id then { x with written := true } else x
        let t1 := { t with records := t.records.map mark }
        match (t1.setReg iface rFqTail ((tail + 1#32).setWidth 64)).notify iface with
        | some u => .next u
        | none => .next s

/-- A change of FQCTL or FQBASE: a refused entry write is tried again (R381). -/
def State.fqRetry (s : State) (iface : Nat) : State := s.setIfc iface { s.ifc iface with fqStuck := false }

/-- FQCTL_WRITE (R380). -/
def execFqctlWrite (iface : Nat) (v : DWord) (s : State) : Out :=
  let n := (v.extractLsb' 0 5).toNat
  if v &&& ~~~ 0x21F#64 ≠ 0#64 ∨ n < 4 ∨ 12 < n then .next s
  else
    let s1 := (s.setReg iface rFqCtl v).fqRetry iface
    if v.getLsbD 9 then
      .next (((s1.setReg iface rFqHead 0#64).setReg iface rFqTail 0#64).setIfc iface
        { s1.ifc iface with faultSeq := 0, fqFrom := s.nextId })
    else .next s1

/-- FQBASE_WRITE (R380, R381). -/
def execFqbaseWrite (iface : Nat) (v : DWord) (s : State) : Out :=
  if v.extractLsb' 0 6 ≠ 0#6 then .next s else .next ((s.setReg iface rFqBase v).fqRetry iface)

/-- FQNOTIFY_WRITE: NFAIL is cleared (R380). -/
def execFqnotifyWrite (iface : Nat) (v : DWord) (s : State) : Out :=
  .next ((s.setReg iface rFqNotify v).setNfail iface 0)

/-- The record that a SEQ names: the most recently numbered one (R383). -/
def State.recordOf (s : State) (iface seq : Nat) : Option FaultRec :=
  s.records.reverse.find? (fun r => r.iface == iface && r.seq == seq)

/-- A gang parked on a record goes on: past a TRAP or BRK, and at the faulting instruction otherwise; a gang of a halted
launch at RUN (R383, 20 R478). -/
def resume (kind : Nat) (halted : Bool) (time : Nat) (h : Gang) : Gang :=
  { h with
    sc := if kind = kTrap ∨ kind = kBrk then { h.sc with pc := h.sc.pc + 4#64 } else h.sc
    sch := { h.sch with run := if halted then .stopped else .ready, resumes := h.sch.resumes + 1, age := time } }

/-- RESUME of one record; answers the records acted on (R383). -/
def State.resumeRecord (s : State) (iface seq : Nat) : Nat × State :=
  match s.recordOf iface seq with
  | none => (0, s)
  | some r =>
    if s.allGangs.any (fun h => h.sch.run == .parked r.id) then
      let halted := match s.launch? r.gang.launch with | some l => l.halted | none => false
      (1, s.modGangs (fun h => h.sch.run == .parked r.id) (resume r.info.kind halted s.time))
    else (0, s)

/-- FQCMD_RESUME: records FIRST to FIRST + COUNT - 1, in that order (R383). -/
def execFqcmdResume (iface first count : Nat) (s : State) : Out :=
  let r := (List.range count).foldl
    (fun (acc : Nat × State) i =>
      let x := acc.2.resumeRecord iface ((first + i) % 65536)
      (acc.1 + x.1, x.2)) (0, s)
  .next (r.2.setFqStat iface r.1 0)

/-- Fail a launch with a status, also one that waits for its rollback (R383). -/
def State.failLaunch (s : State) (launch status : Nat) : State :=
  (s.stopLaunch launch (.failing status)).modLaunch launch (fun l => match l.phase with
    | .rolling _ _ _ => { l with phase := .failing status }
    | .running | .failing _ | .ended => l)

/-- FQCMD_FAIL (R383). -/
def execFqcmdFail (iface first : Nat) (s : State) : Out :=
  match s.recordOf iface first with
  | none => .next (s.setFqStat iface 0 0)
  | some r =>
    match (s.launch? r.gang.launch).map Launch.phase with
    | some .running | some (.rolling _ _ _) => .next ((s.failLaunch r.gang.launch r.info.kind).setFqStat iface 1 0)
    | some (.failing _) | some .ended | none => .next (s.setFqStat iface 0 0)

/-! ### Watchdog (07 R214) -/

/-- WATCHDOG: the count has reached the limit; a record that names the launch is numbered, and the launch ends (R214). It cannot expire
while the launch is halted (20 R478). -/
def execWatchdog (launch : Nat) (s : State) : Out :=
  match s.launch? launch with
  | none => .next s
  | some l =>
    if l.packet.watchdog = 0#64 ∨ l.watch < l.packet.watchdog.toNat ∨ l.phase ≠ .running ∨ l.halted = true then .next s
    else
      let r : FaultRec :=
        { id := s.nextId, iface := l.iface, time := (s.view l.iface).toNat, seq := 0, info := .plain kWatchdog, pc := 0#64,
          handler := false, parked := false, gang := { launch := launch, crew := 0, gang := 0, twin := false }, written := false }
      .next ((s.numberRecord r).stopLaunch launch (.failing kWatchdog))

/-! ### The end of a launch (07 R203) -/

/-- Nothing that gangs of the launch issued is left, but operations that its end abandons (R203, 13 R357). -/
def State.launchQuiet (s : State) (launch : Nat) : Bool :=
  s.ops.all (fun o => o.owner.launch != launch || o.kind.abandoned) &&
    s.wq.all (fun w => w.owner.launch != launch || s.isBuffered w) && s.fab.unacked.all (fun u => u.owner.launch != launch)

/-- Every gang of the launch on a core has stopped for good: SEAL, UNSEAL and a journalled commit have ended too. -/
def State.gangsOver (s : State) (launch : Nat) : Bool :=
  s.allGangs.all (fun h => h.ref.launch != launch || h.sch.run.isOver ||
    (match s.crew? h.ref.crewRef with | some c => !c.site.isResident | none => true))

/-- Every crew of the launch has been placed and has ended (01 R40). -/
def State.crewsEnded (s : State) (l : Launch) : Bool :=
  l.packet.crews ≤ l.nextCrew && s.crews.all (fun c => c.ref.launch != l.seq || c.site == .ended)

/-- The refusal of a binder's freeing at its home (10 R302). -/
def State.freeRefused (s : State) (ps : List Place) : Option Nat :=
  if ps.any (fun p => match p with
      | .peerHbm d _ | .peerScratch d _ _ | .peerWindow d _ _ => !s.fab.reach.contains d
      | .hbm _ | .scratch _ _ | .window _ _ | .mmio _ _ | .pool _ _ | .host _ _ | .param _ _ => false) then some kPeer
  else if s.sealedBytes ps then some kSealedStore
  else if (s.poisonedByte ps).isSome then some kData
  else none

/-- Free the binders that gangs of the launch still hold, at their homes; answers the first refusal (10 R302). -/
def State.freeHeld (s : State) (launch : Nat) : Nat × State :=
  (s.allGangs.filter (fun h => h.ref.launch == launch)).foldl
    (fun (acc : Nat × State) h =>
      h.held.foldl
        (fun (acc : Nat × State) p =>
          let ps := p.run 32
          match acc.2.freeRefused ps with
          | some k => (if acc.1 = 0 then k else acc.1, acc.2)
          | none =>
            let b := acc.2.binderAt ps
            if acc.2.holds h.ref b then (acc.1, acc.2.performBytes noGang (placed ps b.free.value) []) else acc) acc)
    (0, s)

/-- Clear COW in the pages of an interface's landings that no snapshot needs any more (R395, R402). -/
def State.clearCow (s : State) (iface : Nat) : State :=
  (s.writablePages iface).foldl
    (fun s p =>
      let m := s.pageEntry p.1
      if pageCow m && s.cowDone p.2.1 then { s with mem := s.mem.putBytes p.1 (leBytes 16 (m &&& ~~~ 2#128).toNat) } else s) s

/-- Free the copies of a launch's snapshot, unless it is kept (R398, R401). -/
def State.freeSnapshot (s : State) (l : Launch) : State :=
  match l.snapshot with
  | none => s
  | some p =>
    let i := s.ifc l.iface
    if i.kept.any (fun k => k.launch == l.seq) then s
    else ((s.freeReserve l.iface (p.copied.map Prod.snd)).modLaunch l.seq
      (fun l => { l with snapshot := none })).clearCow l.iface

/-- Remove a launch with its gangs, crews and what they left. -/
def State.dropLaunch (s : State) (l : Launch) : State :=
  let s1 := (s.allGangs.filter (fun h => h.ref.launch == l.seq)).foldl (fun s h => s.closeTxn h.ref) s
  let s2 := (s1.freeSnapshot l).deselect
  let journal := s2.nvm.journal.filter (fun (j : Nat × Nat × Nat × Nat) => j.1 != l.seq)
  { s2 with
    gangs := s2.gangs.filter (fun (h : Gang) => h.ref.launch != l.seq)
    crews := s2.crews.filter (fun (c : Crew) => c.ref.launch != l.seq)
    ops := s2.ops.filter (fun (o : Op) => o.owner.launch != l.seq)
    wq := s2.wq.filter (fun (w : PendWrite) => w.owner.launch != l.seq)
    launches := s2.launches.filter (fun (x : Launch) => x.seq != l.seq)
    nvm := { s2.nvm with journal := journal } }

/-- A token 0x20 or 0x21 of MDR or MRED that an ended gang left unconsumed: its kind, gang, PC and home (12 R333). -/
def State.unconsumed (s : State) (launch : Nat) : Option (Nat × GangRef × DWord × Option Place) :=
  match s.allGangs.find? (fun h => h.ref.launch == launch && !h.ref.twin && !h.bd.poisoned.isEmpty) with
  | none => none
  | some h =>
    match h.bd.poisoned with
    | [] => none
    | p :: _ => some ((h.rd p.1).toNat % 256, h.ref, p.2.1, p.2.2)

/-- The first of a gang's tokens that trap has been consumed (R333). -/
def consumeFirst (h : Gang) : Gang := { h with bd := { h.bd with poisoned := h.bd.poisoned.drop 1 } }

/-- Every such token of a launch that ends otherwise is consumed: its record is written, and no replay follows (R333, R383, 07
R214). -/
def State.consumeAll (s : State) (launch : Nat) : State :=
  let gone (h : Gang) : Gang := { h with bd := { h.bd with poisoned := [] } }
  ((s.allGangs.filter (fun h => h.ref.launch == launch && !h.ref.twin)).foldl
    (fun s h => h.bd.poisoned.foldl
      (fun s p => (s.record h.ref p.2.1 { FaultInfo.plain ((h.rd p.1).toNat % 256) with home := p.2.2 } false).2) s) s).modGangs
    (fun h => h.ref.launch == launch) gone

/-- The launch's status and error record reach the host: as a completion record, or as a graph node (R195, R207). -/
def State.report (s : State) (l : Launch) (status : Nat) : Option State :=
  match l.graph with
  | none => s.complete l.iface l.queue l.slot l.seq status l.err l.packet
  | some (graph, node) => s.endNode graph node status l.err l.iface l.packet

/-- End a launch whose operations are complete (R203, 10 R302). A status that it has stands before that of a freeing, and the first
freeing that is refused before others (log entry 121). -/
def State.finishLaunch (s : State) (l : Launch) (status : Nat) : State :=
  let r := s.freeHeld l.seq
  let t := (r.2.dropLaunch l).report l (if status = 0 then r.1 else status)
  match t with
  | some t => t
  | none => s

/-- LAUNCH_END. What the coalescers hold of the launch is sent first, and an unconsumed 0x20 or 0x21 is consumed (R203, R333).
A replay whose record still waits for a lookup is settled here too (R207). -/
def execLaunchEnd (launch : Nat) (s0 : State) : Out :=
  let s1 := s0.reap
  let s := s1.sendHeld (fun h => h.owner.launch == launch && (match s1.gang? h.owner with | some g => g.sch.run.isOver | none => true))
  match s.launch? launch with
  | none => .next (s0.settleReplay launch)
  | some l =>
    match l.phase with
    | .running =>
      if s.crewsEnded l && s.launchQuiet launch then
        (match s.unconsumed launch with
         | some (kind, g, pc, home) =>
           let r := (s.modGang g consumeFirst).record g pc { FaultInfo.plain kind with home := home } false
           .next (r.2.stopLaunch launch (.rolling kind g home))
         | none => .next (s.finishLaunch l 0))
      else .next s
    | .failing status =>
      if s.gangsOver launch && s.launchQuiet launch then
        (if (s.unconsumed launch).isSome then .next (s.consumeAll launch) else .next (s.finishLaunch l status))
      else .next s
    | .rolling _ _ _ | .ended => .next s

/-! ### Rollback (16 R398 to R400) -/

/-- Add an event to the error log, a ring of 1,024 (20 R476). -/
def State.logEvent (s : State) (kind die unit : Nat) : State :=
  let e : LogEvent := { time := s.time, kind := kind, die := die, unit := unit }
  let l := s.nvm.log ++ [e]
  { s with nvm := { s.nvm with log := l.drop (l.length - 1024) } }

/-- The error of a rollback in the log: the die and sector of the data's home, or the die and core of the gang (20 R476). -/
def State.logError (s : State) (kind : Nat) (g : GangRef) (home : Option Place) : State :=
  let core := s.coreOf g.crewRef
  match home with
  | some p => s.logEvent kind (p.die.getD (core / 160)) ((p.key.getD 0) / 32)
  | none => s.logEvent kind (core / 160) (core % 160)

/-- Fence a core: its other crews are saved and placed elsewhere, and a COSCHED launch with a crew there can never resume it
(R399, 07 R201, 20 R475). -/
def State.fenceCore (s : State) (core : Nat) : State :=
  if s.pkg.fenced.contains core then s
  else
    let s1 := { s with pkg := { s.pkg with fenced := s.pkg.fenced ++ [core], epoch := s.pkg.epoch + 1#8 } }
    let s2 := s1.logEvent 0x53 (core / 160) (core % 160)
    let there (c : Crew) : Bool := (match c.site with | .resident k _ | .saved k _ => k == core | .unplaced | .ended => false)
    let us := ((s2.crews.filter (fun c => there c && c.site.isResident)).map (fun c => s2.preemptUnit c.ref)).flatten
    let leave (c : Crew) : Crew := if us.any (fun k => k.ref == c.ref) then { c with preempt := .save } else c
    let s3 := { s2 with crews := s2.crews.map leave }
    (s3.launches.filter (fun l => l.packet.cosched && s3.crews.any (fun c => c.ref.launch == l.seq && there c))).foldl
      (fun s l => s.stopLaunch l.seq (.failing stDiscarded)) s3

/-- A self-test that fails retires the unit where the error arose (R399). Uncorrectable data without a home lay in a register file or
read buffer of the gang's core; a die-cache way that is disabled has no state of its own, and what another device or pool retires is
its own (log entry 72). -/
def State.retire (s : State) (kind : Nat) (g : GangRef) (home : Option Place) : State :=
  let coreOf (r : GangRef) : Nat := s.coreOf r.crewRef
  if kind = kSignature then
    let (n, s1) := s.free
    let both := Config.choice (2 * n)
    let first := both || Config.choice (2 * n + 1)
    let s2 := if first then s1.fenceCore (coreOf { g with twin := false }) else s1
    if both || !first then s2.fenceCore (coreOf { g with twin := true }) else s2
  else if kind = kResidue then s.fenceCore (coreOf g)
  else
    match home with
    | some (.scratch c _) => s.fenceCore c
    | some (.hbm p) =>
      { s with pkg := { s.pkg with epoch := s.pkg.epoch + 1#8 } }.logEvent 0x52 (p / 2 ^ 38) (p % 2 ^ 38 / 32)
    | none => s.fenceCore (coreOf g)
    | some (.window _ _) | some (.mmio _ _) | some (.pool _ _) | some (.host _ _) | some (.peerHbm _ _)
    | some (.peerScratch _ _ _) | some (.peerWindow _ _ _) | some (.param _ _) => s

/-- Copy back every granule of a snapshot from its page of the reserve: content and poison as they were (R400, R402). -/
def State.copyBack (s : State) (p : Snapshot) : State := p.copied.foldl (fun s c => s.copyOut c.2 c.1) s

/-- SEL of an entry put back as it was (R400). -/
def State.putSel (s : State) (k : EntryKey) (v : Bool) : State :=
  let e := s.entry k
  s.setEntry k (if e.sel = v then e else e.toggled)

/-- The state of the launch as its snapshot has it: granules, COW, seals and SELs (R400). -/
def State.restore (s : State) (l : Launch) (p : Snapshot) : State :=
  let s1 := s.copyBack p
  let s2 := s1.setCow ((s1.writablePages l.iface).filter (fun q => inRanges p.set q.2.1))
  let s3 := p.seals.foldl (fun s x => { s with mem := s.mem.setSeal x.1 x.2 }) s2
  p.sels.foldl (fun s x => s.putSel x.1 x.2) s3

/-- A launch as it is dequeued again: it keeps its number, parameters and snapshot, and begins anew (R398, R400). -/
def Launch.again (l : Launch) (p : Snapshot) : Launch :=
  { l with
    phase := .running, nextCrew := 0, err := .reset, firstKill := none
    bandList := l.bandList.map (fun b => { b with phase := 0#32, arrived := [] })
    population := l.packet.population, sieved := []
    watch := 0, turn := 0
    snapshot := some { p with replays := p.replays + 1, seals := [], sels := [] } }

/-- Discard every gang and crew of a launch (R400). -/
def State.discardCrews (s : State) (launch : Nat) : State :=
  let s1 := s.deselect
  { s1 with
    gangs := s1.gangs.filter (fun (h : Gang) => h.ref.launch != launch)
    crews := s1.crews.filter (fun (c : Crew) => c.ref.launch != launch)
    ops := s1.ops.filter (fun (o : Op) => o.owner.launch != launch)
    wq := s1.wq.filter (fun (w : PendWrite) => w.owner.launch != launch) }

/-- One more replay in RELCNT (R396). -/
def State.countReplay (s : State) (iface : Nat) : State :=
  let v := s.reg iface rRelCnt
  s.setReg iface rRelCnt ((v.extractLsb' 32 32 + 1#32) ++ v.extractLsb' 0 32)

/-- ROLLBACK: the launch has stopped; self-test, then restore and replay, or end (R398). `pass` is the self-test's result. -/
def execRollback (launch : Nat) (pass : Bool) (s : State) : Out :=
  match s.launch? launch with
  | none => .next s
  | some l =>
    match l.phase with
    | .rolling kind g home =>
      if (s.gangsOver launch && s.launchQuiet launch) = false then .next (s.sendHeld (fun h => h.owner.launch == launch))
      else
        let s1 := (s.allGangs.filter (fun h => h.ref.launch == launch)).foldl (fun s h => s.closeTxn h.ref) s
        let s2 := s1.logError kind g home
        let s3 := if pass then s2 else s2.retire kind g home
        match l.snapshot with
        | none => .next (s3.modLaunch launch (fun l => { l with phase := .failing kind }))
        | some p =>
          if p.nonReplayable ∨ p.replays ≥ 3 then .next (s3.modLaunch launch (fun l => { l with phase := .failing kind }))
          else
            let s4 := (s3.restore l p).discardCrews launch
            .next ((s4.countReplay l.iface).modLaunch launch (fun l => l.again p))
    | .running | .failing _ | .ended => .next s

/-! ### Persistent snapshots (16 R402) -/

/-- SNAPSTAT after a command. -/
def State.snapDone (s : State) (iface : Nat) (code : BitVec 64) : Out := .next (s.setReg iface rSnapStat code)

/-- A running launch holds a page of the set (R402). -/
def State.inUse (s : State) (p : Snapshot) : Bool :=
  s.launches.any (fun l => match l.snapshot with
    | some q => q.set.any (fun r => p.set.any (fun t => r.1 < t.1 + t.2 && t.1 < r.1 + r.2))
    | none => false)

/-- SNAPCMD_RESTORE (R402). -/
def execSnapcmdRestore (iface name : Nat) (s : State) : Out :=
  match (s.ifc iface).kept.find? (fun k => k.name == name) with
  | none => s.snapDone iface 0x11#64
  | some k => if s.inUse k.snap then s.snapDone iface 0x12#64 else (s.copyBack k.snap).snapDone iface 0#64

/-- SNAPCMD_FREE (R402): the copies are free once no running launch shares them. -/
def execSnapcmdFree (iface name : Nat) (s : State) : Out :=
  let i := s.ifc iface
  match i.kept.find? (fun k => k.name == name) with
  | none => s.snapDone iface 0x11#64
  | some k =>
    let shared := s.launches.any (fun l => l.seq == k.launch)
    let s1 := s.setIfc iface { i with kept := i.kept.filter (fun x => x.name != name) }
    ((if shared then s1 else s1.freeReserve iface (k.snap.copied.map Prod.snd)).clearCow iface).snapDone iface 0#64

end Sys2Proof.Machine
end

