-- ==== Sys2Proof/Machine/Tables.lean ====
section
/-! DEFINITION. The table port and quiesces (09 R277 to R279), allocations (R480), die-cache windows (08 R229, R230, R479) and the
control fields of an interface (07 R197). -/

namespace Sys2Proof.Machine

/-! ### Quiesce (R277) -/

/-- Requests that may have used an entry or page have completed. The model does not keep which entry a request used: for a label
entry it waits for all of them, and for a page-map entry for every write that names it and every step of SEAL or UNSEAL. -/
def State.drained (s : State) (w : QuiesceWhat) : Bool :=
  let loads := s.fab.unacked.isEmpty && s.fab.engine.all (fun e => e.code.isSome) && s.ops.all (fun o => match o.kind with
    | .remoteLoad _ _ _ _ _ _ _ | .localLoad _ _ _ _ => false
    | _ => true)
  match w with
  | .entry _ _ => loads && s.wq.isEmpty
  | .page a _ => loads && s.wq.all (fun x => x.isBytes && !x.pages.contains a)

/-- Interfaces with a writable HBM landing at level D that reaches the page-map entry at this key, and the granules of its
pages (16 R394). -/
def State.landingsOf (s : State) (key : Nat) : List (Nat × Nat) :=
  s.labels.filterMap (fun ke =>
    let e := ke.2
    let base := (e.base.extractLsb' 0 40).toNat
    if ke.1.dev = 0 ∧ ke.1.level = lvD ∧ e.action = .land ∧ e.hop = 0x01#8 ∧ e.w = true ∧ e.psz ≠ 3 ∧ base ≤ key ∧
        key < base + 16 * (e.pageCount * (if e.shadowed then 2 else 1)) then
      some (ke.1.iface, e.pageBytes / 65536)
    else none)

/-- A page that becomes present while a launch runs joins the launch's snapshot set, kept or not (16 R394, R401). -/
def State.joinSets (s : State) (key : Nat) (m : BitVec 128) : Bool × State :=
  if m.getLsbD 0 = false then (false, s)
  else
    (s.landingsOf key).foldl
      (fun (acc : Bool × State) lg =>
        let r := (pagePpn m, lg.2)
        let takes (l : Launch) : Bool := l.iface == lg.1 && l.snapshot.isSome
        let join (l : Launch) : Launch :=
          if takes l then
            { l with snapshot := l.snapshot.map (fun p => if p.set.contains r then p else { p with set := p.set ++ [r] }) }
          else l
        (acc.1 || acc.2.launches.any takes, { acc.2 with
          launches := acc.2.launches.map join
          ifaces := acc.2.ifaces.map (fun ki => (ki.1, { ki.2 with kept := ki.2.kept.map (fun k =>
            if acc.2.launches.any (fun l => l.seq == k.launch && takes l) && !k.snap.set.contains r then
              { k with snap := { k.snap with set := k.snap.set ++ [r] } } else k) })) })) (false, s)

/-- Write a page-map entry; COW is set in one that joins a set (16 R394). -/
def State.writePage (s : State) (key : Nat) (m : BitVec 128) : State :=
  let r := s.joinSets key m
  { r.2 with mem := r.2.mem.putBytes key (leBytes 16 (if r.1 then m ||| 2#128 else m).toNat) }

/-- The write of a quiesce; a label entry takes the next generation (R277). -/
def State.applyQuiesce (s : State) (w : QuiesceWhat) : State :=
  match w with
  | .entry k e => s.setEntry k { e with gen := (s.entry k).gen + 1#8 }
  | .page a m => s.writePage a m

/-- Gangs whose lookups waited go on (R277). -/
def wakeQuiesce (h : Gang) : Gang :=
  if h.sch.run = .quiesce then { h with sch := { h.sch with run := .ready } } else h

/-- QUIESCE: the users have drained, the entry is written, and the lookups that waited go on (R277). -/
def execQuiesce (id : Nat) (s : State) : Out :=
  match s.quiesces.find? (fun q => q.id == id) with
  | none => .next s
  | some q =>
    if s.drained q.what = false then .next s
    else
      let s1 := { s with quiesces := s.quiesces.filter (fun x => x.id != id) }.applyQuiesce q.what
      let s2 := match q.port with
        | some i => s1.setReg i rLtStat 0#64
        | none => s1
      .next (s2.modGangs (fun _ => true) wakeQuiesce)

def State.startQuiesce (s : State) (w : QuiesceWhat) (port : Option Nat) : State :=
  { s with quiesces := s.quiesces ++ [{ id := s.nextId, what := w, port := port }], nextId := s.nextId + 1 }

/-! ### The table port (R278, R279) -/

/-- The entry that LTSEL selects, or none for a reserved bit, a bad LEVEL or a bad INST (R279). -/
def State.ltKey (s : State) (iface : Nat) : Option EntryKey :=
  let v := s.reg iface rLtSel
  let level := (v.extractLsb' 21 3).toNat
  let inst := (v.extractLsb' 16 5).toNat
  let dieLevel := level == lvD || level == lvRD
  if v.extractLsb' 24 40 ≠ 0#40 ∨ v.extractLsb' 12 4 ≠ 0#4 ∨ level > 5 ∨ (if dieLevel then inst > 3 else inst ≠ 0) then none
  else some { level := level, inst := inst, iface := iface, label := (v.extractLsb' 0 12).toNat, dev := 0 }

/-- A label that the core provides (R189, R227). -/
def EntryKey.reserved (k : EntryKey) : Bool := k.level == lvC && (k.label == 0xFFE || k.label == 0xFFF)

/-- A hop to an instance that every request at this one has visited: itself, level C, or REMOTE-P behind it (R261). -/
def EntryKey.revisits (k : EntryKey) (hop : Byte) : Bool :=
  hop.toNat == k.level * 32 + k.inst || (hop == 0x00#8 && k.level ≤ lvF) || (hop == 0x80#8 && k.level == lvRD)

/-- A reserved bit that is set, or a structural defect of R261 or R263 that an entry's own bits show at its place. A NEXTHOP that R260
does not allow is met at the lookup. -/
def LabelEntry.defect (e : LabelEntry) (k : EntryKey) : Bool :=
  match e.action with
  | .invalid => false
  | .swap => k.revisits e.hop
  | .pop => k.revisits e.hop || e.newLabel != 0#12
  | .land => e.landDefect k.level || (e.paged && e.newLabel.extractLsb' 4 8 != 0#8)

/-- A run of 64 KiB units lies in a list of runs, which `addRun` keeps apart. -/
def covered (rs : List (Nat × Nat)) (first count : Nat) : Bool := rs.any (fun r => r.1 ≤ first && first + count ≤ r.1 + r.2)

/-- The runs of one pool or adapter, in units of 64 KiB. -/
def runsOf (rs : List (Nat × Nat × Nat)) (n : Nat) : List (Nat × Nat) := (rs.filter (fun r => r.1 == n)).map Prod.snd

/-- A page that is present lies in the allocation (R478, R480). -/
def Alloc.holdsPage (a : Alloc) (e : LabelEntry) (m : BitVec 128) : Bool :=
  let n := e.pageBytes / 65536
  m.getLsbD 0 == false ||
    (if e.hop = 0x01#8 then covered a.granules (pagePpn m) n
     else covered (runsOf a.pools (e.base.extractLsb' 52 6).toNat) (pagePpn m) n)

/-- The places that an entry lands on lie in the interface's allocation, and its owner is the interface or it makes a
crossing (R278). Scratchpads and windows are checked at each access. -/
def State.allocated (s : State) (iface : Nat) (e : LabelEntry) : Bool :=
  let a := (s.ifc iface).alloc
  match e.action with
  | .invalid | .swap => true
  | .pop => e.owner.toNat == iface
  | .land =>
    e.owner.toNat == iface &&
      (match e.hop.toNat with
       | 0x01 | 0x04 =>
         (List.range (e.pageCount * (if e.shadowed then 2 else 1))).all (fun i =>
           a.holdsPage e (s.pageEntry ((e.base.extractLsb' 0 40).toNat + 16 * i)))
       | 0x05 =>
         covered (runsOf a.hosts (e.base.extractLsb' 46 12).toNat) (e.base.extractLsb' 16 30).toNat
           (if e.limit = 0#22 then 2 ^ 30 else e.limit.toNat)
       | 0x06 => false
       | _ => true)

def State.ltDone (s : State) (iface : Nat) (code : BitVec 64) : Out := .next (s.setReg iface rLtStat code)

/-- LTCMD 1 (R279): refused, or a quiesce that writes the entry. -/
def execLtcmdWriteEntry (iface : Nat) (s : State) : Out :=
  match s.ltKey iface with
  | none => s.ltDone iface 0x10#64
  | some k =>
    let e := LabelEntry.ofBits (s.reg iface rLtData1 ++ s.reg iface rLtData0)
    if k.reserved || (k.level == lvC && e.action == .land) then s.ltDone iface 0x12#64
    else if e.defect k then s.ltDone iface 0x10#64
    else if k.level ≠ lvC ∧ s.allocated iface e = false then s.ltDone iface 0x11#64
    else .next ((s.startQuiesce (.entry k e) (some iface)).setReg iface rLtStat 1#64)

/-- LTCMD 2 (R279). -/
def execLtcmdReadEntry (iface : Nat) (s : State) : Out :=
  match s.ltKey iface with
  | none => s.ltDone iface 0x10#64
  | some k =>
    if k.reserved then s.ltDone iface 0x12#64
    else
      let b := (s.entry k).bits
      ((s.setReg iface rLtData0 (b.extractLsb' 0 64)).setReg iface rLtData1 (b.extractLsb' 64 64)).ltDone iface 0#64

/-- LTCMD 3 (R279). LTAUX bit 32 selects the shadow half, which SEL places (R271). -/
def execLtcmdWritePageMap (iface : Nat) (s : State) : Out :=
  match s.ltKey iface with
  | none => s.ltDone iface 0x10#64
  | some k =>
    let e := s.entry k
    let aux := s.reg iface rLtAux
    let m := s.reg iface rLtData1 ++ s.reg iface rLtData0
    let i := (aux.extractLsb' 0 32).toNat
    let half := aux.getLsbD 32
    if k.reserved then s.ltDone iface 0x12#64
    else if e.action ≠ .land ∨ e.paged = false ∨ aux.extractLsb' 33 31 ≠ 0#31 ∨ i ≥ e.pageCount ∨
        (half = true ∧ e.shadowed = false) ∨ m.extractLsb' 16 35 ≠ 0#35 ∨ m.extractLsb' 3 5 ≠ 0#5 then
      s.ltDone iface 0x10#64
    else if (s.ifc iface).alloc.holdsPage e m = false then s.ltDone iface 0x11#64
    else
      let key := (e.base.extractLsb' 0 40).toNat + 16 * ((if e.shadowed && (e.sel ^^ half) then e.pageCount else 0) + i)
      .next ((s.startQuiesce (.page key m) (some iface)).setReg iface rLtStat 1#64)

/-! ### Windows (08 R229, R230, R479) -/

/-- The units of a carve or return. -/
def windowUnits (die first count : Nat) : List (Nat × Nat) := (List.range count).map (fun i => (die, first + i))

/-- The window's bytes, zeroed and unpoisoned. -/
def State.zeroUnits (s : State) (us : List (Nat × Nat)) : State :=
  { s with mem := us.foldl (fun m u => m.zero (windowKey u.1 (u.2 * 2 ^ 20)) (2 ^ 20)) s.mem }

/-- WINDOW_CARVE: units that no interface has, zeroed (R229, R479). -/
def execWindowCarve (iface die first count : Nat) (s : State) : Out :=
  let us := windowUnits die first count
  let taken := s.ifaces.any (fun ki => us.any (fun u => ki.2.windows.contains u))
  if s.pkg.dieMask.getLsbD die = false ∨ first + count > 64 ∨ taken = true then .next s
  else .next ((s.setIfc iface { s.ifc iface with windows := (s.ifc iface).windows ++ us }).zeroUnits us)

/-- Window units of an interface are returned: their content is lost (R230, R479). -/
def State.returnUnits (s : State) (iface die first count : Nat) : State :=
  let i := s.ifc iface
  let us := (windowUnits die first count).filter (fun u => i.windows.contains u)
  (s.setIfc iface { i with windows := i.windows.filter (fun u => !us.contains u) }).zeroUnits us

/-! ### Interfaces and their allocation (07 R197, R480) -/

/-- The queues of all other interfaces. -/
def State.queuesBeside (s : State) (iface : Nat) : Nat := ((s.ifaces.filter (fun ki => ki.1 != iface)).map (fun ki => ki.2.queues)).sum

/-- An interface has at most 1,024 queues and the package 4,096 (00 R3). -/
def State.queuesFit (s : State) (iface n : Nat) : Bool := n ≤ 1024 && n + s.queuesBeside iface ≤ 4096

/-- Runs without the units of one run. -/
def withoutRun (rs : List (Nat × Nat)) (first count : Nat) : List (Nat × Nat) :=
  (rs.map (fun r =>
    let lo := (r.1, min (r.1 + r.2) first - r.1)
    let hi := (max r.1 (first + count), r.1 + r.2 - max r.1 (first + count))
    [lo, hi].filter (fun x => x.2 != 0))).flatten

/-- Runs with one more, joined with those it meets: runs of an allocation neither overlap nor touch. -/
def addRun (rs : List (Nat × Nat)) (first count : Nat) : List (Nat × Nat) :=
  let meets (r : Nat × Nat) : Bool := r.1 ≤ first + count && first ≤ r.1 + r.2
  let lo := (rs.filter meets).foldl (fun a r => min a r.1) first
  let hi := (rs.filter meets).foldl (fun a r => max a (r.1 + r.2)) (first + count)
  rs.filter (fun r => !meets r) ++ (if hi = lo then [] else [(lo, hi - lo)])

/-- The part of an allocation added or taken away. -/
def Alloc.change (a : Alloc) (grow : Bool) (p : AllocPart) : Alloc :=
  let runs (rs : List (Nat × Nat)) (first count : Nat) : List (Nat × Nat) :=
    if grow then addRun rs first count else withoutRun rs first count
  let other (rs : List (Nat × Nat × Nat)) (n first count : Nat) : List (Nat × Nat × Nat) :=
    rs.filter (fun r => r.1 != n) ++ (runs (runsOf rs n) first count).map (fun r => (n, r))
  match p with
  | .granules f n => { a with granules := runs a.granules f n }
  | .pool p f n => { a with pools := other a.pools p f n }
  | .host h f n => { a with hosts := other a.hosts h f n }
  | .windows _ _ _ => a

/-- The quiesces that take a withdrawn part out of an entry's reach (R480). -/
def State.withdraw (s : State) (p : AllocPart) (k : EntryKey) (e : LabelEntry) : List QuiesceWhat :=
  let pages (hit : BitVec 128 → Bool) : List QuiesceWhat :=
    (List.range (e.pageCount * (if e.shadowed then 2 else 1))).filterMap (fun i =>
      let key := (e.base.extractLsb' 0 40).toNat + 16 * i
      let m := s.pageEntry key
      if m.getLsbD 0 && hit m then some (.page key (m &&& ~~~ 1#128)) else none)
  let n := e.pageBytes / 65536
  let meets (f c : Nat) (m : BitVec 128) : Bool := pagePpn m < f + c && f < pagePpn m + n
  if e.action ≠ .land then []
  else
    match p, e.hop.toNat with
    | .granules f c, 0x01 => pages (meets f c)
    | .pool q f c, 0x04 => if (e.base.extractLsb' 52 6).toNat = q then pages (meets f c) else []
    | .host h f c, 0x05 =>
      let b := (e.base.extractLsb' 16 30).toNat
      if (e.base.extractLsb' 46 12).toNat = h ∧ b < f + c ∧ (e.limit = 0#22 ∨ f < b + e.limit.toNat) then [.entry k .reset] else []
    | .windows d f c, 0x03 =>
      let b := (e.base.extractLsb' 20 6).toNat
      let units := (e.limitBytes + 2 ^ 20 - 1) / 2 ^ 20
      if k.inst = d ∧ b < f + c ∧ (e.limit = 0#22 ∨ f < b + units) then [.entry k .reset] else []
    | _, _ => []

/-- The quiesces that take a part, or the whole allocation, out of an entry's reach. -/
def State.unreach (s : State) (p : Option AllocPart) (k : EntryKey) (e : LabelEntry) : List QuiesceWhat :=
  match p with
  | some p => s.withdraw p k e
  | none => if e.action = .invalid then [] else [.entry k .reset]

/-- The quiesces that take a part out of the reach of every entry of its interface (R480). -/
def State.reaching (s : State) (iface : Nat) (p : Option AllocPart) : List QuiesceWhat :=
  ((s.labels.filter (fun ke => ke.1.dev == 0 && ke.1.iface == iface)).map (fun ke => s.unreach p ke.1 ke.2)).flatten

/-- A write that waits for its quiesce could make an entry of the interface reach the part again. -/
def State.reachedSoon (s : State) (iface : Nat) (p : Option AllocPart) : Bool :=
  s.quiesces.any (fun q => match q.what with
    | .entry k e => k.dev == 0 && k.iface == iface && s.unreach p k e != []
    | .page _ m => m.getLsbD 0)

/-- The interface goes, with its windows, registers, queues and entries (R479); the suspicions that LOSTLAST and LOSTCOUNT show are
those since boot (19 R464). -/
def State.removeIface (s : State) (iface : Nat) : State :=
  let us := (s.ifc iface).windows
  let s1 := (s.setIfc iface .reset).zeroUnits us
  { s1 with
    queues := s1.queues.filter (fun (q : Nat × Queue) => q.1 / 1024 != iface)
    withdrawals := s1.withdrawals.filter (fun (w : Withdrawal) => w.iface != iface)
    regs := s1.regs.filter (fun (r : Nat × DWord) =>
      r.1 / 2 ^ 17 != iface || r.1 % 2 ^ 17 == rLostLast || r.1 % 2 ^ 17 == rLostCount)
    labels := s1.labels.filter (fun (ke : EntryKey × LabelEntry) => ke.1.dev != 0 || ke.1.iface != iface) }

/-- The part leaves the allocation, or the whole interface goes; window units are returned (R230, R479). -/
def State.withdrawNow (s : State) (iface : Nat) (part : Option AllocPart) : State :=
  let i := s.ifc iface
  match part with
  | none => s.removeIface iface
  | some p =>
    let s1 := s.setIfc iface { i with alloc := i.alloc.change false p }
    match p with
    | .windows d f c => s1.returnUnits iface d f c
    | .granules _ _ | .pool _ _ _ | .host _ _ _ => s1

/-- One round of a withdrawal: the part goes when nothing reaches it, and else what reaches it is quiesced (R480). -/
def State.withdrawStep (s : State) (w : Withdrawal) : State :=
  let qs := s.reaching w.iface w.part
  if qs = [] ∧ s.reachedSoon w.iface w.part = false then
    { s with withdrawals := s.withdrawals.filter (· != w) }.withdrawNow w.iface w.part
  else
    (qs.filter (fun x => s.quiesces.all (fun q => q.what != x))).foldl (fun s x => s.startQuiesce x none) s

/-- A withdrawal begins (R480). -/
def State.startWithdrawal (s : State) (w : Withdrawal) : State :=
  { s with withdrawals := s.withdrawals.filter (· != w) ++ [w] }.withdrawStep w

/-- ALLOCATION_CHANGE: a part is added, or withdrawn behind the quiesces of the entries that reach it (R480). -/
def execAllocationChange (iface : Nat) (grow : Bool) (part : AllocPart) (s : State) : Out :=
  let i := s.ifc iface
  if grow then .next (s.setIfc iface { i with alloc := i.alloc.change true part })
  else .next (s.startWithdrawal { iface := iface, part := some part })

/-- WINDOW_RETURN: behind the quiesces of the entries that reach the units (R230, R479, R480). -/
def execWindowReturn (iface die first count : Nat) (s : State) : Out :=
  .next (s.startWithdrawal { iface := iface, part := some (.windows die first count) })

/-- INTERFACE_CONTROL_WRITE: the control fields (07 R197), or the removal of the interface behind the quiesces of its entries (R480).
A QUEUES beyond the package's queues is not written (log entry 96). -/
def execInterfaceControlWrite (iface : Nat) (create : Bool) (ctl : BitVec 128) (s : State) : Out :=
  if iface ≥ 64 ∨ (create = true ∧ s.queuesFit iface (ctl.extractLsb' 21 11).toNat = false) then .next s
  else if create then
    .next (s.setIfc iface { s.ifc iface with
      exist := true
      timeOfs := ctl.extractLsb' 64 64
      crewMax := (ctl.extractLsb' 32 16).toNat
      queues := (ctl.extractLsb' 21 11).toNat
      maxPrio := (ctl.extractLsb' 0 3).toNat })
  else .next (s.startWithdrawal { iface := iface, part := none })

end Sys2Proof.Machine
end

