-- ==== Sys2Proof/Machine/Dies.lean ====
section
/-! DEFINITION. Die links, die failures and the split rule (17 R415 to R419, R429), the counters' clear (17 R427), and a failed
fabric path of a transaction (16 R408). -/

namespace Sys2Proof.Machine

/-! ### Groups of dies (R418) -/

/-- The dies that link `k` joins (R415). -/
def linkEnds (k : Nat) : Nat × Nat :=
  match k with
  | 0 => (0, 1)
  | 1 => (1, 3)
  | 2 => (2, 3)
  | _ => (0, 2)

/-- The links of a die. -/
def dieLinks (d : Nat) : List Nat := (List.range 4).filter (fun k => (linkEnds k).1 == d || (linkEnds k).2 == d)

/-- A mask with the bits of some numbers. -/
def maskFrom (n : Nat) (xs : List Nat) : BitVec n :=
  BitVec.ofNat n ((List.range n).foldl (fun a i => if xs.contains i then a + 2 ^ i else a) 0)

/-- The numbers of the bits of a mask. -/
def bitsOf {n : Nat} (b : BitVec n) : List Nat := (List.range n).filter (fun i => b.getLsbD i)

/-- Add to a set of dies those that an up link joins to it. -/
def growGroup (live : BitVec 4) (up : BitVec 4) (g : List Nat) : List Nat :=
  (List.range 4).filter (fun d => g.contains d || (live.getLsbD d && (dieLinks d).any (fun k =>
    up.getLsbD k && (g.contains (linkEnds k).1 || g.contains (linkEnds k).2))))

/-- The group of a live die. -/
def dieGroup (live up : BitVec 4) (d : Nat) : List Nat := growGroup live up (growGroup live up (growGroup live up [d]))

/-- The group that goes on: the largest, then the one that `prefer` holds, then the one with the lowest die (R418, R421). -/
def survivors (live up : BitVec 4) (prefer : Option Nat) : List Nat :=
  let groups := (bitsOf live).map (dieGroup live up)
  let most := groups.foldl (fun n g => max n g.length) 0
  let largest := groups.filter (fun g => g.length == most)
  match prefer with
  | none => largest.headD []
  | some d => (match largest.find? (fun g => g.contains d) with
    | some g => g
    | none => largest.headD [])

/-! ### Losing links and dies (R417, R418) -/

/-- A launch in flight is discarded, whatever else was to end it (R417). -/
def discarding (l : Launch) : Launch :=
  match l.phase with
  | .ended => l
  | .running | .failing _ | .rolling _ _ _ => { l with phase := .failing stDiscarded }

/-- A journalled commit is completed by the surviving lead (R422). -/
def State.completeCommits (s : State) : State :=
  s.allGangs.foldl
    (fun s h => match h.sch.run with
      | .commit _ => s.asGang h.ref (fun s => (s.phase2 h.ref).2)
      | _ => s) s

/-- Every launch in flight is discarded: its gangs stop, and its work in flight goes (R416, R417). A read that another device
still answers is kept until its answer. -/
def State.discardAll (s : State) : State :=
  let s1 := s.completeCommits
  let s2 := { s1 with
    launches := s1.launches.map discarding
    replays := s1.replays.map (fun (r : Replay) => { r with discarded := true })
    wq := []
    ops := s1.ops.filter (fun (o : Op) => match o.kind with | .remoteLoad _ _ _ _ _ _ _ => true | _ => false)
    issuing := false }
  (s2.allGangs.filter (fun h => !h.sch.run.isOver)).foldl (fun s h => s.stopGang h.ref .ended) s2

/-- The counters of the caches and links of a die that is fenced stop where they are (R427). -/
def State.stopCounters (s : State) (die : Nat) : State :=
  s.ifaces.foldl (fun s ki => [4, 5, 6].foldl (fun s k => s.setReg ki.1 (rCounter die k) (s.freeCounter ki.1 (rCounter die k))) s) s

/-- An interface has an MMIO landing, through which its doorbells are rung (07 R192). -/
def hasDoorbells (labels : List (EntryKey × LabelEntry)) (iface : Nat) : Bool :=
  labels.any (fun ke => ke.1.dev == 0 && ke.2.action == .land && ke.2.hop == 0x07#8 && ke.2.owner.toNat == iface)

/-- Queues whose doorbell had its last landing on a die that is gone set ERROR (R429). -/
def State.loseDoorbells (s : State) (before : List (EntryKey × LabelEntry)) : State :=
  let lost (i : Nat) : Bool := hasDoorbells before i && !hasDoorbells s.labels i
  { s with queues := s.queues.map (fun q => if q.2.enable && lost (q.1 / 1024) then (q.1, { q.2 with error := true }) else q) }

/-- The dies outside the surviving group fence themselves (R418); `prefer` is the lead unless it is itself lost. -/
def State.split (s : State) (live : BitVec 4) (prefer : Option Nat) : State :=
  let keep := survivors live s.pkg.linkUp prefer
  let gone := (bitsOf s.pkg.dieMask).filter (fun d => !keep.contains d)
  let lead := if keep.contains s.pkg.lead then s.pkg.lead else keep.headD 0
  let s0 := gone.foldl State.stopCounters s
  let s1 := { s0 with
    pkg := { s.pkg with dieMask := maskFrom 4 keep, lead := lead, split := s.pkg.split || !gone.isEmpty }
    labels := s.labels.filter (fun (ke : EntryKey × LabelEntry) => !(ke.1.dev == 0 && (ke.1.level == lvD || ke.1.level == lvRD) && gone.contains ke.1.inst)) }
  gone.foldl (fun s d => s.logEvent 0x51 d d) (s1.loseDoorbells s.labels)

/-- The recovery from links that are lost at one moment: launches, routes, split rule, EPOCH (R417). Routes follow LINKUP. -/
def State.loseLinks (s : State) (ks : List Nat) (live : BitVec 4) (prefer : Option Nat) : State :=
  let lost := ks.filter (fun k => s.pkg.linkUp.getLsbD k)
  let s1 := s.discardAll
  let s2 := { s1 with pkg := { s1.pkg with
    linkUp := s1.pkg.linkUp &&& ~~~ (maskFrom 4 ks)
    retries := s1.pkg.retries.filter (fun (r : Nat × Nat) => !ks.contains r.1) } }
  let s3 := lost.foldl (fun s k => s.logEvent 0x50 (linkEnds k).1 k) s2
  let s4 := s3.split live prefer
  { s4 with pkg := { s4.pkg with epoch := s4.pkg.epoch + 1#8 } }

/-- LINK_ERROR: the link retries; programs see only delay (R417). A later error says that the earlier retry succeeded. -/
def execLinkError (link : Nat) (s : State) : Out :=
  if s.pkg.linkUp.getLsbD link then
    .next { s with pkg := { s.pkg with
      retries := s.pkg.retries.filter (fun (r : Nat × Nat) => r.1 != link) ++ [(link, s.time)] } }
  else .next s

/-- LINK_LOST: a link that has retried for 100,000 ticks is lost (R417). -/
def execLinkLost (link : Nat) (s : State) : Out :=
  if s.pkg.linkUp.getLsbD link ∧ s.pkg.retries.any (fun r => r.1 == link && r.2 + 100000 ≤ s.time) then
    .next (s.loseLinks [link] s.pkg.dieMask (some s.pkg.lead))
  else .next s

/-- DIE_FAILURE: a die loses both of its links at once (R417, R418). -/
def execDieFailure (die : Nat) (s : State) : Out :=
  if s.pkg.dieMask.getLsbD die then
    .next (s.loseLinks (dieLinks die) (s.pkg.dieMask &&& ~~~ (maskFrom 4 [die]))
      (if s.pkg.lead = die then none else some s.pkg.lead))
  else .next s

/-! ### Counters (R427) -/

/-- CTRCLR: a 1 in bit 0 clears every counter of the interface. -/
def execCtrclr (iface : Nat) (v : DWord) (s : State) : Out :=
  if v.getLsbD 0 then
    .next { s with regs := s.regs.filter (fun (r : Nat × DWord) =>
      !(iface * 2 ^ 17 + 0x500 ≤ r.1 && r.1 < iface * 2 ^ 17 + 0x600)) }
  else .next s

/-! ### A failed path (16 R408) -/

/-- The transaction of a gang that has not decided it yet is cut when a participant cannot be reached. -/
def cutBy (p : Nat → Bool) (h : Gang) : Gang :=
  match h.sch.run with
  | .commit _ => h
  | _ => { h with txn := h.txn.map (fun t =>
      if t.mark == none && t.granules.any (fun g => granuleDevice g != 0 && p (granuleDevice g - 1)) then
        { t with mark := some .cut }
      else t) }

/-- FABRIC_PATH_FAILURE: open transactions with a granule on the device are cut; a journalled commit waits for
TRANSACTION_PHASE_2 (R408, R410). -/
def execFabricPathFailure (dev : Nat) (s : State) : Out := .next (s.modGangs (fun _ => true) (cutBy (· == dev)))

end Sys2Proof.Machine
end

