-- ==== Sys2Proof/Machine/LaneInt.lean ====
section
/-! DEFINITION. The integer lane instructions (04 R111 to R118). -/

namespace Sys2Proof.Machine

def execIadd (h : LaHdr) (a : Src) (b : Opnd) (s : State) : Out := s.la2 h a b (fun x y => x + y)

def execIsub (h : LaHdr) (a : Src) (b : Opnd) (s : State) : Out := s.la2 h a b (fun x y => x - y)

def execImul (h : LaHdr) (a : Src) (b : Opnd) (s : State) : Out := s.la2 h a b (fun x y => x * y)

def execImulh (h : LaHdr) (z : Bool) (a : Src) (b : Opnd) (s : State) : Out :=
  s.la2 h a b (if z then mulhZW else mulhSW)

def execImad (h : LaHdr) (a b c : Src) (s : State) : Out := s.la3 h a b c (fun x y w => x * y + w)

/-- Sign or zero extension by a Z bit (R112). -/
def extBy (z : Bool) (w : Word) : DWord := if z then w.setWidth 64 else w.signExtend 64

def execImadw (h : LaHdr) (z : Bool) (a b c : Src) (s : State) : Out :=
  s.la h { narrow := [a, b], wide := [c] } 2
    (fun s r n => (extBy z (s.src32 a r n) * extBy z (s.src32 b r n) + s.src64 c r n, 0#5))

def execImin (h : LaHdr) (z : Bool) (a : Src) (b : Opnd) (s : State) : Out := s.la2 h a b (if z then minZW else minSW)

def execImax (h : LaHdr) (z : Bool) (a : Src) (b : Opnd) (s : State) : Out := s.la2 h a b (if z then maxZW else maxSW)

def execIabs (h : LaHdr) (a : Src) (s : State) : Out := s.la1 h a (fun x => if x.msb then -x else x)

def execIadds (h : LaHdr) (z : Bool) (a : Src) (b : Opnd) (s : State) : Out :=
  s.la2 h a b (fun x y => if z then satZ (x.toNat + y.toNat) else satS (x.toInt + y.toInt))

def execIsubs (h : LaHdr) (z : Bool) (a : Src) (b : Opnd) (s : State) : Out :=
  s.la2 h a b (fun x y => if z then satZ (x.toNat - y.toNat : Int) else satS (x.toInt - y.toInt))

/-- Byte `i` by a Z bit (R112). -/
def byteBy (z : Bool) (w : Word) (i : Nat) : Word :=
  let b := w.extractLsb' (8 * i) 8
  if z then b.setWidth 32 else b.signExtend 32

def execIdot4 (h : LaHdr) (za zb : Bool) (a b c : Src) (s : State) : Out :=
  s.la3 h a b c (fun x y w => (List.range 4).foldl (fun t i => t + byteBy za x i * byteBy zb y i) w)

def execIand (h : LaHdr) (a : Src) (b : Opnd) (s : State) : Out := s.la2 h a b (fun x y => x &&& y)

def execIor (h : LaHdr) (a : Src) (b : Opnd) (s : State) : Out := s.la2 h a b (fun x y => x ||| y)

def execIxor (h : LaHdr) (a : Src) (b : Opnd) (s : State) : Out := s.la2 h a b (fun x y => x ^^^ y)

def execIandn (h : LaHdr) (a : Src) (b : Opnd) (s : State) : Out := s.la2 h a b (fun x y => x &&& ~~~ y)

/-- A truth table over three words, bit by bit (R113). -/
def bool3 (tt : BitVec 8) (x y w : Word) : Word :=
  let pick (i : Nat) : Word :=
    if tt.getLsbD i then
      (if i % 2 = 1 then x else ~~~ x) &&& (if i / 2 % 2 = 1 then y else ~~~ y) &&& (if i / 4 = 1 then w else ~~~ w)
    else 0#32
  (List.range 8).foldl (fun r i => r ||| pick i) 0#32

def execIbool3 (h : LaHdr) (a b c : Src) (tt : BitVec 8) (s : State) : Out := s.la3 h a b c (bool3 tt)

def execIshl (h : LaHdr) (a : Src) (b : Opnd) (s : State) : Out := s.la2 h a b shlW

def execIshr (h : LaHdr) (a : Src) (b : Opnd) (s : State) : Out := s.la2 h a b shrW

def execIsra (h : LaHdr) (a : Src) (b : Opnd) (s : State) : Out := s.la2 h a b sraW

def execIrol (h : LaHdr) (a : Src) (b : Opnd) (s : State) : Out := s.la2 h a b rolW

/-- A funnel shift of A:B (R114). -/
def funnel (right : Bool) (x y w : Word) : Word :=
  let n := min (w.toNat % 64) 32
  let v := x ++ y
  if right then (v >>> n).extractLsb' 0 32 else (v <<< n).extractLsb' 32 32

def execIfsh (h : LaHdr) (right : Bool) (a b c : Src) (s : State) : Out := s.la3 h a b c (funnel right)

/-- Offset and width of a control word (R115). -/
def controlOff (b : Word) : Nat := b.toNat % 32
def controlWidth (b : Word) : Nat := min ((b.extractLsb' 8 6).toNat) (32 - controlOff b)

def execIbext (h : LaHdr) (sg : Bool) (a : Src) (b : Opnd) (s : State) : Out :=
  s.la2 h a b (fun x y => if sg then bextSW x (controlOff y) (controlWidth y) else fieldAt x (controlOff y) (controlWidth y))

def execIbins (h : LaHdr) (a b c : Src) (s : State) : Out :=
  s.la3 h a b c (fun x y w => binsW x w (controlOff y) (controlWidth y))

/-- Byte `i` of IPERM (R116). -/
def permByte (x y w : Word) (i : Nat) : Byte :=
  let q := w.extractLsb' (5 * i) 5
  let b := (y ++ x).extractLsb' (8 * (q.extractLsb' 0 3).toNat) 8
  match (q.extractLsb' 3 2).toNat with
  | 0 => b
  | 1 => if b.msb then 0xFF#8 else 0#8
  | 2 => 0#8
  | _ => 0xFF#8

def permW (x y w : Word) : Word := permByte x y w 3 ++ permByte x y w 2 ++ permByte x y w 1 ++ permByte x y w 0

def execIperm (h : LaHdr) (a b c : Src) (s : State) : Out := s.la3 h a b c permW

def execIclz (h : LaHdr) (a : Src) (s : State) : Out := s.la1 h a clzW

def execIctz (h : LaHdr) (a : Src) (s : State) : Out := s.la1 h a ctzW

def execIpopc (h : LaHdr) (a : Src) (s : State) : Out := s.la1 h a popcW

def execIbrev (h : LaHdr) (a : Src) (s : State) : Out := s.la1 h a brevW

def execIcmp (h : LaHdr) (k : Cond) (a : Src) (b : Opnd) (s : State) : Out :=
  s.la2 h a b (fun x y => if k.holds x y then 1#32 else 0#32)

def execLaneSel (h : LaHdr) (neg : Bool) (k : PReg) (a : Src) (b : Opnd) (s : State) : Out :=
  s.la h { narrow := a :: b.srcs, wide := [] } 1
    (fun s r n => plainWord (if (s.g.pred k).getLsbD n ^^ neg then s.src32 a r n else s.opnd32 b r n))

def execIaddD (h : LaHdr) (a : Src) (b : Opnd) (s : State) : Out :=
  s.la h { narrow := [], wide := a :: b.srcs } 2 (fun s r n => (s.src64 a r n + s.opnd64 b r n, 0#5))

def execIsubD (h : LaHdr) (a : Src) (b : Opnd) (s : State) : Out :=
  s.la h { narrow := [], wide := a :: b.srcs } 2 (fun s r n => (s.src64 a r n - s.opnd64 b r n, 0#5))

def execIleaD (h : LaHdr) (z : Bool) (k : BitVec 3) (a : Src) (b : Opnd) (s : State) : Out :=
  s.la h { narrow := b.srcs, wide := [a] } 2
    (fun s r n => (s.src64 a r n + (extBy z (s.opnd32 b r n) <<< k.toNat), 0#5))

end Sys2Proof.Machine
end

