-- ==== Sys2Proof/Machine/LaneMove.lean ====
section
/-! DEFINITION. Moves, cross-lane instructions and predicates (04 R128 to R135). -/

namespace Sys2Proof.Machine

def execMov (h : LaHdr) (a : Opnd) (s : State) : Out :=
  s.la h { narrow := a.srcs, wide := [] } 1 (fun s r n => plainWord (s.opnd32 a r n))

/-- Lanes of a SWZ sub-group (R129). -/
def swzLanes (w : SwzWidth) : Nat :=
  match w with
  | .w2 => 2
  | .w4 => 4
  | .w8 => 8
  | .w16 => 16
  | .w32 => 32
  | .w48 => 48
  | .w96 => 96

/-- The source lane of SWZ for lane `n` with the word `b` of B (R129). -/
def swzLane (m : SwzMode) (w : Nat) (n : Nat) (b : Word) : Nat :=
  let base := n / w * w
  match m with
  | .pick => base + b.toNat % w
  | .slide =>
    let t : Int := n + b.toInt
    if t < base ∨ t ≥ (base + w : Nat) then n else t.toNat
  | .turn => base + ((((n - base : Nat) : Int) + b.toInt) % (w : Int)).toNat
  | .flip =>
    let t := base + ((n - base) ^^^ b.toNat)
    if t ≥ base + w then n else t

/-- A source in one lane as it stands; 0 in a lane that does not exist (R129, R131). -/
def State.laneValue (s : State) (a : Src) (rep n : Nat) : Word :=
  if s.g.la.present.getLsbD n then s.src32 a rep n else 0#32

def execSwz (h : LaHdr) (m : SwzMode) (w : SwzWidth) (a : Src) (b : Opnd) (s : State) : Out :=
  s.la h { narrow := a :: b.srcs, wide := [] } 1
    (fun s r n => plainWord (s.laneValue a r (swzLane m (swzLanes w) n (s.opnd32 b r n))))

/-- The result of POLL from the lanes of P and those among them whose A is not zero (R130). -/
def pollWord (m : PollMode) (p nz : LaneMask) : Word :=
  match m with
  | .someLane => if nz = 0#96 then 0#32 else 1#32
  | .everyLane => if nz = p then 1#32 else 0#32
  | .mask k => nz.extractLsb' (32 * k.toNat) 32
  | .count => BitVec.ofNat 32 (popCount nz)

/-- Write the scalar register of a destination in s, when there is one. -/
def State.wrDst (s : State) (d : Dst) (w : Word) : State :=
  match d with
  | .s r => s.wr r w
  | .v _ | .o _ | .p _ | .nw => s

/-- POLL writes a scalar destination whatever lanes participate (R130). -/
def execPoll (h : LaHdr) (m : PollMode) (a : Src) (s : State) : Out :=
  let u : LaSrcs := { narrow := [a], wide := [] }
  if s.laFits h u 1 = false then .next (s.kill .context)
  else
    s.issue' (laUses h u 1) (fun s =>
      let p := s.g.part h.guard
      let v (r : Nat) : Word := pollWord m p (p &&& maskOf (fun n => s.src32 a r n != 0#32))
      let s1 := (s.noteLatches u p).laWrite h p 1 (fun r _ => plainWord (v r))
      (s1.wrDst h.dst (v (h.rpt.count - 1))).advance 12)

/-- LREAD: one lane's value to the participating lanes, or to a scalar register where some lane participates (R131). -/
def execLread (h : LaHdr) (a : Src) (b : Opnd) (s : State) : Out :=
  let u : LaSrcs := { narrow := a :: b.srcs, wide := [] }
  if s.laFits h u 1 = false then .next (s.kill .context)
  else
    s.issue' (laUses h u 1) (fun s =>
      let p := s.g.part h.guard
      let v (r : Nat) : Word := s.laneValue a r (s.opnd32 b r 0).toNat
      let s1 := (s.noteLatches u p).laWrite h p 1 (fun r _ => plainWord (v r))
      let s2 := if p = 0#96 then s1 else s1.wrDst h.dst (v (h.rpt.count - 1))
      s2.advance 12)

/-- LWRITE: the participating lane that B names, and no other (R131). It counts as an instruction whose participating lanes are that
lane alone: LATCHLOST needs lane k among them, and the other lanes of its latch become zero where the latch was not valid (log entries
93 and 110). -/
def execLwrite (h : LaHdr) (a : Src) (b : Opnd) (s : State) : Out :=
  let u : LaSrcs := { narrow := a :: b.srcs, wide := [] }
  if s.laFits h u 1 = false then .next (s.kill .context)
  else
    s.issue' (laUses h u 1) (fun s =>
      let p := s.g.part h.guard &&& maskOf (fun n => n == (s.opnd32 b 0 0).toNat)
      ((s.noteLatches u p).laWrite h p 1 (fun r n => plainWord (s.src32 a r n))).advance 12)

/-- Index of the truth table of PLOG in one lane (R133). -/
def Gang.plogIndex (g : Gang) (pa pb pc : PReg) (n : Nat) : Nat :=
  (if (g.pred pa).getLsbD n then 1 else 0) + (if (g.pred pb).getLsbD n then 2 else 0) +
    (if (g.pred pc).getLsbD n then 4 else 0)

def execPlog (h : LaHdr) (pa pb pc : PReg) (tt : BitVec 8) (s : State) : Out :=
  s.la h { narrow := [], wide := [] } 1
    (fun s _ n => plainWord (if tt.getLsbD (s.g.plogIndex pa pb pc n) then 1#32 else 0#32))

/-- The byte p7…p0 of a lane (R134). -/
def Gang.predByte (g : Gang) (n : Nat) : Word :=
  BitVec.ofNat 32 ((List.range 8).foldl (fun a i => if (g.pred (BitVec.ofNat 3 i)).getLsbD n then a + 2 ^ i else a) 0)

def execPmovP (h : LaHdr) (s : State) : Out :=
  s.la h { narrow := [], wide := [] } 1 (fun s _ n => plainWord (s.g.predByte n))

/-- PMOV.U: predicates i of `mask`, bit i − 1 of which stands for p(i), from bit i of A (R134). -/
def execPmovU (h : LaHdr) (mask : BitVec 7) (a : Src) (s : State) : Out :=
  let u : LaSrcs := { narrow := [a], wide := [] }
  if s.laFits h u 1 = false then .next (s.kill .context)
  else
    s.issue' (laUses h u 1) (fun s =>
      let p := s.g.part h.guard
      let s1 := (s.noteLatches u p).laWrite h p 1 (fun r n => plainWord (s.src32 a r n))
      let s2 := (List.range 7).foldl
        (fun t i => if mask.getLsbD i then
            t.modG (fun g => g.setPred (BitVec.ofNat 3 (i + 1)) p (fun n => (s.src32 a 0 n).getLsbD (i + 1)))
          else t) s1
      s2.advance 12)

/-- A part of a lineage (R135). -/
def lineOf (part : LinePart) (v : DWord) : DWord :=
  match part with
  | .all => v
  | .gen => (v.extractLsb' 48 16).setWidth 64
  | .orig => (v.extractLsb' 24 24).setWidth 64
  | .serial => (v.extractLsb' 0 24).setWidth 64

def execPline (h : LaHdr) (part : LinePart) (s : State) : Out :=
  if s.packet.isPopulation = false then .next (s.kill .context)
  else
    s.la h { narrow := [], wide := [] } (if part = .all then 2 else 1)
      (fun s _ n => (lineOf part (laneAt64 s.g.la.lineage n), 0#5))

end Sys2Proof.Machine
end

