-- ==== Sys2Proof/Machine/Roller.lean ====
section
/-! DEFINITION. The Roller ports, slots and flits (18 R430 to R450), the keepalives and suspicion of peers (19 R463, R464) and the
steps of the flits that arrive. Other devices, hosts and appliances are the environment: what they send comes as a step. -/

namespace Sys2Proof.Machine

/-! ### Ports and slots (R430 to R434) -/

def State.port? (s : State) (p : Nat) : Option Port := s.fab.ports.toList[p]?

def State.modPort (s : State) (p : Nat) (f : Port → Port) : State :=
  if h : p < 16 then { s with fab := { s.fab with ports := s.fab.ports.set p (f s.fab.ports[p]) h } } else s

/-- The first TIME of slot `n` of port `p` (R433). -/
def slotStart (p n : Nat) : Nat := 256 * p + 4096 * n

/-- The transmit colours of a peer, which come with its entry in bits 27:24, reserved in a calendar: 0 stands for the default split of
8 (R430, log entry 47). -/
def peerTx (e : Word) : Nat :=
  let n := (e.extractLsb' 24 4).toNat
  if n = 0 then 8 else n

/-- The circuit of a calendar entry and the peer's entry for the same slot: the entries name each other (R434), and the splits of the
two ends fit (R430, 19 R466). -/
def circuitOf (dev p tx : Nat) (mine peer : Word) : Option Nat :=
  let port (e : Word) : Nat := (e.extractLsb' 0 4).toNat
  let names (e : Word) : Nat := (e.extractLsb' 4 12).toNat
  if mine.getLsbD 16 ∧ peer.getLsbD 16 ∧ names peer = dev ∧ port mine = p ∧ port peer = p ∧ tx + peerTx peer = 16 then
    some (names mine)
  else none

/-- Colours in the order in which the end with the lower device number takes them to transmit on: the even ones first (R430, log
entry 115). -/
def colourOrder : List Nat := [0, 2, 4, 6, 8, 10, 12, 14, 1, 3, 5, 7, 9, 11, 13, 15]

/-- The colours on which a port transmits: the end with the higher number has those that the lower end receives on. -/
def txColours (lower : Bool) (tx : Nat) : BitVec 16 :=
  maskFrom 16 (if lower then colourOrder.take tx else colourOrder.drop (16 - tx))

/-- The session with a peer on this port. -/
def Port.key? (c : Port) (dev : Nat) : Option (Nat × Nat × Nat) := c.keys.find? (fun k => k.1 == dev)

/-- The lit colours on which a port of device `dev` transmits to a peer (R430, R431). -/
def Port.colours (c : Port) (dev peer : Nat) : Nat := popCount (c.lit &&& txColours (dev < peer) c.tx)

/-- The peer of a circuit that carries flits now: the port is up, in a lit window, with a lit transmit colour, and holds a
session secret with the peer (R430, R433, R434, R436, 19 R459). -/
def State.faces (s : State) (p : Nat) : Option Nat :=
  match s.port? p with
  | none => none
  | some c =>
    if c.state ≠ .up then none
    else
      match c.circuitAt p s.time with
      | none => none
      | some d => if c.colours s.pkg.device d ≠ 0 ∧ (c.key? d).isSome then some d else none

/-- No further flit may be sent to a peer before a rekey (R436). -/
def Port.exhausted (c : Port) : Bool := c.keys.any (fun k => k.2.2 + 1 ≥ 2 ^ 48 - 1)

/-- `n` flits may be sent to a peer: the counter stays below 2^48 - 1 (R436). -/
def Port.hasNonces (c : Port) (dev n : Nat) : Bool :=
  match c.key? dev with
  | some k => k.2.2 + n < 2 ^ 48 - 1
  | none => false

/-- `n` flits leave before the guard begins: a colour of 224 Gb/s takes 10 ticks for one (R453, log entry 116). -/
def State.fitsWindow (s : State) (p d n : Nat) : Bool :=
  match s.port? p with
  | none => false
  | some c =>
    let m := max 1 (c.colours s.pkg.device d)
    (s.time - 256 * p) % 4096 + (n + m - 1) / m * 10 ≤ 3840

/-- Flits are sent to a peer: the counter of its direction, and STOPPED before a nonce repeats (R436). -/
def Port.sent (c : Port) (dev n : Nat) : Port :=
  let keys := c.keys.map (fun k => if k.1 = dev then (k.1, k.2.1, k.2.2 + n) else k)
  { c with
    keys := keys
    busy := true
    state := if keys.any (fun k => k.1 == dev && k.2.2 + 1 ≥ 2 ^ 48 - 1) then .stopped else c.state }

/-- The slot of a reconfiguration's switch boundary, T / 4,096: B_p is slot T / 4,096 of every port (19 R456). -/
def State.lastSlot (s : State) : Nat := s.rc.t / 4096

/-- The old calendar's last slot of a port before its switch boundary, when a reconfiguration with new calendars is under way
(19 R456, R457). -/
def State.inLastSlot (s : State) (p n : Nat) : Bool :=
  (s.rc.phase == .armed || s.rc.phase == .draining) && !s.rc.splitOnly && s.rc.portMask.getLsbD p && n + 1 == s.lastSlot

/-- SLOT_BOUNDARY: the slot's entry makes a circuit with the peer's, or the slot is DARK (R433, R434). RCSTAT shows the last slot
before a switch boundary as DRAINING (19 R456). -/
def execSlotBoundary (port : Nat) (peerEntry : Word) (s : State) : Out :=
  if s.time < 256 * port then .next s
  else
    let n := (s.time - 256 * port) / 4096
    match s.port? port with
    | none => .next s
    | some c =>
      let mine := if c.calendar.isEmpty then 0#32 else c.calendar.getD (n % c.calendar.length) 0#32
      let circuit := circuitOf s.pkg.device port c.tx mine peerEntry
      let s1 := s.modPort port (fun c => { c with slot := n, inGuard := false, busy := false, circuit := circuit })
      if s.inLastSlot port n then .next { s1 with rc := { s1.rc with phase := .draining, stat := 0x02#8 } } else .next s1

/-- Two bytes of a SEQ, the lower first. -/
def seqBytes (n : Nat) : List Byte := leBytes 2 (n % 65536)

/-- The last SEQ that a port sent to a peer on a path. -/
def Port.lastSeqOf (c : Port) (dev : Nat) (relay : Bool) : Nat :=
  match c.lastSeq.find? (fun r => r.1 == 2 * dev + (if relay then 1 else 0)) with
  | some r => r.2
  | none => 0

/-- The drain marker of a circuit, after the last flit of its window: it carries the last SEQ of each path, the direct path's first,
and stays in the retry buffer until it is acknowledged (19 R457). -/
def State.sendDrain (s : State) (port dev : Nat) : State :=
  match s.port? port with
  | none => s
  | some c =>
    let f := { s.flit dev .drain false (0, 0#64) (seqBytes (c.lastSeqOf dev false) ++ seqBytes (c.lastSeqOf dev true)) s.nextId with
      relay := false }
    ({ s with
      nextId := s.nextId + 1
      fab := { s.fab with
        drained := s.fab.drained ++ [(port, dev)]
        retry := s.fab.retry ++
          [({ port := port, dev := dev, out := { flit := f, owner := none, mcast := none, again := true } } : RetryFlit)] } }).modPort
      port (fun c => c.sent dev 1)

/-- SLOT_GUARD: the last 256 ticks of a slot. The window before was lit whole for its circuit, in which at least one flit was
sent: an ACK that acknowledges nothing where no other was (19 R463). The last window before a switch boundary ends with a drain
marker (19 R457). A peer without a session secret has been through its exchange (19 R459). -/
def execSlotGuard (port : Nat) (s : State) : Out :=
  match s.port? port with
  | none => .next s
  | some c =>
    if s.time < slotStart port c.slot + 3840 ∨ c.inGuard = true then .next s
    else
      let s1 := s.modPort port (fun c => { c with inGuard := true })
      match c.circuit with
      | none => .next s1
      | some d =>
        if c.state ≠ .up ∨ c.colours s.pkg.device d = 0 then .next s1
        else if (c.key? d).isNone then
          .next (s1.modPort port (fun c =>
            { c with keys := c.keys ++ [(d, 1, 0)], rxKeys := c.rxKeys.filter (fun k => k.1 != d) ++ [(d, 1)] }))
        else
          let s2 := s1.modPort port (fun c => { c with litWhole := c.litWhole.filter (fun w => w.1 != d) ++ [(d, s.time)] })
          .next (if s.inLastSlot port c.slot then s2.sendDrain port d
            else if c.busy then s2
            else s2.modPort port (fun c => c.sent d 1))

/-- The session of a port whose counter has come near its end and that its circuit reaches now (R436, 19 R467). -/
def Port.rekeyDue (c : Port) (p time : Nat) : Option Nat :=
  if c.state = .up ∨ c.state = .stopped then
    (c.circuitAt p time).bind (fun d => match c.key? d with
      | some k => if k.2.2 ≥ 2 ^ 48 - 2 ^ 32 then some d else none
      | none => none)
  else none

/-- REKEY: a generation whose counter has come near its end gives way to the next after a KEY flit, at a flit boundary of a circuit
to its peer (R436). -/
def execRekey (port : Nat) (s : State) : Out :=
  .next (s.modPort port (fun c => match c.rekeyDue port s.time with
    | none => c
    | some d =>
      let keys := c.keys.map (fun k => if k.1 = d then (k.1, k.2.1 + 1, 0) else k)
      { c with
        keys := keys
        busy := true
        state := if c.state = .stopped ∧ keys.all (fun k => k.2.2 + 1 < 2 ^ 48 - 1) then .up else c.state }))

/-- Flits of the retry buffer go ahead of what waits for their peers, and keep their SEQ (R431, 19 R457). -/
def State.resend (s : State) (rs : List RetryFlit) : State :=
  let outs := rs.map RetryFlit.out
  { s with fab := { s.fab with
    retry := s.fab.retry.filter (fun (r : RetryFlit) => !rs.contains r)
    egress := outs.filter (fun (o : OutFlit) => !o.flit.relay) ++ s.fab.egress
    transit := outs.filter (fun (o : OutFlit) => o.flit.relay) ++ s.fab.transit } }

/-- HEATER_END_OF_RANGE: the colour goes dark. A flit in transmission on it fails its tag and is sent again from the retry buffer
(R431); whether there is one is free. -/
def execHeaterEndOfRange (port colour : Nat) (s : State) : Out :=
  match s.port? port with
  | none => .next s
  | some c =>
    if colour < 16 ∧ c.lit.getLsbD colour = true then
      let (n, s1) := (s.modPort port (fun c => { c with
        lit := c.lit &&& ~~~ (maskFrom 16 [colour]), lost := c.lost ++ [(colour, s.time)] })).free
      .next (match (s1.fab.retry.filter (fun r => r.port == port)).getLast? with
        | some r => if Config.choice n then s1.resend [r] else s1
        | none => s1)
    else .next s

/-- A dark colour is lit again, and RELOCKS counts it (R431, R432). -/
def Port.relight (c : Port) (colour : Nat) : Port :=
  if colour < 16 ∧ c.lit.getLsbD colour = false then
    { c with lit := c.lit ||| maskFrom 16 [colour], lost := c.lost.filter (fun l => l.1 != colour), relocks := c.relocks + 1#8 }
  else c

/-- COLOUR_RELOCK (R431). -/
def execColourRelock (port colour : Nat) (s : State) : Out := .next (s.modPort port (fun c => c.relight colour))

/-- Every colour is lit again within 40,000 ticks (R431). -/
def State.relightDue (s : State) : State :=
  (List.range 16).foldl
    (fun s p => match s.port? p with
      | none => s
      | some c =>
        let due := (c.lost.filter (fun l => l.2 + 40000 ≤ s.time)).map Prod.fst
        if due.isEmpty then s else s.modPort p (fun c => due.foldl Port.relight c)) s

/-! ### Pools (R442, R443) -/

/-- The injection rate of a pool; it starts at the limit (R443). -/
def State.poolRate (s : State) (p : Nat) : Nat :=
  match s.fab.poolRates.find? (fun r => r.1 == p) with
  | some r => r.2
  | none => Config.poolLimit p

def State.poolUsed (s : State) (p : Nat) : Nat :=
  match s.fab.poolSent.find? (fun r => r.1 == p) with
  | some r => r.2
  | none => 0

/-- Ticks of a pool's window that have passed. -/
def State.poolTick (s : State) (p : Nat) : Nat :=
  match s.fab.poolTicks.find? (fun r => r.1 == p) with
  | some r => r.2
  | none => 0

/-- The flits of a pool request go out only under its rate, in a window that has not ended (R443). -/
def State.poolOpen (s : State) (f : Flit) : Bool :=
  f.dst < 4096 || (s.poolTick (f.dst - 4096) < 1024 &&
    s.poolUsed (f.dst - 4096) + 256 * max 1 (flitCount f.payload) ≤ s.poolRate (f.dst - 4096))

/-- The clocks of the pools' windows: they pause while a port is dark or relocks (R443, 19 R458). -/
def State.poolElapse (s : State) (dt : Nat) : State :=
  let known := ((s.fab.poolSent ++ s.fab.poolSeen ++ s.fab.poolTicks).map Prod.fst).eraseDups
  if known.isEmpty ∨ s.fab.ports.toList.any (fun c => c.state == .dark || c.state == .relock) then s
  else { s with fab := { s.fab with poolTicks := known.map (fun p => (p, s.poolTick p + dt)) } }

def State.poolCount (s : State) (f : Flit) : State :=
  if f.dst < 4096 then s
  else
    let p := f.dst - 4096
    let n := s.poolUsed p + 256 * max 1 (flitCount f.payload)
    { s with fab := { s.fab with poolSent := s.fab.poolSent.filter (fun (r : Nat × Nat) => r.1 != p) ++ [(p, n)] } }

/-- The highest load level of the responses of a pool (R442, R443). -/
def State.poolLoad (s : State) (f : Flit) : State :=
  if f.src < 4096 then s
  else
    let p := f.src - 4096
    let seen := match s.fab.poolSeen.find? (fun r => r.1 == p) with | some r => max r.2 (f.load % 4) | none => f.load % 4
    { s with fab := { s.fab with poolSeen := s.fab.poolSeen.filter (fun (r : Nat × Nat) => r.1 != p) ++ [(p, seen)] } }

/-- The new rate for the highest level seen, before its bounds (R443). -/
def poolStep (limit rate level : Nat) : Nat :=
  match level with
  | 0 => rate + limit / 64
  | 1 => rate
  | 2 => rate - rate / 8
  | _ => rate / 2

/-- POOL_RATE_WINDOW: the end of a window of 1,024 ticks; one in which responses arrived changes the rate (R443). -/
def execPoolRateWindow (pool : Nat) (s : State) : Out :=
  let limit := Config.poolLimit pool
  let s1 := { s with fab := { s.fab with
    poolSent := s.fab.poolSent.filter (fun (r : Nat × Nat) => r.1 != pool)
    poolTicks := s.fab.poolTicks.filter (fun (r : Nat × Nat) => r.1 != pool) ++ [(pool, s.poolTick pool % 1024)] } }
  if s.poolTick pool < 1024 then .next s
  else match s.fab.poolSeen.find? (fun r => r.1 == pool) with
  | none => .next s1
  | some seen =>
    let rate := max (limit / 16) (min limit (poolStep limit (s.poolRate pool) seen.2))
    .next { s1 with fab := { s1.fab with
      poolSeen := s1.fab.poolSeen.filter (fun (r : Nat × Nat) => r.1 != pool)
      poolRates := s1.fab.poolRates.filter (fun (r : Nat × Nat) => r.1 != pool) ++ [(pool, rate)] } }

/-! ### Sending (R437 to R440) -/

/-- COALESCER_TIMEOUT: 1,024 ticks after the first byte for a device entered the core's coalescer, all of it goes (R437). -/
def execCoalescerTimeout (core : Nat) (s : State) : Out :=
  let due (h : Held) : Bool := s.fab.coalesced.any (fun k =>
    k.core == core && k.dev == h.dev && k.owner == h.owner && k.since + 1024 ≤ s.time)
  .next (s.sendHeld (fun h => h.core == core && due h))

/-- The relay table's ports for a device (R439). -/
def State.relayMask (s : State) (dev : Nat) : BitVec 16 :=
  match s.fab.relay.find? (fun r => r.1 == dev) with
  | some r => r.2
  | none => 0#16

/-- The lowest-numbered port through which a relay flit leaves now, and its peer (R439). A flit to a pool leaves over any
circuit (log entry 26). -/
def State.relayPort (s : State) (f : Flit) : Option (Nat × Nat) :=
  (List.range 16).findSome? (fun p => match s.faces p with
    | some d =>
      if d = f.dst ∨ f.dst ≥ 4096 ∨ ((s.relayMask f.dst).getLsbD p = true ∧ f.hops < 2) then some (p, d) else none
    | none => none)

/-- The number of a path to a device in the lists of SEQs. -/
def pathKey (dev : Nat) (relay : Bool) : Nat := 2 * dev + (if relay then 1 else 0)

/-- SEQ of the next flit to a device on a path (R435). -/
def State.seqOf (s : State) (dev : Nat) (relay : Bool) : Nat :=
  match s.fab.txSeq.find? (fun r => r.1 == pathKey dev relay) with
  | some r => (r.2 + 1) % 65536
  | none => 1

/-- `n` flits to a device on a path have taken their SEQs (R435). -/
def State.nextSeq (s : State) (dev : Nat) (relay : Bool) (n : Nat) : State :=
  let last := (s.seqOf dev relay + n - 1) % 65536
  { s with fab := { s.fab with
    txSeq := s.fab.txSeq.filter (fun (r : Nat × Nat) => r.1 != pathKey dev relay) ++ [(pathKey dev relay, last)] } }

/-- Flits that a packet is made of: each takes a SEQ and a count (R435, R436). -/
def OutFlit.count (o : OutFlit) : Nat := max 1 (flitCount o.flit.payload)

/-- The SEQ of a packet's first flit: a flit that was sent before keeps its own, and so does one on its way from another device. -/
def State.seqFor (s : State) (o : OutFlit) : Nat :=
  if o.again ∨ (o.flit.relay ∧ o.flit.src ≠ s.pkg.device) then o.flit.seq else s.seqOf o.flit.dst o.flit.relay

/-- A packet leaves port `p` for its peer `d`; the port's retry buffer keeps it until it is acknowledged (R431, R435, R436). -/
def State.leaves (s : State) (p d : Nat) (o : OutFlit) : State :=
  let q := s.seqFor o
  let last := (q + o.count - 1) % 65536
  let k := pathKey d o.flit.relay
  let s1 := if o.again ∨ (o.flit.relay ∧ o.flit.src ≠ s.pkg.device) then s else s.nextSeq o.flit.dst o.flit.relay o.count
  let s2 := s1.modPort p (fun c => { c.sent d o.count with lastSeq := c.lastSeq.filter (fun r => r.1 != k) ++ [(k, last)] })
  let kept : RetryFlit := { port := p, dev := d, out := { o with flit := { o.flit with seq := q }, again := true } }
  { s2 with fab := { s2.fab with retry := s2.fab.retry ++ [kept] } }

/-- A packet may leave port `p` for its peer `d` now: within the window and the nonces; a suspect peer's traffic stays queued (19
R463). -/
def State.mayLeave (s : State) (p d : Nat) (o : OutFlit) : Bool :=
  s.fitsWindow p d o.count && !s.fab.suspects.contains d && !s.fab.suspects.contains o.flit.dst

/-- The port's counter leaves no room for a packet: the port stops sending (R436). -/
def State.stopPort (s : State) (p : Nat) : State := s.modPort p (fun c => { c with state := .stopped })

/-- A packet leaves, or finds that its port must stop. -/
def State.leaveOr (s : State) (p d : Nat) (o : OutFlit) (take : State → State) : Out :=
  match s.port? p with
  | none => .next s
  | some c =>
    if s.mayLeave p d o = false then .next s
    else if c.hasNonces d o.count = false then .next (s.stopPort p)
    else .next (((take s).leaves p d o).poolCount o.flit)

/-- RELAY_FLIT_FORWARD: a flit that waits in the transit reserve leaves (R439). One beyond its pool's rate waits in the egress queue
(R443). -/
def execRelayFlitForward (index : Nat) (s : State) : Out :=
  match s.fab.transit[index]? with
  | none => .next s
  | some o =>
    let take (s : State) : State := { s with fab := { s.fab with transit := s.fab.transit.eraseIdx index } }
    if s.poolOpen o.flit = false then
      (if s.egressNoRoom o.flit.dst 1 then .next s
       else
         let t := take s
         .next { t with fab := { t.fab with egress := t.fab.egress ++ [o] } })
    else
      match s.relayPort o.flit with
      | none => .next s
      | some (p, d) => s.leaveOr p d o take

/-- EGRESS_QUEUE_SEND: the oldest flit of a peer's egress queue leaves over a lit circuit to it (R440), that of a pool's over any
(log entry 26). -/
def execEgressQueueSend (dev port : Nat) (s : State) : Out :=
  match s.fab.egress.findIdx? (fun o => o.flit.dst == dev), s.faces port with
  | some i, some d =>
    if d ≠ dev ∧ dev < 4096 then .next s
    else
      match s.fab.egress[i]? with
      | none => .next s
      | some o =>
        if s.poolOpen o.flit = false then .next s
        else s.leaveOr port d o (fun s => { s with fab := { s.fab with egress := s.fab.egress.eraseIdx i } })
  | _, _ => .next s

/-- A transfer of an engine may enter the queue of its path: earlier ones for the device have, those of the operation are answered
where it is a step on a binder, which comes after them, and there is room (R438, R440, 11 R311, 13 R353). -/
def State.mayEnter (s : State) (e : EngineOut) : Bool :=
  let before := s.fab.engine.takeWhile (fun x => x.id != e.id)
  !before.any (fun x => x.flit.dst == e.flit.dst && !x.entered) &&
    (e.flit.bulk || e.flit.type != .atomic || !before.any (fun x => x.op == e.op && x.code.isNone)) &&
    (if e.flit.relay then !s.egressFull 1 else !s.egressNoRoom e.flit.dst (max 1 (flitCount e.flit.payload)))

/-- The transfers of engines that may enter the queues of their paths do (R440). -/
def State.feedEngines (s : State) : State :=
  s.fab.engine.foldl
    (fun s e =>
      if e.entered || !s.mayEnter e then s
      else
        let o : OutFlit := { flit := e.flit, owner := none, mcast := none }
        { s with fab := { s.fab with
          engine := s.fab.engine.map (fun (x : EngineOut) => if x.id = e.id then { x with entered := true } else x)
          transit := if e.flit.relay then s.fab.transit ++ [o] else s.fab.transit
          egress := if e.flit.relay then s.fab.egress else s.fab.egress ++ [o] } }) s

/-- A gang that was switched out on egress space issues again (R440). -/
def wakeEgress (h : Gang) : Gang :=
  if h.sch.run = .egress then { h with sch := { h.sch with run := .ready } } else h

/-- EGRESS_SPACE_FREED (R440). -/
def execEgressSpaceFreed (g : GangRef) (s : State) : Out := .next (s.modGang g wakeEgress)

/-! ### Arriving flits -/

/-- A flit from a reachable source has passed its tag: its device is heard, and no longer suspect (19 R463). -/
def State.hear (s : State) (src : Nat) : State :=
  { s with fab := { s.fab with
    lastHeard := s.fab.lastHeard.filter (fun (r : Nat × Nat) => r.1 != src) ++ [(src, s.time)]
    suspects := s.fab.suspects.filter (· != src) } }

/-- Pools answer under numbers of the model's own; every other source must be reachable (19 R460). -/
def State.accepts (s : State) (src : Nat) : Bool := src ≥ 4096 || s.fab.reach.contains src

/-- A flit that arrives: one from an unreachable device is discarded (19 R460). -/
def State.arrives (s : State) (f : Flit) (k : State → Out) : Out :=
  if s.accepts f.src then k (s.hear f.src) else .next s

/-- The SEQ that the next direct flit of a source has; none before its first (R435, log entry 52). -/
def State.nextRx (s : State) (src : Nat) : Option Nat :=
  (s.fab.rxSeq.find? (fun r => r.1 == src)).map (fun r => (r.2 + 1) % 65536)

/-- A direct flit from a source whose turn has not come: the flit before it has not been performed (R440). -/
def State.tooEarly (s : State) (f : Flit) : Bool :=
  !f.relay && (match s.nextRx f.src with
    | some n => f.seq % 65536 != n
    | none => false)

/-- Flits that the payload of an arriving packet needs. -/
def packetCount (f : Flit) : Nat := max 1 (flitCount f.payload)

/-- A packet takes its turn with all its SEQs; a direct one that waited for it comes next (R440). -/
def State.takeTurn (s : State) (f : Flit) : State :=
  let last := (f.seq + packetCount f - 1) % 65536
  if f.relay then
    { s with fab := { s.fab with rxRelay := s.fab.rxRelay.filter (fun (r : Nat × Nat) => r.1 != f.src) ++ [(f.src, last)] } }
  else
    let n := (last + 1) % 65536
    let mine (e : EarlyFlit) : Bool := e.flit.src == f.src && e.flit.seq % 65536 == n
    { s with
      fab := { s.fab with
        rxSeq := s.fab.rxSeq.filter (fun (r : Nat × Nat) => r.1 != f.src) ++ [(f.src, last)]
        early := s.fab.early.filter (fun e => !mine e) }
      acts := s.acts ++ (s.fab.early.filter mine).map Act.flit }

/-- A flit for this device: direct flits of one source are performed in SEQ order (R440). -/
def State.receives (s : State) (i : FlitStep) (f : Flit) (k : State → Out) : Out :=
  if s.accepts f.src ∧ s.tooEarly f then .next { s with fab := { s.fab with early := s.fab.early ++ [{ flit := f, step := i }] } }
  else s.arrives f (fun t => k (t.takeTurn f))

/-- A flit that has arrived waits for a lookup that is held, or for room: it is taken up again later (R444, 09 R280). -/
def State.stall (s : State) (i : FlitStep) (f : Flit) : State :=
  { s with fab := { s.fab with stalled := s.fab.stalled ++ [{ flit := f, step := i }] } }

/-- An answer to a flit, on the relay path (R438). -/
def State.answer (s : State) (f : Flit) (type : FlitType) (payload : List Byte) : State :=
  let a := s.flit f.src type false (f.iface, 0#64) payload f.tag
  { s with fab := { s.fab with transit := s.fab.transit ++ [{ flit := a, owner := none, mcast := none }] } }

/-- An acknowledgement with a code. -/
def State.acknowledge (s : State) (f : Flit) (code : Nat) : State := s.answer f .ack [BitVec.ofNat 8 code]

/-- The checks of a request that arrives, in its ingress tables (R435, 08 R236). -/
def State.ingress (s : State) (f : Flit) (need : Perms) (op : TargetOp) (size align : Nat) : Except Fail Landing :=
  if f.ptr.toNat % align ≠ 0 then .error (alignFail f.ptr)
  else
    match s.translateIngress (cpReq f.iface need size) f.crossed f.ptr with
    | .error x => .error (x.fail f.ptr)
    | .ok l =>
      match targetFault op l.type with
      | some kind => .error (l.fault kind f.ptr)
      | none =>
        if l.type = tMmio ∧ s.mmioOk l.owner l.o size = false then .error (l.fault kProtection f.ptr)
        else if (need.w || need.a) && op != .sealing && s.sealedBytes l.bytes then .error (l.fault kSealedStore f.ptr)
        else if need.r || need.a then s.checkData l f.ptr
        else .ok l

/-- A request that arrives: refused with the code of its fault. While a lookup is held or the relay reserve has no room for the
answer it waits (log entry 27). -/
def State.served? (s : State) (i : FlitStep) (f : Flit) (need : Perms) (op : TargetOp) (size align : Nat) (k : State → Landing → State) :
    Out :=
  if s.accepts f.src ∧ s.egressFull 1 = true then .next (s.stall i f)
  else
    s.receives i f (fun t =>
      match t.ingress f need op size align with
      | .error (.wait _) => .next (s.stall i f)
      | .error (.fault x) => .next (t.acknowledge f x.kind)
      | .ok l => .next (k t l))

/-- The request is a doorbell of an adapter whose earlier writes wait (R444). -/
def State.doorbellBehind (s : State) (f : Flit) (n : Nat) : Bool :=
  s.fab.stalled.any (fun e => e.flit.src == f.src) &&
    (match s.ingress f .write .store n 1 with
     | .ok l => l.type == tMmio && (doorbellQueue l.o).isSome
     | .error _ => false)

/-- WRITE_FLIT (R435, R444): performed at its home and acknowledged; a store to a register is performed as one (08 R483), and
bytes marked as poisoned poison their sectors (08 R481). -/
def execWriteFlit (f : Flit) (s : State) : Out :=
  let n := match f.offs.getLast? with | some k => k + 1 | none => f.payload.length
  if s.accepts f.src ∧ s.doorbellBehind f n = true then .next (s.stall .write f)
  else
    s.served? .write f .write .store n 1 (fun s l =>
      let ps := if f.offs.isEmpty then l.bytes else f.offs.filterMap (fun k => l.bytes[k]?)
      let s1 := if l.type = tMmio then s.mmioStore l n (leValue f.payload)
        else (s.performBytes noGang (ps.zip f.payload) (l.pages.map Prod.fst)).taintPlaces
          ((ps.zipIdx.filter (fun b => f.poison.contains b.2)).map Prod.fst)
      s1.acknowledge f 0)

/-- READ_FLIT (R435). -/
def execReadFlit (f : Flit) (s : State) : Out :=
  s.served? .read f .read .load f.payload.length 1 (fun s l =>
    let s1 := if l.type = tMmio then { s with freeCtr := s.freeCtr + 1 } else s
    s1.answer f .readResp (l.bytes.map s.homeByte))

/-- The change of one T6 element, of a group whose home is this device (08 R242): the payload is its position and its value (log entry
82). -/
def execElementFlit (f : Flit) (op : AtomOp) (s : State) : Out :=
  let at' (i : Nat) : Nat := (f.payload.getD i 0#8).toNat
  s.served? (.atomic op .b) f .write .element 3 1 (fun s l =>
    (s.performElem noGang l.bytes (at' 0 % 4) (at' 1 % 64) (l.pages.map Prod.fst)).answer f .atomResp [])

/-- A step of SEAL or UNSEAL on a granule whose home is this device (08 R252): the payload is the new bit (log entry 38). -/
def execSealFlit (f : Flit) (op : AtomOp) (s : State) : Out :=
  s.served? (.atomic op .h) f .seal .sealing 1 1 (fun s l =>
    match l.bytes.head?.bind Place.key with
    | some k =>
      let (changed, s1) := s.sealStep noGang (k / 65536) (f.payload.getD 0 0#8 != 0#8)
      s1.answer f .atomResp [if changed then 1#8 else 0#8]
    | none => s.answer f .atomResp [])

/-- ATOMIC_FLIT: the payload is the operand, then the expected value of a CAS (R435, log entry 25). No atomic has one byte or two: these
sizes stand for the change of a T6 element and for a step of SEAL or UNSEAL. -/
def execAtomicFlit (f : Flit) (op : AtomOp) (size : MemSize) (s : State) : Out :=
  match size with
  | .b => execElementFlit f op s
  | .h => execSealFlit f op s
  | .w | .d | .q =>
    let n := size.bytes
    s.served? (.atomic op size) f .atomic .atomic n n (fun s l =>
      let old := leValue (l.bytes.map s.homeByte)
      let s1 := match atomicNew op n old (leValue (f.payload.take n)) (leValue (f.payload.drop n)) with
        | none => s
        | some v => s.performBytes noGang (placed l.bytes v) (l.pages.map Prod.fst)
      s1.answer f .atomResp (leBytes n old))

/-! ### Answers to this device (R441, R442) -/

/-- Registers of a remote load's destination. -/
def RemoteDst.all (d : RemoteDst) (n : Nat) : List RegRef := d.regs (if n ≤ 4 then 1 else n / 4)

/-- A remote operation of a gang is no longer outstanding; `lost` when it was discarded (10 R484). -/
def State.settleRemote (s : State) (id dev : Nat) (owner : GangRef) (lost : Bool) : State :=
  ({ s with fab := { s.fab with unacked := s.fab.unacked.filter (fun (u : Unacked) => u.id != id) } }).modGang owner (fun (h : Gang) =>
    { h with
      unacked := h.unacked.filter (fun (r : RemoteOp) => r.id != id)
      discarded := if lost then h.discarded ++ [({ id := id, dev := dev } : RemoteOp)] else h.discarded })

/-- Held accesses of the gang to the device go once nothing holds them (R441), and what waited for the gang's accesses goes
on. -/
def State.afterRemote (s : State) (owner : GangRef) (dev : Nat) : State :=
  ((s.sendHeld (fun h => h.owner == owner && h.dev == dev)).wakeBoards).settleDrains

/-- The registers of a completed remote load that no other access still fills are there. -/
def State.clearLoad (s : State) (owner : GangRef) (dst : RemoteDst) (n : Nat) : State :=
  let done := (dst.all n).filter (fun r => !s.remotePending owner r)
  s.modGang owner (fun h => { h with bd := { h.bd with pending := h.bd.pending.filter (fun r => !done.contains r) } })

/-- The byte of a place in an answer that starts at key `base`, after the changes of earlier lanes. -/
def answerByte (base : Nat) (payload : List Byte) (changed : List (Nat × Byte)) (p : Place) : Byte :=
  let k := p.key.getD 0
  match changed.find? (fun c => c.1 == k) with
  | some c => c.2
  | none => payload.getD (k - base) 0#8

/-- The page-map entries that a remote access used. -/
def State.pagesOf (s : State) (id : Nat) : List Nat :=
  match s.fab.unacked.find? (fun u => u.id == id) with
  | some u => u.pages
  | none => []

/-- A remote load or atomic has its data: values in lane order, each gang's own writes first (R77, R441, 16 R408). -/
def State.finishLoad (s : State) (o : Op) (payload : List Byte) (dst : RemoteDst) (op : Option AtomOp) (n : Nat)
    (items : List RemoteItem) (place : Place) : State :=
  let s1 := { s with ops := s.ops.filter (fun (x : Op) => x.id != o.id) }
  let ended := match s1.gang? o.owner with | some h => h.sch.run.isOver | none => true
  let s2 := s1.asGang o.owner (fun s =>
    let r := items.foldl
      (fun (acc : List (Nat × Nat) × List (Nat × Byte) × State) (i : RemoteItem) =>
        let ps := i.place.run n
        let u := acc.2.2
        let old := leValue (ps.map (fun p => u.ownOver p (answerByte (place.key.getD 0) payload acc.2.1 p)))
        match op.bind (fun a => atomicNew a n old i.operand i.expect) with
        | none => (acc.1 ++ [(i.lane, old)], acc.2.1, u)
        | some v =>
          let bs := placed ps v
          (acc.1 ++ [(i.lane, old)], bs.map (fun b => (b.1.key.getD 0, b.2)) ++ acc.2.1,
            if bs.all (fun b => u.transactional b.1) then u.txnWrite o.iface bs
            else u.performBytes o.owner bs (s.pagesOf o.id))) ([], [], s)
    if ended then r.2.2 else r.2.2.modG (fun g => g.loaded dst n r.1))
  let s3 := s2.clearLoad o.owner dst n
  let last := s3.ops.all (fun x => x.owner != o.owner || x.serial != o.serial || (match x.kind with
    | .remoteLoad _ _ _ _ _ _ _ => false
    | _ => true))
  match op, s3.gang? o.owner with
  | some _, some h =>
    if last && !o.owner.twin && (s3.gang? o.owner.other).isSome then
      s3.modGang o.owner.other (deliver o.serial (h.dstValues dst n))
    else s3
  | _, _ => s3

/-- A remote load or atomic that is discarded (19 R461); a Plumb twin that waits for an atomic's value learns of it. -/
def State.loseLoad (s : State) (o : Op) : State :=
  match o.kind with
  | .remoteLoad dst op n _ _ ptr _ =>
    let s1 := ({ s with ops := s.ops.filter (fun (x : Op) => x.id != o.id) }).modGang o.owner
      (fun (h : Gang) => { h with bd := h.bd.lose (dst.all n) ptr })
    if op.isSome && !o.owner.twin && (s1.gang? o.owner.other).isSome then s1.modGang o.owner.other (deliver o.serial []) else s1
  | _ => s

/-- The flits that an answer acknowledges leave the retry buffers: the request that it names (R431, 19 R457). -/
def State.freeRetry (s : State) (f : Flit) : State :=
  let mine (r : RetryFlit) : Bool := r.out.flit.tag == f.tag && r.out.flit.dst == f.src && r.out.flit.src == s.pkg.device &&
    (match r.out.flit.type with
     | .write | .read | .atomic | .mcast | .drain => true
     | .readResp | .atomResp | .ack | .timeSync | .key | .reserved _ => false)
  { s with fab := { s.fab with retry := s.fab.retry.filter (fun (r : RetryFlit) => !mine r) } }

/-- A home has answered a transfer of an engine. -/
def State.engineAnswer (s : State) (f : Flit) (code : Nat) : State :=
  let mine (e : EngineOut) : Bool := e.id == f.tag && e.flit.dst == f.src && e.code.isNone
  let pages := ((s.fab.engine.filter mine).map EngineOut.pages).flatten
  let s1 := { s with fab := { s.fab with engine := s.fab.engine.map (fun (e : EngineOut) => if mine e then { e with code := some code } else e) } }
  if code = 0 then pages.eraseDups.foldl State.markPage s1 else s1

/-- An answer to a remote load or atomic, to the change of a T6 element at another home (08 R242), or to a step of an engine. -/
def State.responds (s : State) (i : FlitStep) (f : Flit) (atomic : Bool) : Out :=
  s.receives i f (fun s0 =>
    let s := (s0.poolLoad f).freeRetry f
    match s.op? f.tag with
    | none =>
      (match s.fab.unacked.find? (fun u => u.id == f.tag && u.bytes.isEmpty) with
       | some u =>
         if atomic then
           .next (((u.pages.eraseDups.foldl State.markPage s).settleRemote u.id u.dev u.owner false).afterRemote u.owner u.dev)
         else .next s
       | none => .next (s.engineAnswer f 0))
    | some o =>
      match o.kind with
      | .remoteLoad dst op n items dev _ place =>
        if (op.isSome && s.fab.unacked.any (fun u => u.id == o.id)) = atomic then
          .next (((s.finishLoad o f.payload dst op n items place).settleRemote o.id dev o.owner false).afterRemote o.owner dev)
        else .next s
      | _ => .next s)

/-- READRESP_FLIT (R435, R442). -/
def execReadrespFlit (f : Flit) (s : State) : Out := s.responds .readresp f false

/-- ATOMRESP_FLIT: it acknowledges the atomic too (R435, R441). -/
def execAtomrespFlit (f : Flit) (s : State) : Out := s.responds .atomresp f true

/-- The unit that an acknowledgement of a multicast answers for: its sender, or the unit that a parent names (R449). -/
def ackUnit (f : Flit) : Nat :=
  match f.payload with
  | _ :: a :: b :: _ => a.toNat + 256 * b.toNat
  | _ => f.src

/-- A multicast of this device is answered by one unit (R449). -/
def answered (f : Flit) (code : Nat) (o : Op) : Op :=
  if o.id = f.tag then
    match o.kind with
    | .mcast ack off dest iface tree data answers sent =>
      { o with kind := .mcast ack off dest iface tree data (answers ++ [(ackUnit f, code)]) sent }
    | _ => o
  else o

/-- SEQ `q` is at or before `last` (modulo 2^16). -/
def seqUpTo (q last : Nat) : Bool := (last + 65536 - q % 65536) % 65536 < 32768

/-- The acknowledgement of a drain marker frees every flit that it names as arrived from the retry buffer: those of the marker's port
and peer up to the SEQs that follow its code, the direct path's first (19 R457, log entry 117). -/
def State.freeDrained (s : State) (f : Flit) : State :=
  match s.fab.retry.find? (fun r => r.out.flit.type == .drain && r.out.flit.tag == f.tag && r.dev == f.src), f.payload with
  | some m, _ :: a :: b :: c :: d :: _ =>
    let arrived (r : RetryFlit) : Bool := r.port == m.port && r.dev == m.dev &&
      seqUpTo (r.out.flit.seq + r.out.count - 1) (leValue (if r.out.flit.relay then [c, d] else [a, b]))
    { s with fab := { s.fab with retry := s.fab.retry.filter (fun (r : RetryFlit) => !arrived r) } }
  | _, _ => s

/-- ACK_FLIT: a write is performed at its home, and what its line held goes (R441); a multicast has an answer (R449). -/
def execAckFlit (f : Flit) (code : Byte) (s : State) : Out :=
  s.receives (.ack code) f (fun s0 =>
    let s := (((s0.poolLoad f).freeDrained f).freeRetry f).engineAnswer f code.toNat
    let lost := code.toNat = kPeer
    match s.fab.unacked.find? (fun u => u.id == f.tag) with
    | some u =>
      if u.bytes = [] ∧ code = 0#8 then .next s
      else
        let s1 := if code = 0#8 then s.performBytes u.owner u.bytes u.pages else s
        let s2 := match s1.op? u.id with | some o => s1.loseLoad o | none => s1
        .next ((s2.settleRemote u.id u.dev u.owner lost).afterRemote u.owner u.dev)
    | none =>
      let s1 := { s with ops := s.ops.map (answered f code.toNat) }
      match (s1.op? f.tag).map Op.kind with
      | some (.remoteLoad _ none _ _ dev _ _) =>
        if lost then
          (match s1.op? f.tag with
           | some o => .next ((s1.loseLoad o).afterRemote o.owner dev)
           | none => .next s1)
        else .next s1
      | _ => .next s1)

/-! ### Multicast at a receiver (R447, R449, R450) -/

/-- The write and the flag of a multicast packet at a receiver whose entry was `r` when the packet arrived, in one step; none while a
lookup is held (R449). -/
def State.deliverMcast (s : State) (r : GroupEntry) (f : Flit) (offset : Nat) : Option (Nat × State) :=
  let n := f.payload.length
  if r.valid = false ∨ r.owner ≠ f.iface ∨ offset + n > r.limit then some (kProtection, s)
  else
    match s.cpWrite r.owner (r.dest + BitVec.ofNat 64 offset) f.payload with
    | .error (.wait _) => none
    | .error (.fault x) => some (x.kind, s)
    | .ok t =>
      if r.flag = 0#64 then some (0, t)
      else
        match t.cpBinder r.owner r.flag with
        | .error (.wait _) => none
        | .error (.fault x) => some (x.kind, t)
        | .ok l => some (0, t.cpAdd l 1)

/-- A multicast packet, with the group entry that was read as it arrived: deliver, send the subtrees on, and acknowledge, for
unreachable children too (R447, R449). -/
def State.mcastArrives (s : State) (f : Flit) (tree : List Nat) (offset : Nat) (r : GroupEntry) : Out :=
  if unitDevice (tree.headD 0) ≠ s.pkg.device ∨ s.accepts f.src = false then .next s
  else if (childTrees tree).any (fun c => s.egressNoRoom (unitDevice (c.headD 0)) (flitCount f.payload)) = true ∨
      s.egressFull tree.length = true then .next (s.stall (.mcast tree offset r) f)
  else
    s.receives (.mcast tree offset r) f (fun s1 =>
      match s1.deliverMcast r f offset with
      | none => .next (s.stall (.mcast tree offset r) f)
      | some (code, s2) =>
        let (s3, early) := s2.sendChildren tree f.iface (f.ptr.toNat % 1024) offset f.tag f.src f.payload none
        let word (n : Nat) : Byte := BitVec.ofNat 8 n
        .next (early.foldl (fun s a => s.answer f .ack [word a.2, word a.1, word (a.1 / 256)]) (s3.acknowledge f code)))

/-- MCAST_FLIT: the receiver's entry is read as the packet arrives (R449). -/
def execMcastFlit (f : Flit) (tree : List Nat) (offset : Nat) (s : State) : Out :=
  s.mcastArrives f tree offset (s.group (f.ptr.toNat % 1024))

/-- The port takes flits: a dark port and one that relocks receive nothing (19 R456); a stopped one only sends nothing. -/
def State.receiving (s : State) (port : Nat) : Bool :=
  match s.port? port with
  | some c => c.state == .up || c.state == .stopped
  | none => false

/-- The last SEQ of a source that has arrived, of a list of them. -/
def lastArrived (l : List (Nat × Nat)) (src : Nat) : Nat :=
  match l.find? (fun r => r.1 == src) with
  | some r => r.2
  | none => 0

/-- DRAIN_FLIT: every flit up to the marker's SEQs that has arrived is acknowledged: the answer names the last of each path (19 R457,
log entry 117). -/
def execDrainFlit (f : Flit) (port : Nat) (s : State) : Out :=
  if s.receiving port then
    if s.accepts f.src ∧ s.egressFull 1 = true then .next (s.stall (.drain port) f)
    else s.receives (.drain port) f (fun s =>
      .next (s.answer f .ack (0#8 :: seqBytes (lastArrived s.fab.rxSeq f.src) ++ seqBytes (lastArrived s.fab.rxRelay f.src))))
  else .next s

/-- A boundary clock gives its time base on to the other peers that it faces, as far as the reserve has room (R445). -/
def State.sendTime (s : State) (src : Nat) : State :=
  ((List.range 16).filterMap s.faces).eraseDups.foldl
    (fun s d =>
      if d = src ∨ s.egressFull 1 then s
      else { s with fab := { s.fab with transit := s.fab.transit ++
        [{ flit := s.flit d .timeSync false (0, 0#64) (leBytes 8 s.time) 0, owner := none, mcast := none }] } }) s

/-- TIMESYNC_FLIT: TIME is slewed by at most 1 tick per 1,000 (R445). -/
def execTimesyncFlit (f : Flit) (slew : Int) (s : State) : Out :=
  s.receives (.timesync slew) f (fun s =>
    .next ({ s with fab := { s.fab with slew := if slew > 1 then 1 else if slew < -1 then -1 else slew, timeLocked := true } }.sendTime f.src))

/-- KEY_FLIT: flits after it use the next generation of the sender's direction (R436). -/
def execKeyFlit (f : Flit) (port : Nat) (s : State) : Out :=
  if s.receiving port then
    s.receives (.key port) f (fun s => .next (s.modPort port (fun c =>
      { c with rxKeys := c.rxKeys.map (fun k => if k.1 = f.src then (k.1, k.2 + 1) else k) })))
  else .next s

/-- FLIT_DISCARDED: a flit that fails its tag or has a reserved TYPE counts as a link error (R435). -/
def execFlitDiscarded (port : Nat) (_f : Flit) (s : State) : Out :=
  if s.receiving port then .next (s.modPort port (fun c => { c with linkErrors := c.linkErrors + 1 })) else .next s

/-- RELAY_TRANSIT: a flit for another device, with HOPS as its senders counted them, waits in the reserve; a full reserve
leaves it with its sender (R439). -/
def execRelayTransit (f : Flit) (s : State) : Out :=
  if f.dst = s.pkg.device ∨ s.relayLoad ≥ s.transitFlits then .next s
  else
    s.arrives f (fun s => .next { s with fab := { s.fab with
      transit := s.fab.transit ++ [{ flit := f, owner := none, mcast := none }] } })

/-- The step of a flit. -/
def State.flitStep (e : EarlyFlit) (s : State) : Out :=
  match e.step with
  | .write => execWriteFlit e.flit s
  | .read => execReadFlit e.flit s
  | .readresp => execReadrespFlit e.flit s
  | .atomresp => execAtomrespFlit e.flit s
  | .atomic op size => execAtomicFlit e.flit op size s
  | .ack code => execAckFlit e.flit code s
  | .mcast tree offset r => s.mcastArrives e.flit tree offset r
  | .drain port => execDrainFlit e.flit port s
  | .timesync slew => execTimesyncFlit e.flit slew s
  | .key port => execKeyFlit e.flit port s

/-- The first flit of a source that waits is taken up again; one that must still wait keeps its place (R444). -/
def State.retryStalled (s : State) (src : Nat) : Out :=
  match s.fab.stalled.find? (fun e => e.flit.src == src) with
  | none => .next s
  | some e =>
    let rest := s.fab.stalled.erase e
    match State.flitStep e { s with fab := { s.fab with stalled := [] } } with
    | .next t => .next { t with fab := { t.fab with stalled := t.fab.stalled ++ rest } }
    | o => o

/-! ### Time and peers (R445, 19 R463, R464) -/

/-- TIME_BASE_LOST: TIME runs free (R445). -/
def execTimeBaseLost (s : State) : Out := .next { s with fab := { s.fab with slew := 0, timeLocked := false } }

/-- A peer is silent (19 R463). -/
def State.silent (s : State) (dev : Nat) : Bool :=
  dev != s.pkg.device && s.fab.reach.contains dev &&
    (match s.fab.lastHeard.find? (fun r => r.1 == dev) with
     | some r => r.2 + 1000000 ≤ s.time
     | none => 1000000 ≤ s.time) &&
    s.fab.ports.toList.any (fun c => c.litWhole.any (fun w => w.1 == dev && s.time ≤ w.2 + 1000000))

/-- The registers and the binder of one interface at a new suspicion; none while a lookup is held (19 R464). -/
def State.noteLost (s : State) (iface dev : Nat) : Option State :=
  let last := (BitVec.ofNat 64 s.time).extractLsb' 12 52 ++ BitVec.ofNat 12 dev
  let count := min ((s.reg iface rLostCount).toNat + 1) 0xFFFFFFFF
  let s1 := (s.setReg iface rLostLast last).setReg iface rLostCount (BitVec.ofNat 64 count)
  let p := s.reg iface rLostNotify
  if p = 0#64 ∨ (s.ifc iface).exist = false then some s1
  else
    match s1.cpBinder iface p with
    | .ok l => some (s1.cpAdd l 1)
    | .error (.fault _) => some s1
    | .error (.wait _) => none

/-- PEER_SUSPECT: a reachable peer that is silent becomes suspect (19 R463, R464). -/
def execPeerSuspect (dev : Nat) (s : State) : Out :=
  if s.silent dev = false ∨ s.fab.suspects.contains dev = true then .next s
  else
    let s1 := { s with fab := { s.fab with suspects := s.fab.suspects ++ [dev] } }
    match (List.range 64).foldlM (fun t i => t.noteLost i dev) s1 with
    | some t => .next t
    | none => .next s

/-! ### The group table (R446, R447) -/

/-- Units form exactly one tree, with no device twice. -/
def oneTree (tree : List Nat) : Bool :=
  let r := takeTrees (tree.length + 1) 1 tree
  r.1 == tree && r.2.isEmpty && ((tree.map unitDevice).eraseDups).length == tree.length &&
    (tree.map (fun u => unitChildren u)).sum + 1 == tree.length

/-- GROUP_TABLE_WRITE: the firmware refuses units that are no tree, and an entry holds units of 16 bits and a limit of 32 (R446,
R447). -/
def execGroupTableWrite (index : Nat) (e : GroupEntry) (s : State) : Out :=
  if index ≥ 1024 ∨ e.owner ≥ 64 ∨ e.limit ≥ 2 ^ 32 ∨ e.tree.any (fun u => u ≥ 65536) = true ∨ (e.valid = true ∧ (e.tree.length > 112 ∨ oneTree e.tree = false)) then .next s
  else .next { s with fab := { s.fab with groups := s.fab.groups.filter (fun (g : Nat × GroupEntry) => g.1 != index) ++ [(index, e)] } }

end Sys2Proof.Machine
end

