-- ==== Sys2Proof/Machine/Reconfig.lean ====
section
/-! DEFINITION. Reconfiguring the Roller: staging and ARM (19 R454, R455), from T to the new calendar (R456 to R459, R466), and what
becomes of unreachable peers (R460 to R462). The staged registers are those of interface 64, which no MMIO landing has (log
entry 28). -/

namespace Sys2Proof.Machine

/-! ### Staged registers (R454) -/

/-- The command processor's private register space. -/
def State.priv (s : State) (off : Nat) : DWord := s.reg 64 off

def rRcTime : Nat := 0x0
def rRcCtl : Nat := 0x8
def rRcStat : Nat := 0x10

def State.stagedLen (s : State) (p : Nat) : Nat := (s.priv (0x20 + 8 * p)).toNat

def State.stagedReach (s : State) (d : Nat) : Bool := (s.priv (0x400 + 8 * (d / 64))).getLsbD (d % 64)

def State.stagedEntry (s : State) (p i : Nat) : Word :=
  (s.priv (0x1000 + 0x400 * p + 8 * (i / 2))).extractLsb' (32 * (i % 2)) 32

def State.stagedRelay (s : State) (d : Nat) : BitVec 16 := (s.priv (0x5000 + 8 * (d / 4))).extractLsb' (16 * (d % 4)) 16

/-! ### ARM and CANCEL (R455, R466) -/

/-- A staged entry that ARM refuses: a reserved bit, or a LIT entry of another port (R455). -/
def stagedBad (p : Nat) (e : Word) : Bool :=
  e.extractLsb' 17 15 != 0#15 || (e.getLsbD 16 && (e.extractLsb' 0 4).toNat != p)

/-- The FIELD refusals of ARM (R455, R466). -/
def State.armField (s : State) (v : DWord) : Bool :=
  let dark := (v.extractLsb' 24 8).toNat
  let cols := (v.extractLsb' 20 4).toNat
  let ports := bitsOf (v.extractLsb' 32 16)
  v.extractLsb' 48 16 != 0#16 || v.extractLsb' 17 3 != 0#3 || v.extractLsb' 2 14 != 0#14 ||
    (s.priv rRcTime).toNat % 4096 != 0 || dark == 0 || dark > 64 ||
    (cols != 0 && (cols % 2 == 1 || cols < 4 || cols > 12)) || (v.getLsbD 16 && cols == 0) ||
    ports.any (fun p => s.stagedLen p == 0 || s.stagedLen p > 256 ||
      (List.range (min 256 (s.stagedLen p))).any (fun i => stagedBad p (s.stagedEntry p i))) ||
    !s.stagedReach s.pkg.device

def State.setRcStat (s : State) (c : Byte) : Out := .next { s with rc := { s.rc with stat := c } }

/-- RCCTL_ARM: a write of RCCTL with OP 1 (R455). A reconfiguration under way is not disturbed by BUSY (log entry 29). -/
def execRcctlArm (v : DWord) (s0 : State) : Out :=
  let s := s0.setReg 64 rRcCtl v
  let t := (s.priv rRcTime).toNat
  if s.rc.phase ≠ .idle then s.setRcStat 0x12#8
  else if s.armField v then s.setRcStat 0x10#8
  else if t < s.time + 1000000 then s.setRcStat 0x11#8
  else
    .next { s with rc :=
      { t := t, portMask := v.extractLsb' 32 16, darkSlots := (v.extractLsb' 24 8).toNat, txCols := (v.extractLsb' 20 4).toNat,
        splitOnly := v.getLsbD 16, stat := 0x01#8, phase := .armed, taken := false, switched := 0#16 } }

/-- RCCTL_CANCEL: heeded while ARMED and TIME < T - 65,536 (R455). -/
def execRcctlCancel (s : State) : Out :=
  if s.rc.phase = .armed ∧ s.time + 65536 < s.rc.t then .next { s with rc := { s.rc with phase := .idle, stat := 0#8 } }
  else .next s

/-! ### The phases (R456) -/

/-- RCSTAT of a phase (R454). -/
def RcPhase.code (p : RcPhase) : Byte :=
  match p with
  | .idle => 0x00#8
  | .armed => 0x01#8
  | .draining => 0x02#8
  | .dark => 0x03#8
  | .relocking => 0x04#8

/-- The phase that the ports of PORTMASK show: IDLE once each has passed its boundary and is UP or DOWN (R456). -/
def State.settlePhase (s : State) : State :=
  let mine := (bitsOf s.rc.portMask).filterMap s.port?
  let go (p : RcPhase) : State := { s with rc := { s.rc with phase := p, stat := p.code } }
  if s.rc.phase = .idle then s
  else if mine.any (fun c => c.state == .dark) then go .dark
  else if mine.any (fun c => c.state == .relock) then go .relocking
  else if s.rc.taken ∧ s.rc.portMask &&& ~~~ s.rc.switched = 0#16 then go .idle
  else s

/-! ### T (R456, R460 to R462) -/

/-- What the fabric holds for peers that are not reachable any more (R461). -/
def State.dropTraffic (s : State) (gone : Nat → Bool) : State :=
  { s with fab := { s.fab with
    egress := s.fab.egress.filter (fun (o : OutFlit) => !gone o.flit.dst)
    transit := s.fab.transit.filter (fun (o : OutFlit) => !gone o.flit.dst)
    retry := s.fab.retry.filter (fun (r : RetryFlit) => !gone r.dev && !gone r.out.flit.dst)
    coalesced := s.fab.coalesced.filter (fun (h : Held) => !gone h.dev)
    suspects := s.fab.suspects.filter (fun d => !gone d) } }

/-- Unacknowledged writes and atomics, and outstanding remote loads (R461, 10 R484). -/
def State.dropRemote (s : State) (gone : Nat → Bool) : State :=
  let s1 := (s.fab.unacked.filter (fun u => gone u.dev)).foldl (fun s u => s.settleRemote u.id u.dev u.owner true) s
  (s1.ops.filter (fun o => match o.kind with
    | .remoteLoad _ _ _ _ dev _ _ => gone dev
    | _ => false)).foldl State.loseLoad s1

/-- Multicasts that wait for such a peer end with 0x30 (R461, 18 R449). -/
def State.dropMcasts (s : State) (gone : Nat → Bool) : State :=
  (s.ops.filter (fun o => match o.kind with
    | .mcast _ _ _ _ tree _ answers _ => (tree.drop 1).any (fun u =>
        gone (unitDevice u) && !answers.any (fun a => a.1 == unitDevice u))
    | _ => false)).foldl (fun s o => s.endOp o (BitVec.ofNat 32 kPeer)) s

/-- The pointers at which an operation reads and writes: the base of a tile of T6 elements stands for it. -/
def OpKind.pointers (k : OpKind) : List DWord :=
  let all (r : ShapeRec) : List DWord := (indices (r.clip 0) (r.clip 1) (r.clip 2)).map r.addr
  match k with
  | .copy src dst _ flag => (commonClip src dst).map src.addr ++ (commonClip src dst).map dst.addr ++
      (match flag with | .noFlag => [] | .sem p _ | .word p _ => [p])
  | .publish p => [p]
  | .mls _ _ r | .mst _ _ _ _ _ r _ | .mred _ _ _ _ _ r _ | .mdr _ _ _ _ _ r _ | .drained _ _ _ _ _ r => all r
  | .dcnt d a | .dplan d a _ | .dscat d a | .dgath d a _ | .dstat d a _ _ _ => [a, d.ctx, d.part, d.emap, d.route, d.rows, d.out]
  | .msw _ | .mza _ _ | .ldx _ _ _ | .mcast _ _ _ _ _ _ _ _ | .rack _ | .peerq _ _ | .value _ _ | .twin _
  | .remoteLoad _ _ _ _ _ _ _ | .localLoad _ _ _ _ => []

/-- The operation reads or writes at a device that is not reachable (R461): a pointer of it lands there, or a participant of its dispatch
group is there. -/
def State.meetsGone (s : State) (gone : Nat → Bool) (o : Op) : Bool :=
  let lost (p : DWord) : Bool :=
    match s.translate (s.opRequest o { r := false, w := false, x := false, a := false, s := false } 1) p with
    | .error (.fault k _ _ _ _) => k == kPeer
    | .error (.wait _) | .ok _ => false
  let parts : List Nat := match o.kind with
    | .dcnt d _ | .dplan d _ _ | .dscat d _ | .dgath d _ _ =>
      (List.range d.npart).filterMap (fun i => match readPart o d i s with
        | .ok q _ => some q.dev
        | .error _ _ => none)
    | _ => []
  parts.any gone || o.kind.pointers.any lost

/-- An operation ends at T with 0x30 (R461). One of an array that has no token keeps it as the error of what it fills (12 R332). -/
def State.cutOp (s : State) (o : Op) : State :=
  let e := errOf kPeer
  match o.kind with
  | .mls a f _ =>
    let arr := s.arrayOf o a
    (s.setArray o a { arr with shadow := { arr.shadow with fmt := f, err := e } }).endOp o e.token
  | .mst a c _ _ _ _ _ | .mred a c _ _ _ _ _ =>
    let arr := s.arrayOf o a
    (s.setArray o a (arr.setAcc c ((arr.accs[c]).note e))).endOp o e.token
  | _ => s.endOp o e.token

/-- Engine operations under way that reach such a peer end in the step at T, with what they had sent (R461). -/
def State.dropEngines (s : State) (gone : Nat → Bool) : State :=
  let mine (s : State) (o : Op) : Bool :=
    if o.settle.isSome then s.fab.engine.any (fun e => e.op == o.id && gone e.flit.dst && e.code.isNone)
    else s.fab.engine.any (fun e => e.op == o.id && gone e.flit.dst) || s.meetsGone gone o
  (s.ops.filter (mine s)).foldl
    (fun s o => ({ s with fab := { s.fab with engine := s.fab.engine.filter (fun (e : EngineOut) => e.op != o.id) } }).cutOp o) s

/-- Stores of Plumb copies to such a peer that no comparison has followed are discarded (R461). -/
def State.dropBuffered (s : State) (gone : Nat → Bool) : State :=
  { s with wq := s.wq.filterMap (fun (w : PendWrite) => match w.kind with
    | .bytes bs pages owner route =>
      let rest := bs.filter (fun b => match b.1.remote with | some d => !gone d | none => true)
      if rest.isEmpty && !bs.isEmpty then none else some { w with kind := .bytes rest pages owner route }
    | .elem g _ _ _ _ _ => if g.any (fun p => match p.remote with | some d => gone d | none => false) then none else some w
    | .seal _ _ far => (match far with
      | some (d, _, _) => if gone d then none else some w
      | none => some w)) }

/-- The gangs whose buffered stores are discarded learn of it through RACK or REL (R461, 10 R484). -/
def State.noteBuffered (s : State) (gone : Nat → Bool) : State :=
  s.wq.foldl
    (fun s w => ((w.places.filterMap Place.remote).filter gone).eraseDups.foldl
      (fun s d => ({ s with nextId := s.nextId + 1 }).modGang w.owner (fun g => { g with discarded := g.discarded ++ [({ id := s.nextId, dev := d } : RemoteOp)] })) s) s

/-- Everything held for peers that are not reachable any more is settled (R461). -/
def State.isolate (s : State) (gone : Nat → Bool) : State :=
  let s1 := (((((s.dropTraffic gone).noteBuffered gone).dropBuffered gone).dropRemote gone).dropMcasts gone).dropEngines gone
  (((s1.modGangs (fun _ => true) (cutBy gone)).modGangs (fun _ => true) wakeEgress).wakeBoards).settleDrains

/-- A peer that is reachable again: no session, no allowance, empty queues, and the commits that it had still to apply (R461, R462). -/
def State.rejoin (s : State) (d : Nat) : State :=
  let dropKeys (c : Port) : Port :=
    { c with keys := c.keys.filter (fun k => k.1 != d), rxKeys := c.rxKeys.filter (fun k => k.1 != d) }
  let s0 := (s.dropTraffic (fun e => e == d)).dropRemote (fun e => e == d)
  let s1 := (List.range 16).foldl (fun s p => s.modPort p dropKeys) s0
  let mine := s1.fab.late.filter (fun x => x.1 == d)
  let s2 := mine.foldl (fun s x => s.markConflicts noGang x.2.1) s1
  { s2 with fab := { s2.fab with
    late := s2.fab.late.filter (fun (x : Nat × List Nat × List Host.Cell) => x.1 != d)
    lastHeard := s2.fab.lastHeard.filter (fun (r : Nat × Nat) => r.1 != d) ++ [(d, s2.time)] } }

/-- The staged reach set and relay table are taken in one step, and everything held for peers left outside is settled in it
(R456, R461). -/
def State.takeReach (s : State) : State :=
  let reach := (List.range 4096).filter s.stagedReach
  let relay := (List.range 4096).filterMap (fun d => if s.stagedRelay d = 0#16 then none else some (d, s.stagedRelay d))
  let gone (d : Nat) : Bool := s.fab.reach.contains d && !reach.contains d
  let back := reach.filter (fun d => !s.fab.reach.contains d)
  let s1 := { s with fab := { s.fab with reach := reach, relay := relay } }
  (back.foldl State.rejoin s1).isolate gone

/-- RECONFIGURATION_T (R456, R461). A change of the split alone takes nothing (R466). -/
def execReconfigurationT (s : State) : Out :=
  if s.rc.phase = .idle ∨ s.rc.taken = true ∨ s.time < s.rc.t then .next s
  else
    let s1 := if s.rc.splitOnly then s else s.takeReach
    .next ({ s1 with rc := { s1.rc with taken := true } }.settlePhase)

/-! ### The ports (R456, R459, R466) -/

/-- B_p (R456). -/
def State.boundary (s : State) (p : Nat) : Nat := s.rc.t + 256 * p

/-- The staged calendar of a port. -/
def State.stagedCalendar (s : State) (p : Nat) : List Word := (List.range (min 256 (s.stagedLen p))).map (s.stagedEntry p)

/-- SWITCH_BOUNDARY: the port goes DARK with its staged calendar, or to RELOCK for a split change (R456, R466). Flits of its retry buffer
that are not acknowledged are sent again in the next circuit to their peers, ahead of newer ones (R457). -/
def execSwitchBoundary (port : Nat) (s : State) : Out :=
  if s.rc.phase = .idle ∨ s.rc.taken = false ∨ s.rc.portMask.getLsbD port = false ∨ s.rc.switched.getLsbD port = true ∨
      s.time < s.boundary port then .next s
  else
    let cal := s.stagedCalendar port
    let s1 := s.modPort port (fun c =>
      if s.rc.splitOnly then { c with state := .relock }
      else { c with state := .dark, calendar := cal, circuit := none })
    let s2 := if s.rc.splitOnly then s1 else s1.resend (s1.fab.retry.filter (fun r => r.port == port && r.out.flit.type != .drain))
    .next ({ s2 with
      rc := { s2.rc with switched := s2.rc.switched ||| maskFrom 16 [port] }
      fab := { s2.fab with
        drained := s2.fab.drained.filter (fun (d : Nat × Nat) => d.1 != port)
        retry := s2.fab.retry.filter (fun (r : RetryFlit) => s.rc.splitOnly || r.port != port) } }.settlePhase)

/-- When the DARK interval of a port ends (R456). -/
def State.darkUntil (s : State) (p : Nat) : Nat := s.boundary p + 4096 * s.rc.darkSlots

/-- DARK_END (R456, R459). -/
def execDarkEnd (port : Nat) (s : State) : Out :=
  match s.port? port with
  | none => .next s
  | some c =>
    if c.state = .dark ∧ s.darkUntil port ≤ s.time then .next ((s.modPort port (fun c => { c with state := .relock })).settlePhase)
    else .next s

/-- The last TIME at which the port may relock (R459, R466). -/
def State.relockBy (s : State) (p : Nat) : Nat := if s.rc.splitOnly then s.boundary p + 60000 else s.darkUntil p + 200000

/-- RELOCK_COMPLETE: every colour is tuned, one lost on the way by its own relock (R467), the split applied, the keys held (R459). A
peer without a session secret has its exchange in its first circuit slot (SLOT_GUARD); a port whose counter is at its end stays
stopped until its rekey (R467, 18 R436). -/
def execRelockComplete (port : Nat) (s : State) : Out :=
  match s.port? port with
  | none => .next s
  | some c =>
    if c.state = .relock ∧ c.lost = [] ∧ s.time ≤ s.relockBy port then
      .next ((s.modPort port (fun c =>
        { c with
          state := if c.exhausted then .stopped else .up
          lit := 0xFFFF#16
          circuit := none
          tx := if s.rc.txCols = 0 then c.tx else s.rc.txCols })).settlePhase)
    else .next s

/-- RELOCK_TIMEOUT: the port goes DOWN (R459). -/
def execRelockTimeout (port : Nat) (s : State) : Out :=
  match s.port? port with
  | none => .next s
  | some c =>
    if c.state = .relock ∧ s.relockBy port < s.time then .next ((s.modPort port (fun c => { c with state := .down })).settlePhase)
    else .next s

end Sys2Proof.Machine
end

