-- ==== Sys2Proof/Machine/Power.lean ====
section
/-! DEFINITION. Package reset and boot (20 R468, R469, 17 R421), power states (R470, R471), power capping and thermal limits (R472
to R474), the debugger's halt and run (R477, R478), and stores to registers (08 R483). -/

namespace Sys2Proof.Machine

/-! ### Boot (R468, R469, 17 R421) -/

/-- The TDP of an ordering code (00 R2). -/
def tdp (ordering : Nat) : Nat := if ordering = 2 then 3600 else 3300

/-- The protocol revisions that a die's root supports: 1 where none is given (17 R420). -/
def dieRevs (b : BootInfo) (d : Nat) : List Nat :=
  match (b.revs.getD d []).filter (fun r => 1 ≤ r && r < 65536) with
  | [] => [1]
  | r => r

/-- The revision of a link: the highest that both ends support, and 0 where they have none in common (17 R420, R421). -/
def linkRevision (b : BootInfo) (k : Nat) : Nat :=
  ((dieRevs b (linkEnds k).1).filter (dieRevs b (linkEnds k).2).contains).foldl max 0

/-- The revisions of links, packed as LINKREV (17 R420). -/
def packRevs (b : BootInfo) (up : BitVec 4) : Nat :=
  (List.range 4).foldl (fun a k => if up.getLsbD k then a + linkRevision b k * 2 ^ (16 * k) else a) 0

/-- The package after boot: the authenticated group, its lead and its links, and what trained (R468, 17 R421). Boot fails when no die
completes ROM or the lead cannot build its tables. -/
def bootPackage (b : BootInfo) : Package :=
  let up := maskFrom 4 ((List.range 4).filter (fun k =>
    b.linkOk.getLsbD k && b.dieOk.getLsbD (linkEnds k).1 && b.dieOk.getLsbD (linkEnds k).2 && linkRevision b k != 0))
  let group := survivors b.dieOk up none
  let mine := maskFrom 4 ((List.range 4).filter (fun k => up.getLsbD k && group.contains (linkEnds k).1 && group.contains (linkEnds k).2))
  { Package.reset with
    boot := if group = [] ∨ b.tables = false then 0xFF else 0x80
    dieMask := maskFrom 4 group, linkUp := mine, linkRev := packRevs b mine, lead := group.headD 0, hbmStacks := b.hbmStacks
    ordering := b.ordering, device := b.device, coresPerDie := min 160 b.cores }

/-- A port after boot, with the sessions that it keyed (18 R432, R436). -/
def bootPort (b : BootInfo) (p : Nat) : Port :=
  if b.ports.getLsbD p then
    let peers := ((b.sessions.filter (fun x => x.1 == p)).map Prod.snd).eraseDups
    { Port.reset with
      state := .up, lit := 0xFFFF#16, keys := peers.map (fun d => (d, 1, 0)), rxKeys := peers.map (fun d => (d, 1)) }
  else .reset

/-- The fabric after boot; a package whose boot failed does not appear on it (R468). -/
def bootFabric (b : BootInfo) : Fabric :=
  let cap := if b.egressCap = 0 then 4194304 else b.egressCap
  if (bootPackage b).boot = 0x80 then
    { Fabric.reset with
      ports := Vector.ofFn (fun (p : Fin 16) => bootPort b p.val)
      reach := [b.device]
      egressCap := cap
      timeLocked := true }
  else { Fabric.reset with egressCap := cap }

/-- The blocks of signing indices that boot takes: each root that runs takes one of its die's key and one of the device's, while the
key's 2^24 last (17 R423). -/
def takeBlocks (b : BootInfo) (blocks : List Nat) : List Nat :=
  let n := ((List.range 4).filter (fun d => b.dieOk.getLsbD d)).length
  (List.range 5).map (fun k =>
    min (2 ^ 24) (blocks.getD k 0 + (if k = 4 then n else if b.dieOk.getLsbD k then 1 else 0)))

/-- What fails its verification does not come up (17 R421). -/
def verified (b : BootInfo) : BootInfo :=
  { b with dieOk := b.dieOk &&& ~~~ b.badDies, linkOk := b.linkOk &&& ~~~ b.badLinks }

/-- Authentication failures of a boot in the error log (R476, log entry 128). -/
def State.logBoot (s : State) (b : BootInfo) : State :=
  (bitsOf b.badLinks).foldl (fun s k => s.logEvent 0x55 (linkEnds k).1 k) ((bitsOf b.badDies).foldl (fun s d => s.logEvent 0x55 d d) s)

/-- PACKAGE_RESET: a full boot (R468). Package NVM survives (R470); TIME is that of the system's time base (18 R445). -/
def execPackageReset (boot : BootInfo) (s : State) : Out :=
  let b := verified boot
  .next (State.logBoot (b := boot) { State.reset with
    pkg := bootPackage b
    fab := bootFabric b
    pw := { Power.reset with capw := tdp b.ordering, idleSince := b.time, lastWindow := b.time }
    nvm := { s.nvm with keyBlocks := takeBlocks b s.nvm.keyBlocks }
    time := b.time
    agenda := s.agenda
    nextId := s.nextId
    freeCtr := s.freeCtr })

/-! ### Power states (R470, R471) -/

/-- Without package power only package NVM is kept (R470); what the environment still does, and the model's own counters, go on. -/
def State.powerOff (s : State) : State :=
  { State.reset with
    pw := { Power.reset with pstate := .off }
    nvm := s.nvm
    agenda := s.agenda
    nextId := s.nextId
    freeCtr := s.freeCtr }

/-- PACKAGE_POWER_LOSS (R470). -/
def execPackagePowerLoss (s : State) : Out := .next s.powerOff

/-- No crew is placed and every queue is empty (R470). -/
def State.isIdle (s : State) : Bool :=
  s.crews.all (fun c => !c.site.isResident) && s.queues.all (fun q => !q.2.enable || q.2.head == q.2.tail)

/-- IDLE_ENTRY: after 1,000,000 such ticks (R470). -/
def execIdleEntry (s : State) : Out :=
  if s.pw.pstate = .active ∧ s.pkg.boot = 0x80 ∧ s.isIdle = true ∧ s.pw.idleSince + 1000000 ≤ s.time then
    .next { s with pw := { s.pw with pstate := .idle, woken := false } }
  else .next s

/-- PARKED_REQUEST: accepted only in IDLE (R470). -/
def execParkedRequest (s : State) : Out :=
  if s.pw.pstate = .idle then .next { s with pw := { s.pw with pstate := .parked } } else .next s

/-- ACTIVE_WAKE: a doorbell store or an admission has woken the device (R470, R471). -/
def execActiveWake (s : State) : Out :=
  if (s.pw.pstate = .idle ∨ s.pw.pstate = .parked) ∧ s.pw.woken = true then
    .next { s with pw := { s.pw with pstate := .active, idleSince := s.time, woken := false } }
  else .next s

/-! ### Power and temperature (R472 to R474) -/

/-- The clock is held by temperature. -/
def Power.hot (p : Power) : Bool := p.holdDie != 0#4 || p.holdHbm != 0#4

/-- POWER_CAP_WINDOW, every 1 ms (R472): a step taken for temperature is not undone (R474). -/
def execPowerCapWindow (watts : Nat) (s : State) : Out :=
  let p := { s.pw with watts := watts, lastWindow := s.time }
  let clock :=
    if watts > p.capw then max 16 (p.clock - 1)
    else if 100 * watts < 97 * p.capw ∧ p.hot = false then min 64 (p.clock + 1)
    else p.clock
  let held := if watts > p.capw then true else if clock = 64 then false else p.holdCap
  if s.time < s.pw.lastWindow + 1000000 then .next s else .next { s with pw := { p with clock := clock, holdCap := held } }

/-- Thresholds in °C: the hold and the trip (R474). -/
def hotAt (hbm : Bool) : Nat := if hbm then 95 else 100
def tripAt (hbm : Bool) : Nat := if hbm then 105 else 110

/-- A reading, as THERM shows it (R475). -/
def Power.read (p : Power) (die : Nat) (hbm : Bool) (reading : Nat) : Power :=
  if h : die < 4 then
    if hbm then { p with hbmTemp := p.hbmTemp.set die (BitVec.ofNat 8 (min 255 reading)) h }
    else { p with junction := p.junction.set die (BitVec.ofNat 8 (min 255 reading)) h }
  else p

def Power.hold (p : Power) (die : Nat) (hbm : Bool) : Power :=
  if hbm then { p with holdHbm := p.holdHbm ||| maskFrom 4 [die], refresh2x := p.refresh2x ||| maskFrom 4 [die] }
  else { p with holdDie := p.holdDie ||| maskFrom 4 [die] }

def Power.release (p : Power) (die : Nat) (hbm : Bool) : Power :=
  if hbm then { p with holdHbm := p.holdHbm &&& ~~~ (maskFrom 4 [die]), refresh2x := p.refresh2x &&& ~~~ (maskFrom 4 [die]) }
  else { p with holdDie := p.holdDie &&& ~~~ (maskFrom 4 [die]) }

/-- THERMAL_STEP_DOWN: one step of 25 MHz every 100,000 ticks while a reading is at its threshold or above (R474). -/
def execThermalStepDown (die : Nat) (hbm : Bool) (reading : Nat) (s : State) : Out :=
  let p := s.pw.read die hbm reading
  if reading < hotAt hbm then .next { s with pw := p }
  else if p.hot = true ∧ s.time < p.lastStep + 100000 then .next { s with pw := p.hold die hbm }
  else .next { s with pw := { p.hold die hbm with clock := max 16 (p.clock - 1), lastStep := s.time } }

/-- THERMAL_RELEASE: the reading is 5 °C below the threshold (R474). -/
def execThermalRelease (die : Nat) (hbm : Bool) (reading : Nat) (s : State) : Out :=
  let p := s.pw.read die hbm reading
  .next { s with pw := if reading + 5 ≤ hotAt hbm then p.release die hbm else p }

/-- THERMTRIP: logged when the root can, then power is removed (R474, R476). The unit is 0 for the die and 1 + k for its stack k, which
the reading does not tell (log entry 128). -/
def execThermtrip (die : Nat) (hbm : Bool) (reading : Nat) (s : State) : Out :=
  if reading < tripAt hbm then .next { s with pw := s.pw.read die hbm reading }
  else
    let (n, s1) := s.free
    .next (if Config.choice n then s1.logEvent 0x54 die (if hbm then 1 + (Config.reading n).toNat % 4 else 0) else s1).powerOff

/-! ### Debugger (R477, R478) -/

/-- The launch of an interface that a LID names. -/
def State.ofLid (s : State) (iface : Nat) (lid : Word) : Option Launch :=
  s.launches.find? (fun l => l.iface == iface && l.seq % 2 ^ 32 == lid.toNat)

/-- Where a saved context holds the GSTATUS of each of its gangs: word numbers that the manual does not give, with the word (R50, 15
R390). -/
def State.statusWords (s : State) (c : CrewRef) (k n : Nat) : List (Nat × Word) :=
  (s.allGangs.filter (fun h => h.ref.crewRef == c)).map (fun h =>
    ((Config.reading (k * 2 ^ 8 + h.ref.gang)).toNat % (n / 4), h.savedGstatus))

/-- Write `n` bytes of a crew's saved context in pieces of 256 at a pointer. The layout is not given, so the bytes other than those of
GSTATUS are free values, and so is its place (log entry 30); a refused piece ends it. -/
def State.writeContext (s : State) (iface : Nat) (c : CrewRef) (p : DWord) (n : Nat) : State :=
  let (k, s1) := s.free
  let known := s.statusWords c k n
  let byte (i : Nat) : Byte := match known.find? (fun w => w.1 == i / 4) with
    | some w => w.2.extractLsb' (8 * (i % 4)) 8
    | none => Config.freeByte (k * 2 ^ 40 + i)
  (List.range ((n + 255) / 256)).foldl
    (fun s i =>
      let bs := (List.range (min 256 (n - 256 * i))).map (fun j => byte (256 * i + j))
      match s.cpWrite iface (p + BitVec.ofNat 64 (256 * i)) bs with
      | .ok t => t
      | .error _ => s) s1

/-- Crews whose context a halt writes, in crew order; under Plumb only the primary's (R477, R478). -/
def State.haltedCrews (s : State) (launch : Nat) : List Crew :=
  let mine := s.crews.filter (fun c => c.ref.launch == launch && !c.ref.twin && (match c.site with
    | .resident _ _ | .saved _ _ => true
    | .unplaced | .ended => false))
  let n := mine.foldl (fun m c => max m (c.ref.crew + 1)) 0
  (List.range n).filterMap (fun i => mine.find? (fun c => c.ref.crew == i))

/-- A gang that waits to issue again is halted at once; one that is ready stops at its next switch point, one that waits inside its
instruction as before a save, and a parked one or a wait of its own is taken as it stands (R391, R478). -/
def haltGang (h : Gang) : Gang :=
  match h.sch.run with
  | .board _ | .egress | .savedScratch | .arrays | .compare => { h with sch := { h.sch with run := .stopped } }
  | .ready | .hazard _ | .drain _ | .release _ | .band _ _ | .wait _ _ _ | .acq _ _ _ _ | .parked _ | .sieve _ _ _ | .noLive _
  | .quiesce | .sealing _ _ | .commit _ | .stopped | .ended | .killed => h

/-- Every crew of a halted launch has stopped, and its operations are complete (R391, R477). -/
def State.haltDone (s : State) (launch : Nat) : Bool :=
  s.crews.all (fun c => c.ref.launch != launch || !c.site.isResident || (s.crewStopped c.ref && s.crewQuiet c.ref))

/-- The contexts of a halted launch are written in crew order, once its crews have stopped (R391, R477). What the coalescers hold of it
is sent first. -/
def State.haltWrite (s0 : State) (launch : Nat) : State :=
  let s := s0.sendHeld (fun h => h.owner.launch == launch)
  match s.launch? launch with
  | none => s
  | some l =>
    match l.dump with
    | none => s
    | some p =>
      if s.haltDone launch = false then s
      else
        ((s.haltedCrews launch).foldl
          (fun (acc : DWord × State) c =>
            let n := contextBytes l.packet c.usedMatrix
            (acc.1 + BitVec.ofNat 64 n, acc.2.writeContext l.iface c.ref acc.1 n))
          (p, s.modLaunch launch (fun l => { l with dump := none }))).2

/-- DBGCTL HALT (R477). -/
def execDbgctlHalt (iface : Nat) (lid : Word) (s : State) : Out :=
  match s.ofLid iface lid with
  | none => .next s
  | some l =>
    if l.halted then .next s
    else
      let p := s.reg iface rDbgCtx
      let dump := if p.extractLsb' 0 8 = 0#8 then some p else none
      .next (((s.modLaunch l.seq (fun l => { l with halted := true, dump := dump })).modGangs
        (fun h => h.ref.launch == l.seq) haltGang).haltWrite l.seq)

/-- The crew is being saved or flushed, so its gangs stay stopped. -/
def State.leaving (s : State) (r : CrewRef) : Bool :=
  match s.crew? r with
  | some c => (match c.preempt with | .save | .flush => true | .no | .drain _ => !c.site.isResident)
  | none => true

/-- DBGCTL RUN (R477): gangs of a crew that was saved go on once it is placed again (R478). A context that the halt has not written yet is
not written (log entry 30). -/
def execDbgctlRun (iface : Nat) (lid : Word) (s : State) : Out :=
  match s.ofLid iface lid with
  | none => .next s
  | some l =>
    let s1 := s.modLaunch l.seq (fun l => { l with halted := false, dump := none })
    .next (s1.modGangs (fun h => h.ref.launch == l.seq && !s1.leaving h.ref.crewRef) goOn)

/-! ### Stores to registers (08 R483) -/

/-- The state after a step that only changes it. -/
def afterStep (s : State) (o : Out) : State :=
  match o with
  | .next t => t
  | .fault _ | .refused _ => s

/-- Replace the status byte of a command port. -/
def State.portStat (s : State) (iface off : Nat) (c : DWord) : State := s.setReg iface off c

/-- A store to the private space of the command processor: the staged registers, RCCTL and CAPW (19 R454, 20 R472, log
entry 28). -/
def State.storePrivate (s : State) (off : Nat) (v : DWord) : State :=
  if off = rRcCtl then
    (if v.extractLsb' 0 2 = 1#2 then afterStep s (execRcctlArm v s)
     else if v.extractLsb' 0 2 = 2#2 then afterStep s (execRcctlCancel (s.setReg 64 rRcCtl v))
     else s.setReg 64 rRcCtl v)
  else if off = rRcTime ∨ (0x20 ≤ off ∧ off < 0xA0 ∧ off % 8 = 0) ∨ (0x400 ≤ off ∧ off < 0x600 ∧ off % 8 = 0) ∨
      (0x1000 ≤ off ∧ off < 0x7000 ∧ off % 8 = 0) then s.setReg 64 off v
  else if off = 0x8000 then
    (if 1000 ≤ v.toNat ∧ v.toNat ≤ tdp s.pkg.ordering then { s with pw := { s.pw with capw := v.toNat } } else s)
  else s

/-- A write of QCMD starts a command of the queue port (07 R193). -/
def State.storeQcmd (s : State) (iface : Nat) (v : DWord) : State :=
  let s1 := s.setReg iface rQCmd v
  if v.extractLsb' 2 62 ≠ 0#62 then s1.portStat iface rQStat 0x10#64
  else if v = 1#64 then { s1.portStat iface rQStat 1#64 with acts := s1.acts ++ [.qcmdWrite iface] }
  else if v = 2#64 then { s1.portStat iface rQStat 1#64 with acts := s1.acts ++ [.qcmdRead iface] }
  else s1

/-- A write of LTCMD starts a command of the table port (09 R279). -/
def State.storeLtcmd (s : State) (iface : Nat) (v : DWord) : State :=
  let s1 := s.setReg iface rLtCmd v
  let busy := s1.portStat iface rLtStat 1#64
  if v.extractLsb' 2 62 ≠ 0#62 then s1.portStat iface rLtStat 0x10#64
  else if v = 1#64 then { busy with acts := s1.acts ++ [.ltWrite iface] }
  else if v = 2#64 then { busy with acts := s1.acts ++ [.ltRead iface] }
  else if v = 3#64 then { busy with acts := s1.acts ++ [.ltPage iface] }
  else s1

/-- A write of FQCMD starts a command of the fault queue (15 R380). -/
def State.storeFqcmd (s : State) (iface : Nat) (v : DWord) : State :=
  let s1 := s.setReg iface rFqCmd v
  let count := (v.extractLsb' 48 16).toNat
  let first := (v.extractLsb' 32 16).toNat
  let busy := s1.setFqStat iface 0 1
  if v.extractLsb' 2 30 ≠ 0#30 ∨ count = 0 then s1.setFqStat iface 0 0x10
  else if v.extractLsb' 0 2 = 1#2 then { busy with acts := s1.acts ++ [.fqResume iface first count] }
  else if v.extractLsb' 0 2 = 2#2 ∧ count = 1 then { busy with acts := s1.acts ++ [.fqFail iface first] }
  else s1.setFqStat iface 0 0x10

/-- A write of SNAPCMD starts a command on a persistent snapshot (16 R396, R402). -/
def State.storeSnapcmd (s : State) (iface : Nat) (v : DWord) : State :=
  let s1 := s.setReg iface rSnapCmd v
  let name := (v.extractLsb' 32 32).toNat
  let busy := s1.portStat iface rSnapStat 1#64
  if v.extractLsb' 2 30 ≠ 0#30 then s1.portStat iface rSnapStat 0x10#64
  else if v.extractLsb' 0 2 = 1#2 then { busy with acts := s1.acts ++ [.snapRestore iface name] }
  else if v.extractLsb' 0 2 = 2#2 then { busy with acts := s1.acts ++ [.snapFree iface name] }
  else s1.portStat iface rSnapStat 0x10#64

/-- The number names a launch, and one of another interface. -/
def State.foreignLid (s : State) (iface : Nat) (lid : Word) : Bool :=
  (s.ofLid iface lid).isNone && s.launches.any (fun l => l.seq % 2 ^ 32 == lid.toNat)

/-- A write of DBGCTL; one with a reserved bit, or that names another interface's launch, is ignored (20 R477). -/
def State.storeDbgctl (s : State) (iface : Nat) (v : DWord) : State :=
  let lid := v.extractLsb' 32 32
  if v.extractLsb' 2 30 ≠ 0#30 ∨ s.foreignLid iface lid = true then s
  else
    let s1 := s.setReg iface rDbgCtl v
    if v.extractLsb' 0 2 = 1#2 then afterStep s1 (execDbgctlHalt iface lid s1)
    else if v.extractLsb' 0 2 = 2#2 then afterStep s1 (execDbgctlRun iface lid s1)
    else s1

/-- Registers that hold what is written and do nothing else. -/
def plainRegs : List Nat := [rLtSel, rLtData0, rLtData1, rLtAux, rFqHead, rUcBase, rUcPages, rDbgCtx, rLostNotify]

/-- A 64-bit store to an MMIO block: registers with a behaviour have it, plain ones hold the value, read-only ones and offsets
without a register stay as they are (08 R483). -/
def State.storeRegister (s : State) (iface off : Nat) (v : DWord) : State :=
  if iface = 64 then s.storePrivate off v
  else if iface > 64 then s
  else if rQSel ≤ off ∧ off ≤ rQCmd ∧ off % 8 = 0 then
    (if s.reg iface rQStat = 1#64 then s
     else if off = rQCmd then s.storeQcmd iface v
     else s.setReg iface off v)
  else if off = rLtCmd then (if s.reg iface rLtStat = 1#64 then s else s.storeLtcmd iface v)
  else if off = rFqCmd then (if (s.reg iface rFqStat).extractLsb' 0 8 = 1#8 then s else s.storeFqcmd iface v)
  else if off = rSnapCmd then (if s.reg iface rSnapStat = 1#64 then s else s.storeSnapcmd iface v)
  else if off = rFqCtl then afterStep s (execFqctlWrite iface v s)
  else if off = rFqBase then afterStep s (execFqbaseWrite iface v s)
  else if off = rFqNotify then afterStep s (execFqnotifyWrite iface v s)
  else if off = rCtrClr then afterStep s (execCtrclr iface v s)
  else if off = rDbgCtl then s.storeDbgctl iface v
  else if plainRegs.contains off then s.setReg iface off v
  else s

/-- REGISTER_WRITE (08 R483). -/
def execRegisterWrite (iface offset : Nat) (v : DWord) (s : State) : Out := .next (s.storeRegister iface offset v)

/-- An act that the device has started (log entry 31). -/
def State.act (a : Act) (s : State) : Out :=
  match a with
  | .doorbell i q v => execDoorbell i q v s
  | .register i off v => execRegisterWrite i off v s
  | .qcmdWrite i => execQcmdWrite i s
  | .qcmdRead i => execQcmdRead i s
  | .ltWrite i => execLtcmdWriteEntry i s
  | .ltRead i => execLtcmdReadEntry i s
  | .ltPage i => execLtcmdWritePageMap i s
  | .fqResume i f n => execFqcmdResume i f n s
  | .fqFail i f => execFqcmdFail i f s
  | .snapRestore i n => execSnapcmdRestore i n s
  | .snapFree i n => execSnapcmdFree i n s
  | .flit e => State.flitStep e s

end Sys2Proof.Machine
end

