-- ==== Sys2Proof/Machine/ScalarMem.lean ====
section
/-! DEFINITION. The scalar memory instructions (02 R69 to R71). -/

namespace Sys2Proof.Machine

/-- The address of an SM instruction (R69). -/
def State.smAddress (s : State) (b : Pair) (i : BitVec 14) : DWord := s.rdP b + sext64 i

/-- SLD: `n` bytes into a register or a pair (R69, R70). -/
def State.scalarLoad (s : State) (dst : RemoteDst) (n : Nat) (b : Pair) (i : BitVec 14) : Out :=
  s.issue (.loading (pairRegs b) (dst.regs 1)) (fun s =>
    let p := s.smAddress b i
    match s.check (s.request .read n) .load n p with
    | .error x => s.failed x
    | .ok l =>
      s.loadLanes dst n 1 [{ lane := 0, ptr := p, land := l, operand := 0, expect := 0 }] (fun s => s.advance 4))

/-- SST: `n` bytes of a value (R69, R70). -/
def State.scalarStore (s : State) (instr : Instr) (reads : List RegRef) (v : State → Nat) (n : Nat) (b : Pair)
    (i : BitVec 14) : Out :=
  s.issue (.loading (reads ++ pairRegs b) []) (fun s =>
    let p := s.smAddress b i
    match s.check (s.request .write n) .store n p with
    | .error x => s.failed x
    | .ok l => s.storeOut instr [(p, l, v s % 2 ^ (8 * n))] (fun s => s.advance 4))

def execSldBS (t : SReg) (b : Pair) (i : BitVec 14) (s : State) : Out := s.scalarLoad (.scalar t true) 1 b i

def execSldBZ (t : SReg) (b : Pair) (i : BitVec 14) (s : State) : Out := s.scalarLoad (.scalar t false) 1 b i

def execSldHS (t : SReg) (b : Pair) (i : BitVec 14) (s : State) : Out := s.scalarLoad (.scalar t true) 2 b i

def execSldHZ (t : SReg) (b : Pair) (i : BitVec 14) (s : State) : Out := s.scalarLoad (.scalar t false) 2 b i

def execSldW (t : SReg) (b : Pair) (i : BitVec 14) (s : State) : Out := s.scalarLoad (.scalar t false) 4 b i

def execSldD (t b : Pair) (i : BitVec 14) (s : State) : Out := s.scalarLoad (.pair t) 8 b i

def execSstB (t : SReg) (b : Pair) (i : BitVec 14) (s : State) : Out :=
  s.scalarStore (.sstB t b i) [.s t] (fun s => (s.rd t).toNat) 1 b i

def execSstH (t : SReg) (b : Pair) (i : BitVec 14) (s : State) : Out :=
  s.scalarStore (.sstH t b i) [.s t] (fun s => (s.rd t).toNat) 2 b i

def execSstW (t : SReg) (b : Pair) (i : BitVec 14) (s : State) : Out :=
  s.scalarStore (.sstW t b i) [.s t] (fun s => (s.rd t).toNat) 4 b i

def execSstD (t b : Pair) (i : BitVec 14) (s : State) : Out :=
  s.scalarStore (.sstD t b i) (pairRegs t) (fun s => (s.rdP t).toNat) 8 b i

/-- SATOM: one 32-bit read-modify-write at the home (R71). CAS also reads its destination. -/
def execSatom (f : AtomOp) (d : SReg) (a : Pair) (b : SReg) (s : State) : Out :=
  s.issue (.comparing (pairRegs a ++ [.s b] ++ (if f = .cas then [.s d] else [])) [.s d]) (fun s =>
    let p := s.rdP a
    match s.check (s.request .atomic 4) .atomic 4 p with
    | .error x => s.failed x
    | .ok l =>
      let v := (s.rd b).toNat
      s.atomLanes (.scalar d false) f 4 1 [{ lane := 0, ptr := p, land := l, operand := v, expect := (s.rd d).toNat }]
        (fun t => (t.sign (signItems (.satom f d a b) [(p, chunks 4 v)])).advance 4))

end Sys2Proof.Machine
end

