-- ==== Sys2Proof/Machine/ScalarPair.lean ====
section
/-! DEFINITION. Pair and address arithmetic (02 R62, R63). -/

namespace Sys2Proof.Machine

/-- The amount of a pair shift (R62). -/
def amount6 (b : Word) : Nat := b.toNat % 64

def execAddD (d a b : Pair) (s : State) : Out := s.pair2 d a b (fun x y => x + y)

def execSubD (d a b : Pair) (s : State) : Out := s.pair2 d a b (fun x y => x - y)

def execShlD (d a : Pair) (b : SReg) (s : State) : Out := s.pair1 d a b (fun x y => x <<< amount6 y)

def execShrD (d a : Pair) (b : SReg) (s : State) : Out := s.pair1 d a b (fun x y => x >>> amount6 y)

def execSraD (d a : Pair) (b : SReg) (s : State) : Out := s.pair1 d a b (fun x y => x.sshiftRight (amount6 y))

def execMulwS (d : Pair) (a b : SReg) (s : State) : Out :=
  s.widen2 d a b (fun x y => x.signExtend 64 * y.signExtend 64)

def execMulwZ (d : Pair) (a b : SReg) (s : State) : Out :=
  s.widen2 d a b (fun x y => x.setWidth 64 * y.setWidth 64)

def execAddiD (d a : Pair) (i : BitVec 13) (s : State) : Out :=
  s.issue' (.plain (pairRegs a) (pairRegs d)) (fun s => (s.wrP d (s.rdP a + sext64 i)).advance 4)

def execLeaD (d a : Pair) (b : SReg) (k : BitVec 3) (s : State) : Out :=
  s.pair1 d a b (fun x y => x + (sext64 y <<< k.toNat))

end Sys2Proof.Machine
end

