-- ==== Sys2Proof/Machine/Dispatch.lean ====
section
/-! DEFINITION. One arm per row of spec/opcode_table.json: the meaning of each instruction and device step. -/

namespace Sys2Proof.Machine

/-- The effect of an instruction of the issuing gang, or of a step of the device or of its environment. -/
def exec (i : Instr) (s : State) : Host.Outcome State Fault Refusal :=
  match i with
  | .add d a b => Sys2Proof.Machine.execAdd d a b s
  | .sub d a b => Sys2Proof.Machine.execSub d a b s
  | .mul d a b => Sys2Proof.Machine.execMul d a b s
  | .mulhS d a b => Sys2Proof.Machine.execMulhS d a b s
  | .mulhZ d a b => Sys2Proof.Machine.execMulhZ d a b s
  | .divS d a b => Sys2Proof.Machine.execDivS d a b s
  | .divZ d a b => Sys2Proof.Machine.execDivZ d a b s
  | .remS d a b => Sys2Proof.Machine.execRemS d a b s
  | .remZ d a b => Sys2Proof.Machine.execRemZ d a b s
  | .minS d a b => Sys2Proof.Machine.execMinS d a b s
  | .minZ d a b => Sys2Proof.Machine.execMinZ d a b s
  | .maxS d a b => Sys2Proof.Machine.execMaxS d a b s
  | .maxZ d a b => Sys2Proof.Machine.execMaxZ d a b s
  | .addsS d a b => Sys2Proof.Machine.execAddsS d a b s
  | .addsZ d a b => Sys2Proof.Machine.execAddsZ d a b s
  | .subsS d a b => Sys2Proof.Machine.execSubsS d a b s
  | .and d a b => Sys2Proof.Machine.execAnd d a b s
  | .or d a b => Sys2Proof.Machine.execOr d a b s
  | .xor d a b => Sys2Proof.Machine.execXor d a b s
  | .andn d a b => Sys2Proof.Machine.execAndn d a b s
  | .orn d a b => Sys2Proof.Machine.execOrn d a b s
  | .xnor d a b => Sys2Proof.Machine.execXnor d a b s
  | .shl d a b => Sys2Proof.Machine.execShl d a b s
  | .shr d a b => Sys2Proof.Machine.execShr d a b s
  | .sra d a b => Sys2Proof.Machine.execSra d a b s
  | .rol d a b => Sys2Proof.Machine.execRol d a b s
  | .ror d a b => Sys2Proof.Machine.execRor d a b s
  | .clz d a => Sys2Proof.Machine.execClz d a s
  | .ctz d a => Sys2Proof.Machine.execCtz d a s
  | .popc d a => Sys2Proof.Machine.execPopc d a s
  | .brev d a => Sys2Proof.Machine.execBrev d a s
  | .bswap d a => Sys2Proof.Machine.execBswap d a s
  | .bext d a b c => Sys2Proof.Machine.execBext d a b c s
  | .bextS d a b c => Sys2Proof.Machine.execBextS d a b c s
  | .bins d a b c => Sys2Proof.Machine.execBins d a b c s
  | .fshL d a b c => Sys2Proof.Machine.execFshL d a b c s
  | .fshR d a b c => Sys2Proof.Machine.execFshR d a b c s
  | .cmp k c a b => Sys2Proof.Machine.execCmp k c a b s
  | .addD d a b => Sys2Proof.Machine.execAddD d a b s
  | .subD d a b => Sys2Proof.Machine.execSubD d a b s
  | .shlD d a b => Sys2Proof.Machine.execShlD d a b s
  | .shrD d a b => Sys2Proof.Machine.execShrD d a b s
  | .sraD d a b => Sys2Proof.Machine.execSraD d a b s
  | .mulwS d a b => Sys2Proof.Machine.execMulwS d a b s
  | .mulwZ d a b => Sys2Proof.Machine.execMulwZ d a b s
  | .cand d a b => Sys2Proof.Machine.execCand d a b s
  | .cor d a b => Sys2Proof.Machine.execCor d a b s
  | .cxor d a b => Sys2Proof.Machine.execCxor d a b s
  | .cnot d a => Sys2Proof.Machine.execCnot d a s
  | .ctos d => Sys2Proof.Machine.execCtos d s
  | .stoc a => Sys2Proof.Machine.execStoc a s
  | .sel d k a b => Sys2Proof.Machine.execSel d k a b s
  | .addi d a imm => Sys2Proof.Machine.execAddi d a imm s
  | .andi d a imm => Sys2Proof.Machine.execAndi d a imm s
  | .ori d a imm => Sys2Proof.Machine.execOri d a imm s
  | .xori d a imm => Sys2Proof.Machine.execXori d a imm s
  | .shli d a imm => Sys2Proof.Machine.execShli d a imm s
  | .shri d a imm => Sys2Proof.Machine.execShri d a imm s
  | .srai d a imm => Sys2Proof.Machine.execSrai d a imm s
  | .muli d a imm => Sys2Proof.Machine.execMuli d a imm s
  | .cmpi k c a imm => Sys2Proof.Machine.execCmpi k c a imm s
  | .addiD d a imm => Sys2Proof.Machine.execAddiD d a imm s
  | .ldhi d imm => Sys2Proof.Machine.execLdhi d imm s
  | .addpc d imm => Sys2Proof.Machine.execAddpc d imm s
  | .getsr d n => Sys2Proof.Machine.execGetsr d n s
  | .setsr n a => Sys2Proof.Machine.execSetsr n a s
  | .leaD d a b k => Sys2Proof.Machine.execLeaD d a b k s
  | .bc c o => Sys2Proof.Machine.execBc c o s
  | .bcN c o => Sys2Proof.Machine.execBcN c o s
  | .bm o => Sys2Proof.Machine.execBm o s
  | .bmN o => Sys2Proof.Machine.execBmN o s
  | .bany p o => Sys2Proof.Machine.execBany p o s
  | .banyN p o => Sys2Proof.Machine.execBanyN p o s
  | .ball p o => Sys2Proof.Machine.execBall p o s
  | .ballN p o => Sys2Proof.Machine.execBallN p o s
  | .jmp o => Sys2Proof.Machine.execJmp o s
  | .call o => Sys2Proof.Machine.execCall o s
  | .jmpr a => Sys2Proof.Machine.execJmpr a s
  | .callr a => Sys2Proof.Machine.execCallr a s
  | .ret => Sys2Proof.Machine.execRet s
  | .loop k o => Sys2Proof.Machine.execLoop k o s
  | .sldBS t b imm => Sys2Proof.Machine.execSldBS t b imm s
  | .sldBZ t b imm => Sys2Proof.Machine.execSldBZ t b imm s
  | .sldHS t b imm => Sys2Proof.Machine.execSldHS t b imm s
  | .sldHZ t b imm => Sys2Proof.Machine.execSldHZ t b imm s
  | .sldW t b imm => Sys2Proof.Machine.execSldW t b imm s
  | .sldD t b imm => Sys2Proof.Machine.execSldD t b imm s
  | .sstB t b imm => Sys2Proof.Machine.execSstB t b imm s
  | .sstH t b imm => Sys2Proof.Machine.execSstH t b imm s
  | .sstW t b imm => Sys2Proof.Machine.execSstW t b imm s
  | .sstD t b imm => Sys2Proof.Machine.execSstD t b imm s
  | .satom f d a b => Sys2Proof.Machine.execSatom f d a b s
  | .trap imm => Sys2Proof.Machine.execTrap imm s
  | .brk imm => Sys2Proof.Machine.execBrk imm s
  | .yield => Sys2Proof.Machine.execYield s
  | .illegalInstruction why => Sys2Proof.Machine.execIllegalInstruction why s
  | .iadd h a b => Sys2Proof.Machine.execIadd h a b s
  | .isub h a b => Sys2Proof.Machine.execIsub h a b s
  | .imul h a b => Sys2Proof.Machine.execImul h a b s
  | .imulh h z a b => Sys2Proof.Machine.execImulh h z a b s
  | .imad h a b c => Sys2Proof.Machine.execImad h a b c s
  | .imadw h z a b c => Sys2Proof.Machine.execImadw h z a b c s
  | .imin h z a b => Sys2Proof.Machine.execImin h z a b s
  | .imax h z a b => Sys2Proof.Machine.execImax h z a b s
  | .iabs h a => Sys2Proof.Machine.execIabs h a s
  | .iadds h z a b => Sys2Proof.Machine.execIadds h z a b s
  | .isubs h z a b => Sys2Proof.Machine.execIsubs h z a b s
  | .idot4 h za zb a b c => Sys2Proof.Machine.execIdot4 h za zb a b c s
  | .iand h a b => Sys2Proof.Machine.execIand h a b s
  | .ior h a b => Sys2Proof.Machine.execIor h a b s
  | .ixor h a b => Sys2Proof.Machine.execIxor h a b s
  | .iandn h a b => Sys2Proof.Machine.execIandn h a b s
  | .ibool3 h a b c tt => Sys2Proof.Machine.execIbool3 h a b c tt s
  | .ishl h a b => Sys2Proof.Machine.execIshl h a b s
  | .ishr h a b => Sys2Proof.Machine.execIshr h a b s
  | .isra h a b => Sys2Proof.Machine.execIsra h a b s
  | .irol h a b => Sys2Proof.Machine.execIrol h a b s
  | .ifsh h right a b c => Sys2Proof.Machine.execIfsh h right a b c s
  | .ibext h sg a b => Sys2Proof.Machine.execIbext h sg a b s
  | .ibins h a b c => Sys2Proof.Machine.execIbins h a b c s
  | .iperm h a b c => Sys2Proof.Machine.execIperm h a b c s
  | .iclz h a => Sys2Proof.Machine.execIclz h a s
  | .ictz h a => Sys2Proof.Machine.execIctz h a s
  | .ipopc h a => Sys2Proof.Machine.execIpopc h a s
  | .ibrev h a => Sys2Proof.Machine.execIbrev h a s
  | .icmp h k a b => Sys2Proof.Machine.execIcmp h k a b s
  | .laneSel h neg k a b => Sys2Proof.Machine.execLaneSel h neg k a b s
  | .iaddD h a b => Sys2Proof.Machine.execIaddD h a b s
  | .isubD h a b => Sys2Proof.Machine.execIsubD h a b s
  | .ileaD h z k a b => Sys2Proof.Machine.execIleaD h z k a b s
  | .fadd h t r a b => Sys2Proof.Machine.execFadd h t r a b s
  | .fsub h t r a b => Sys2Proof.Machine.execFsub h t r a b s
  | .fmul h t r a b => Sys2Proof.Machine.execFmul h t r a b s
  | .ffma h t r np nc a b c => Sys2Proof.Machine.execFfma h t r np nc a b c s
  | .fmin h t a b => Sys2Proof.Machine.execFmin h t a b s
  | .fmax h t a b => Sys2Proof.Machine.execFmax h t a b s
  | .fcmp h t k a b => Sys2Proof.Machine.execFcmp h t k a b s
  | .fclass h t a => Sys2Proof.Machine.execFclass h t a s
  | .fdot2 h bf r a b c => Sys2Proof.Machine.execFdot2 h bf r a b c s
  | .frcp h a => Sys2Proof.Machine.execFrcp h a s
  | .frsq h a => Sys2Proof.Machine.execFrsq h a s
  | .fsqrt h a => Sys2Proof.Machine.execFsqrt h a s
  | .fex2 h a => Sys2Proof.Machine.execFex2 h a s
  | .flg2 h a => Sys2Proof.Machine.execFlg2 h a s
  | .fsin h a => Sys2Proof.Machine.execFsin h a s
  | .fcos h a => Sys2Proof.Machine.execFcos h a s
  | .ftanh h a => Sys2Proof.Machine.execFtanh h a s
  | .cvt h dst src r e1 a b => Sys2Proof.Machine.execCvt h dst src r e1 a b s
  | .cvtbApply h dst src r a b => Sys2Proof.Machine.execCvtbApply h dst src r a b s
  | .cvtbScale h dst a => Sys2Proof.Machine.execCvtbScale h dst a s
  | .mov h a => Sys2Proof.Machine.execMov h a s
  | .swz h m w a b => Sys2Proof.Machine.execSwz h m w a b s
  | .poll h m a => Sys2Proof.Machine.execPoll h m a s
  | .lread h a b => Sys2Proof.Machine.execLread h a b s
  | .lwrite h a b => Sys2Proof.Machine.execLwrite h a b s
  | .plog h pa pb pc tt => Sys2Proof.Machine.execPlog h pa pb pc tt s
  | .pmovP h => Sys2Proof.Machine.execPmovP h s
  | .pmovU h mask a => Sys2Proof.Machine.execPmovU h mask a s
  | .pline h part => Sys2Proof.Machine.execPline h part s
  | .ld h size signed d lt => Sys2Proof.Machine.execLd h size signed d lt s
  | .st h size src => Sys2Proof.Machine.execSt h size src s
  | .ldf h pos d lt => Sys2Proof.Machine.execLdf h pos d lt s
  | .stf h pos src => Sys2Proof.Machine.execStf h pos src s
  | .atom h op size d lt src => Sys2Proof.Machine.execAtom h op size d lt src s
  | .ldl h size signed d lt => Sys2Proof.Machine.execLdl h size signed d lt s
  | .stl h size src => Sys2Proof.Machine.execStl h size src s
  | .atoml h op size d lt src => Sys2Proof.Machine.execAtoml h op size d lt src s
  | .ldx h size src bar => Sys2Proof.Machine.execLdx h size src bar s
  | .prf h => Sys2Proof.Machine.execPrf h s
  | .copy shadow hint flag t x y => Sys2Proof.Machine.execCopy shadow hint flag t x y s
  | .publish t x => Sys2Proof.Machine.execPublish t x s
  | .mls arr fmt t x => Sys2Proof.Machine.execMls arr fmt t x s
  | .msw arr t => Sys2Proof.Machine.execMsw arr t s
  | .mst arr acc neg ovw fmt t x row => Sys2Proof.Machine.execMst arr acc neg ovw fmt t x row s
  | .mdr arr acc add shadow df t x row => Sys2Proof.Machine.execMdr arr acc add shadow df t x row s
  | .mza arr acc t => Sys2Proof.Machine.execMza arr acc t s
  | .mred arr acc neg ovw fmt t x row => Sys2Proof.Machine.execMred arr acc neg ovw fmt t x row s
  | .dcnt t x => Sys2Proof.Machine.execDcnt t x s
  | .dplan t x => Sys2Proof.Machine.execDplan t x s
  | .dscat t x => Sys2Proof.Machine.execDscat t x s
  | .dgath t x => Sys2Proof.Machine.execDgath t x s
  | .dstat sel t x => Sys2Proof.Machine.execDstat sel t x s
  | .resamp t x w => Sys2Proof.Machine.execResamp t x w s
  | .pseed t x y => Sys2Proof.Machine.execPseed t x y s
  | .pseedDirect t x => Sys2Proof.Machine.execPseedDirect t x s
  | .mcast ack t x y z w => Sys2Proof.Machine.execMcast ack t x y z w s
  | .rack t => Sys2Proof.Machine.execRack t s
  | .rackDev t x => Sys2Proof.Machine.execRackDev t x s
  | .peerq sel t x => Sys2Proof.Machine.execPeerq sel t x s
  | .locq t x => Sys2Proof.Machine.execLocq t x s
  | .locqSelf t => Sys2Proof.Machine.execLocqSelf t s
  | .bind t x y z => Sys2Proof.Machine.execBind t x y z s
  | .unbind t x y => Sys2Proof.Machine.execUnbind t x y s
  | .acq t x timeout => Sys2Proof.Machine.execAcq t x timeout s
  | .acqObs t x => Sys2Proof.Machine.execAcqObs t x s
  | .rel t x => Sys2Proof.Machine.execRel t x s
  | .fence scope => Sys2Proof.Machine.execFence scope s
  | .seal t x y => Sys2Proof.Machine.execSeal t x y s
  | .unseal t x y => Sys2Proof.Machine.execUnseal t x y s
  | .arrive t x => Sys2Proof.Machine.execArrive t x s
  | .bar t k => Sys2Proof.Machine.execBar t k s
  | .wait t w => Sys2Proof.Machine.execWait t w s
  | .semp t x y => Sys2Proof.Machine.execSemp t x y s
  | .rpush t k x => Sys2Proof.Machine.execRpush t k x s
  | .rtake t x => Sys2Proof.Machine.execRtake t x s
  | .rft => Sys2Proof.Machine.execRft s
  | .csrr t n => Sys2Proof.Machine.execCsrr t n s
  | .csrw n x => Sys2Proof.Machine.execCsrw n x s
  | .haltg => Sys2Proof.Machine.execHaltg s
  | .swapk t x y z => Sys2Proof.Machine.execSwapk t x y z s
  | .snap t x => Sys2Proof.Machine.execSnap t x s
  | .txb t => Sys2Proof.Machine.execTxb t s
  | .txc t => Sys2Proof.Machine.execTxc t s
  | .txa t => Sys2Proof.Machine.execTxa t s
  | .issueSelection core pipe => Sys2Proof.Machine.execIssueSelection core pipe s
  | .promotion g => Sys2Proof.Machine.execPromotion g s
  | .dataReturn g r => Sys2Proof.Machine.execDataReturn g r s
  | .doorbell iface queue v => Sys2Proof.Machine.execDoorbell iface queue v s
  | .qcmdWrite iface => Sys2Proof.Machine.execQcmdWrite iface s
  | .qcmdRead iface => Sys2Proof.Machine.execQcmdRead iface s
  | .dequeue iface queue => Sys2Proof.Machine.execDequeue iface queue s
  | .crewPlacement launch cores => Sys2Proof.Machine.execCrewPlacement launch cores s
  | .timedStart launch => Sys2Proof.Machine.execTimedStart launch s
  | .watchdog launch => Sys2Proof.Machine.execWatchdog launch s
  | .launchEnd launch => Sys2Proof.Machine.execLaunchEnd launch s
  | .graphNodeDequeue graph node => Sys2Proof.Machine.execGraphNodeDequeue graph node s
  | .waitRound g => Sys2Proof.Machine.execWaitRound g s
  | .waitTimeout g => Sys2Proof.Machine.execWaitTimeout g s
  | .acqRetry g => Sys2Proof.Machine.execAcqRetry g s
  | .acqTimeout g => Sys2Proof.Machine.execAcqTimeout g s
  | .ldxByteLanding op => Sys2Proof.Machine.execLdxByteLanding op s
  | .copyCompletion op => Sys2Proof.Machine.execCopyCompletion op s
  | .publishToggle op => Sys2Proof.Machine.execPublishToggle op s
  | .arrayStateSwap core c => Sys2Proof.Machine.execArrayStateSwap core c s
  | .mlsFill op => Sys2Proof.Machine.execMlsFill op s
  | .mswExchange op => Sys2Proof.Machine.execMswExchange op s
  | .mstPass op residue => Sys2Proof.Machine.execMstPass op residue s
  | .mredPass op residue => Sys2Proof.Machine.execMredPass op residue s
  | .mzaClear op => Sys2Proof.Machine.execMzaClear op s
  | .mdrDrain op => Sys2Proof.Machine.execMdrDrain op s
  | .mdrCompletion op => Sys2Proof.Machine.execMdrCompletion op s
  | .dplanCountsArrived op => Sys2Proof.Machine.execDplanCountsArrived op s
  | .dplanInvtagsArrived op => Sys2Proof.Machine.execDplanInvtagsArrived op s
  | .dscatScatbAddition op => Sys2Proof.Machine.execDscatScatbAddition op s
  | .dgathGathtagsArrived op => Sys2Proof.Machine.execDgathGathtagsArrived op s
  | .collectivePerformance launch => Sys2Proof.Machine.execCollectivePerformance launch s
  | .quiesce id => Sys2Proof.Machine.execQuiesce id s
  | .ltcmdWriteEntry iface => Sys2Proof.Machine.execLtcmdWriteEntry iface s
  | .ltcmdReadEntry iface => Sys2Proof.Machine.execLtcmdReadEntry iface s
  | .ltcmdWritePageMap iface => Sys2Proof.Machine.execLtcmdWritePageMap iface s
  | .windowCarve iface die first count => Sys2Proof.Machine.execWindowCarve iface die first count s
  | .faultRecordWrite iface => Sys2Proof.Machine.execFaultRecordWrite iface s
  | .fqcmdResume iface first count => Sys2Proof.Machine.execFqcmdResume iface first count s
  | .fqcmdFail iface first => Sys2Proof.Machine.execFqcmdFail iface first s
  | .fqctlWrite iface v => Sys2Proof.Machine.execFqctlWrite iface v s
  | .fqbaseWrite iface v => Sys2Proof.Machine.execFqbaseWrite iface v s
  | .fqnotifyWrite iface v => Sys2Proof.Machine.execFqnotifyWrite iface v s
  | .rollback launch pass => Sys2Proof.Machine.execRollback launch pass s
  | .preemption c bound => Sys2Proof.Machine.execPreemption c bound s
  | .save c => Sys2Proof.Machine.execSave c s
  | .crewResumption launch places => Sys2Proof.Machine.execCrewResumption launch places s
  | .drainBoundExpiry c => Sys2Proof.Machine.execDrainBoundExpiry c s
  | .transactionPhase2 g => Sys2Proof.Machine.execTransactionPhase2 g s
  | .snapcmdRestore iface name => Sys2Proof.Machine.execSnapcmdRestore iface name s
  | .snapcmdFree iface name => Sys2Proof.Machine.execSnapcmdFree iface name s
  | .linkError link => Sys2Proof.Machine.execLinkError link s
  | .linkLost link => Sys2Proof.Machine.execLinkLost link s
  | .dieFailure die => Sys2Proof.Machine.execDieFailure die s
  | .ctrclr iface v => Sys2Proof.Machine.execCtrclr iface v s
  | .slotBoundary port peerEntry => Sys2Proof.Machine.execSlotBoundary port peerEntry s
  | .writeFlit f => Sys2Proof.Machine.execWriteFlit f s
  | .readFlit f => Sys2Proof.Machine.execReadFlit f s
  | .readrespFlit f => Sys2Proof.Machine.execReadrespFlit f s
  | .atomicFlit f op size => Sys2Proof.Machine.execAtomicFlit f op size s
  | .atomrespFlit f => Sys2Proof.Machine.execAtomrespFlit f s
  | .ackFlit f code => Sys2Proof.Machine.execAckFlit f code s
  | .mcastFlit f tree offset => Sys2Proof.Machine.execMcastFlit f tree offset s
  | .drainFlit f port => Sys2Proof.Machine.execDrainFlit f port s
  | .timesyncFlit f slew => Sys2Proof.Machine.execTimesyncFlit f slew s
  | .keyFlit f port => Sys2Proof.Machine.execKeyFlit f port s
  | .rekey port => Sys2Proof.Machine.execRekey port s
  | .heaterEndOfRange port colour => Sys2Proof.Machine.execHeaterEndOfRange port colour s
  | .colourRelock port colour => Sys2Proof.Machine.execColourRelock port colour s
  | .coalescerTimeout core => Sys2Proof.Machine.execCoalescerTimeout core s
  | .relayFlitForward index => Sys2Proof.Machine.execRelayFlitForward index s
  | .egressQueueSend dev port => Sys2Proof.Machine.execEgressQueueSend dev port s
  | .egressSpaceFreed g => Sys2Proof.Machine.execEgressSpaceFreed g s
  | .poolRateWindow pool => Sys2Proof.Machine.execPoolRateWindow pool s
  | .timeBaseLost => Sys2Proof.Machine.execTimeBaseLost s
  | .peerSuspect dev => Sys2Proof.Machine.execPeerSuspect dev s
  | .rcctlArm v => Sys2Proof.Machine.execRcctlArm v s
  | .rcctlCancel => Sys2Proof.Machine.execRcctlCancel s
  | .reconfigurationT => Sys2Proof.Machine.execReconfigurationT s
  | .switchBoundary port => Sys2Proof.Machine.execSwitchBoundary port s
  | .darkEnd port => Sys2Proof.Machine.execDarkEnd port s
  | .relockComplete port => Sys2Proof.Machine.execRelockComplete port s
  | .relockTimeout port => Sys2Proof.Machine.execRelockTimeout port s
  | .packageReset boot => Sys2Proof.Machine.execPackageReset boot s
  | .packagePowerLoss => Sys2Proof.Machine.execPackagePowerLoss s
  | .idleEntry => Sys2Proof.Machine.execIdleEntry s
  | .parkedRequest => Sys2Proof.Machine.execParkedRequest s
  | .activeWake => Sys2Proof.Machine.execActiveWake s
  | .powerCapWindow watts => Sys2Proof.Machine.execPowerCapWindow watts s
  | .thermalStepDown die hbm reading => Sys2Proof.Machine.execThermalStepDown die hbm reading s
  | .thermtrip die hbm reading => Sys2Proof.Machine.execThermtrip die hbm reading s
  | .dbgctlHalt iface lid => Sys2Proof.Machine.execDbgctlHalt iface lid s
  | .dbgctlRun iface lid => Sys2Proof.Machine.execDbgctlRun iface lid s
  | .registerWrite iface offset v => Sys2Proof.Machine.execRegisterWrite iface offset v s
  | .writePerformed id => Sys2Proof.Machine.execWritePerformed id s
  | .operationCompletion op => Sys2Proof.Machine.execOperationCompletion op s
  | .slotGuard port => Sys2Proof.Machine.execSlotGuard port s
  | .flitDiscarded port f => Sys2Proof.Machine.execFlitDiscarded port f s
  | .relayTransit f => Sys2Proof.Machine.execRelayTransit f s
  | .fabricPathFailure dev => Sys2Proof.Machine.execFabricPathFailure dev s
  | .windowReturn iface die first count => Sys2Proof.Machine.execWindowReturn iface die first count s
  | .interfaceControlWrite iface create ctl => Sys2Proof.Machine.execInterfaceControlWrite iface create ctl s
  | .allocationChange iface grow part => Sys2Proof.Machine.execAllocationChange iface grow part s
  | .groupTableWrite index e => Sys2Proof.Machine.execGroupTableWrite index e s
  | .thermalRelease die hbm reading => Sys2Proof.Machine.execThermalRelease die hbm reading s

end Sys2Proof.Machine
end

