-- ==== Sys2Proof/Machine/Fetch.lean ====
section
/-! DEFINITION. Instruction fetch (01 R11 to R13, 02 R79, 09 R266): the words at the PC of the issuing gang, and what the gang
issues. -/

namespace Sys2Proof.Machine

/-- A word as a fetch of the gang finds it: what its home holds, or a word that the gang's own stores have overwritten there
(R79). -/
def State.codeWord (s : State) (now : Word) (p : Option Place) : Word :=
  match p.bind Place.key with
  | none => now
  | some k =>
    let old := (s.g.oldWords.filter (fun x => x.1 == k)).map Prod.snd
    if old.isEmpty then now else (now :: old).getD (Config.staleWord s.freeCtr k % (old.length + 1)) now

/-- One instruction word at `p`: fetches are not ordered with the gang's own stores (R79). No fetch reads a register (08
R483). -/
def State.fetchWord (s : State) (p : DWord) : Except Fail Word :=
  if p.extractLsb' 0 2 ≠ 0#2 then .error (alignFail p)
  else
    match s.translate { s.request .fetch 4 with half := s.g.fetchHalf } p with
    | .error x => .error (x.fail p)
    | .ok l =>
      if l.type = tMmio then .error (l.fault kProtection p)
      else
        match s.checkData l p with
        | .error x => .error x
        | .ok l => .ok (s.codeWord (BitVec.ofNat 32 (leValue (l.bytes.map s.homeByte))) l.bytes.head?)

/-- The words of the instruction at the PC: three where bit 31 of the first is 1 (R12, R13). -/
def State.fetch (s : State) : Except Fail (List Word) :=
  let pc := s.g.sc.pc
  match s.fetchWord pc with
  | .error x => .error x
  | .ok w0 =>
    if isLong w0 = false then .ok [w0]
    else
      match s.fetchWord (pc + 4#64) with
      | .error x => .error x
      | .ok w1 =>
        match s.fetchWord (pc + 8#64) with
        | .error x => .error x
        | .ok w2 => .ok [w0, w1, w2]

/-- What a step does: stop, execute an instruction, or something else with its outcome. -/
inductive Plan where
  | stop (f : Fault)
  | exec (i : Instr) (s : State)
  | out (o : Out)

/-- A fetch that fails: a precise fault of the instruction (R13), whose latches are cleared first (03 R94, 15 R376), or a wait
before it issues. A gang that waits for a saved crew is switched out, after that clearing too (03 R94, 08 R228). -/
def State.fetchFailed (s : State) (x : Fail) : Out :=
  match x with
  | .fault f => s.atSwitch.heedStop (.next (s.atSwitch.raise f))
  | .wait .quiesce => .next (s.setRun .quiesce)
  | .wait r => .next (s.atSwitch.setRun r)

/-- The selected gang issues the instruction at its PC. Words with no legal meaning are the kill of R39. -/
def State.issueNext (s : State) : Plan :=
  match s.fetch with
  | .error x => .out ({ s with issuing := false }.fetchFailed x)
  | .ok ws =>
    match decode ws with
    | .ok i => .exec i s.startIssue
    | .error _ => .exec (.illegalInstruction .encoding) s.startIssue

end Sys2Proof.Machine
end

