-- ==== Sys2Proof/Machine/Program.lean ====
section
/-! DEFINITION. A program put into the machine from outside: one launch of interface 0 with one crew of one gang on core 0, its
labels, its page and its bytes (log entry 20). What boot, the operating firmware, a driver and the command processor would
do in many steps is done at once. -/

namespace Sys2Proof.Machine

/-- The program's code pointer: depth 1, label 1, offset 0 (R255). -/
def programCode : DWord := makePtr [1] 0

/-- The packet of the program's launch (R186, R187). -/
def programPacket : Packet :=
  { Packet.zero with code := programCode, crews := 1, gangs := 1, vregs := 256, lastLanes := 96, scratch := 4096 }

/-- Entry at level C: to die 0, with every permission (R262). -/
def programHop : LabelEntry :=
  { LabelEntry.reset with
    action := .swap, r := true, w := true, x := true, a := true, s := true, hop := 0x20#8, newLabel := 1#12 }

/-- Entry at level D: HBM of one 64 KiB page whose map lies at 0x10000 (R263). -/
def programLand : LabelEntry :=
  { programHop with action := .land, hop := 0x01#8, newLabel := 0#12, limit := 1#22, base := 0x10000#58 }

/-- Keys of the two entries. -/
def programKeyC : EntryKey := { level := lvC, inst := 0, iface := 0, label := 1, dev := 0 }
def programKeyD : EntryKey := { level := lvD, inst := 0, iface := 0, label := 1, dev := 0 }

/-- A package of four dies that has booted (R419, R468). -/
def Package.ready (p : Package) : Package :=
  { p with boot := 0x80, dieMask := 0xF#4, linkUp := 0xF#4, linkRev := 0x0001000100010001, hbmStacks := 0xFFFF#16, coresPerDie := 160 }

/-- The program's launch: its crew is placed and its one band is the default one (R100). -/
def programLaunch (seq : Nat) : Launch :=
  { freshLaunch seq 0 0 0 none programPacket with
    nextCrew := 1
    bandList := [{ members := [(0, 0)], oneCrew := true, phase := 0#32, arrived := [] }] }

def programCrew (seq : Nat) : Crew :=
  { freshCrew { launch := seq, crew := 0, twin := false } with site := .resident 0 0, placedOnce := true }

/-- Place an instruction where the next step issues it. -/
def State.loadProgram (s : State) (ws : List Word) : State :=
  let seq := s.admSeq + 1
  let l := programLaunch seq
  let s1 := (s.deselect.setEntry programKeyC programHop).setEntry programKeyD programLand
  let m1 := s1.mem.putBytes 0x10000 (leBytes 16 (2 * 2 ^ 92 + 1))
  let m2 := m1.putBytes 0x20000 (wordBytes ws)
  { s1 with
    mem := m2
    admSeq := seq
    launches := s1.launches ++ [l]
    crews := s1.crews ++ [programCrew seq]
    g := entryGang l { launch := seq, crew := 0, gang := 0, twin := false } [] s.time 0
    ifaces := Sparse.put Iface.reset s1.ifaces 0 { s1.ifc 0 with exist := true, crewMax := 1, queues := 1 }
    pkg := s1.pkg.ready
    issuing := true
    agenda := []
    acts := [] }

end Sys2Proof.Machine
end

