-- ==== Sys2Proof/Machine/Schedule.lean ====
section
/-! DEFINITION. Which step the machine takes next: the acts it has started, the environment's steps, the instruction that a pipe
has selected, or a step of its own that may happen now. The manual orders steps of different agents only where it says so (10
R281, 02 R82), so of the device's own steps the next one is a free choice; one that cannot happen leaves the state as it is. -/

namespace Sys2Proof.Machine

/-! ### Time -/

/-- The crew is on a core and has not ended. -/
def State.running (s : State) (c : Crew) : Bool := c.site.isResident && !s.crewEnded c.ref

/-- Ticks of the watchdog are counted for this launch (07 R214, 20 R477). -/
def State.watched (s : State) (l : Launch) : Bool :=
  l.started && !l.halted && l.phase == .running && s.crews.any (fun c => c.ref.launch == l.seq && s.running c)

/-- `dt` ticks pass: RESIDENT (15 R386), the watchdog (07 R214) and the wait for IDLE (20 R470) count them. -/
def State.elapse (s : State) (dt : Nat) : State :=
  { s with
    time := s.time + dt
    crews := s.crews.map (fun c => if s.running c then { c with resident := c.resident + dt } else c)
    launches := s.launches.map (fun l => if s.watched l then { l with watch := l.watch + dt } else l)
    pw := if s.isIdle then s.pw else { s.pw with idleSince := s.time + dt } }

/-- The correction of TIME for `dt` ticks of the oscillator: one tick in every 1,000 while the time base is held (18 R445), and the ticks
since the last correction. -/
def State.slewed (s : State) (dt : Nat) : Nat × Nat :=
  let n := s.fab.slewTicks + dt
  let k := n / 1000
  (if s.fab.timeLocked = false ∨ s.fab.slew = 0 then dt else if s.fab.slew > 0 then dt + k else dt - min dt k, n % 1000)

/-- What the fabric does as time passes: pools' windows, colours that relock, and coalescers that send (18 R431, R437, R443). -/
def State.fabricElapse (s : State) (dt : Nat) : State :=
  ((s.poolElapse dt).relightDue).sendHeld (fun h => h.since + 1024 ≤ s.time)

/-- Time passes in a step that is no instruction (log entry 21). -/
def State.tick (s : State) : State :=
  let (n, s1) := s.free
  let (dt, rest) := s1.slewed (Config.ticks n)
  ({ s1 with fab := { s1.fab with slewTicks := rest } }.elapse dt).fabricElapse dt

/-! ### Steps of the device's own -/

/-- A step that the device may take. -/
abbrev Move := State → Out

/-- A gang that waits for a saved crew's scratchpad tests again (08 R228). -/
def retrySaved (g : GangRef) : Move := fun s =>
  .next (s.modGang g (fun h => if h.sch.run = .savedScratch then { h with sch := { h.sch with run := .ready } } else h))

/-- Uncorrectable data is found in a sector of this device (08 R481), in the place of a label entry (09 R275) or in the register
image of a lane (14 R374): it may happen at any time. -/
def errorInMemory : Move := fun s =>
  let (n, t) := s.free
  let v := (Config.reading n).toNat
  let w := v / 4
  .next (t.taintPlaces [match v % 4 with
    | 0 => .window (w % 4) (w / 4 % 2 ^ 26)
    | 1 => .scratch (w % 640) (w / 640 % 2 ^ 20)
    | _ => .hbm (w % (4 * dieHbmBytes))])

def errorInLabels : Move := fun s =>
  let (n, t) := s.free
  match t.labels[(Config.reading n).toNat % t.labels.length]? with
  | some ke => .next { t with labelPoison := t.labelPoison.filter (· != ke.1) ++ [ke.1] }
  | none => .next t

def errorInLane (g : GangRef) : Move := fun s =>
  let (n, t) := s.free
  .next (t.modGang g (fun h => { h with badLanes := h.badLanes ||| 1#96 <<< ((Config.reading n).toNat % 96) }))

/-- An HBM stack is lost: the inventory shows it, with EPOCH (20 R475). What its bytes read is left to the errors above (log entry 129). -/
def loseStack (k : Nat) : Move := fun s =>
  if s.pkg.hbmStacks.getLsbD k then
    .next { s with pkg := { s.pkg with hbmStacks := s.pkg.hbmStacks &&& ~~~ (maskFrom 16 [k]), epoch := s.pkg.epoch + 1#8 } }
  else .next s

/-- Moves of one gang. -/
def State.gangMoves (s : State) (h : Gang) : List Move :=
  let core := s.coreOf h.ref.crewRef
  let data : List Move := (h.bd.pending.filter (fun r => !s.remotePending h.ref r)).map (fun r => execDataReturn h.ref r)
  let promote : List Move := if h.sch.notIssued ≥ 64 ∧ h.sch.promoted.isNone then [execPromotion h.ref] else []
  let run : List Move := match h.sch.run with
    | .ready => [execIssueSelection core h.sch.pipe]
    | .wait _ _ _ => [execWaitRound h.ref, execWaitTimeout h.ref]
    | .acq _ _ _ _ => [execAcqRetry h.ref, execAcqTimeout h.ref]
    | .egress => [execEgressSpaceFreed h.ref]
    | .commit _ => [execTransactionPhase2 h.ref]
    | .savedScratch => [retrySaved h.ref]
    | .arrays => [execArrayStateSwap core h.ref.crewRef]
    | .sieve _ _ _ => [execCollectivePerformance h.ref.launch]
    | .board _ | .hazard _ | .drain _ | .release _ | .band _ _ | .parked _ | .noLive _ | .quiesce | .sealing _ _ | .compare | .stopped | .ended
    | .killed => []
  let stop : List Move := match s.launch? h.ref.launch with
    | some l => if l.phase ≠ .running ∧ h.sch.run.stopsAtOnce = true then [fun t => .next (t.endStopped h.ref)] else []
    | none => []
  data ++ promote ++ run ++ stop ++ (if (s.launch? h.ref.launch).any (fun l => l.population.isSome) then [errorInLane h.ref] else [])

/-- The move of an operation. -/
def opMove (o : Op) : Move :=
  if o.settle.isSome then fun s => .next (s.settleOp o.id)
  else match o.kind with
  | .copy _ _ _ _ => execCopyCompletion o.id
  | .publish _ => execPublishToggle o.id
  | .mls _ _ _ => execMlsFill o.id
  | .msw _ => execMswExchange o.id
  | .mst _ _ _ _ _ _ _ => fun s => let (n, t) := s.free; execMstPass o.id (Config.choice n) t
  | .mred _ _ _ _ _ _ _ => fun s => let (n, t) := s.free; execMredPass o.id (Config.choice n) t
  | .mza _ _ => execMzaClear o.id
  | .mdr _ _ _ _ _ _ _ => execMdrDrain o.id
  | .drained _ _ _ _ _ _ => execMdrCompletion o.id
  | .dplan _ _ .counts => execDplanCountsArrived o.id
  | .dplan _ _ .tags => execDplanInvtagsArrived o.id
  | .dscat _ _ => execDscatScatbAddition o.id
  | .dgath _ _ .counts | .dgath _ _ .tags => execDgathGathtagsArrived o.id
  | .ldx _ _ _ => execLdxByteLanding o.id
  | .localLoad _ _ rs _ => match rs with
    | r :: _ => execDataReturn o.owner r
    | [] => fun s => .next s
  | .dcnt _ _ | .dplan _ _ .start | .dgath _ _ .start | .dstat _ _ _ _ _ | .mcast _ _ _ _ _ _ _ _ | .rack _ | .peerq _ _
  | .value _ _ | .twin _ | .remoteLoad _ _ _ _ _ _ _ => execOperationCompletion o.id

/-- Place the next crew, or all crews, of a launch. -/
def placeMove (launch : Nat) : Move := fun s =>
  match s.launch? launch with
  | none => .next s
  | some l =>
    let (n, t) := s.free
    let cores := coresFrom ((Config.reading n).toNat % 640)
    match t.reap.nextCrewOf l with
    | some (_, true) => execCrewResumption launch (t.reap.pickPlaces l cores none (t.reap.resumeUnit l)) t
    | some (_, false) => execCrewPlacement launch (t.reap.pickCores l cores (if l.packet.cosched then l.packet.crews else 1)) t
    | none => .next s

/-- Moves of one launch. -/
def State.launchMoves (s : State) (l : Launch) : List Move :=
  let preempt : Move := fun t => t.preemptFor l.seq
  let rollback : Move := fun t => let (n, u) := t.free; execRollback l.seq (Config.choice n) u
  (if s.serving && s.wants l then [placeMove l.seq, preempt] else []) ++
  (if l.started then [] else [execTimedStart l.seq]) ++
  (if l.packet.watchdog = 0#64 then [] else [execWatchdog l.seq]) ++
  [execLaunchEnd l.seq] ++ (if l.dump.isSome then [fun t => .next (t.haltWrite l.seq)] else []) ++
  (match l.phase with
   | .rolling _ _ _ => [rollback]
   | .running | .failing _ | .ended => [])

/-- Moves of one crew. -/
def crewMoves (c : Crew) : List Move :=
  match c.preempt with
  | .no => []
  | .drain _ => [execDrainBoundExpiry c.ref]
  | .save | .flush => [execSave c.ref]

/-- Moves of one interface. -/
def State.ifaceMoves (s : State) (i : Nat) : List Move :=
  (if (s.nextRecord i).isSome then [execFaultRecordWrite i] else []) ++
  ((s.queues.filter (fun q => q.1 / 1024 == i && s.servable i (q.1 % 1024))).map (fun q => execDequeue i (q.1 % 1024)))

/-- Moves of one port; what a peer or an optic decides comes from the environment. -/
def State.portMoves (s : State) (p : Nat) : List Move :=
  match s.port? p with
  | none => []
  | some c =>
    (match c.state with
     | .up => [execSlotGuard p, execRekey p, execSwitchBoundary p]
     | .stopped => [execRekey p, execSwitchBoundary p]
     | .down => [execSwitchBoundary p]
     | .dark => [execDarkEnd p]
     | .relock => [execRelockTimeout p]) ++
    (c.lost.map (fun l => execColourRelock p l.1)) ++
    (match s.faces p with
     | some d => (((s.fab.egress.map (fun o => o.flit.dst)).filter (fun x => x == d || x ≥ 4096)).eraseDups).map (fun x => execEgressQueueSend x p)
     | none => [])

/-- An error is corrected and counted (20 R475): it may happen at any time. -/
def correctedError (hbm : Bool) : Move := fun s =>
  .next { s with pw :=
    if hbm then { s.pw with hbmErrs := s.pw.hbmErrs + 1 } else { s.pw with sramErrs := s.pw.sramErrs + 1 } }

/-- Moves of the fabric and the package. -/
def State.deviceMoves (s : State) : List Move :=
  ((List.range s.fab.transit.length).map (fun i => execRelayFlitForward i)) ++
  (((s.fab.stalled.map (fun e => e.flit.src)).eraseDups).map (fun d => fun t => t.retryStalled d)) ++
  (if s.fab.engine.any (fun e => !e.entered) then [fun t => .next t.feedEngines] else []) ++
  (((s.fab.coalesced.map Held.core).eraseDups).map (fun c => execCoalescerTimeout c)) ++
  (((s.fab.poolSeen.map Prod.fst ++ s.fab.poolSent.map Prod.fst).eraseDups).map (fun p => execPoolRateWindow p)) ++
  ((s.fab.reach.filter s.silent).map (fun d => execPeerSuspect d)) ++
  ((List.range 16).map s.portMoves).flatten ++
  (if s.rc.phase = .idle then [] else [execReconfigurationT]) ++
  [correctedError true, correctedError false, errorInMemory, errorInLabels] ++ (List.range 16).map loseStack ++
  (match s.pw.pstate with
   | .active => [execIdleEntry]
   | .idle | .parked => [execActiveWake]
   | .off => [])

/-- Every step that the device may take of its own. -/
def State.moves (s : State) : List Move :=
  ((s.allGangs.filter (fun h => h.ref != noGang)).map s.gangMoves).flatten ++
  (s.ops.map opMove) ++
  ((s.wq.filter (fun w => !s.isBuffered w)).map (fun w => execWritePerformed w.id)) ++
  (s.quiesces.map (fun q => execQuiesce q.id)) ++
  (s.replayWaits.map (fun n => fun t => .next (t.settleReplay n))) ++
  (s.withdrawals.map (fun w => fun t => .next (t.withdrawStep w))) ++
  (s.launches.map s.launchMoves).flatten ++
  (s.crews.map crewMoves).flatten ++
  (s.ifaces.map (fun ki => s.ifaceMoves ki.1)).flatten ++
  (s.replays.map (fun r => (List.range r.nodes).map (fun n => execGraphNodeDequeue r.seq n))).flatten ++
  s.deviceMoves

/-- Whether stores of the next instruction wait in the queue or are performed with it, and whether its loads read their homes when
they issue or when their data returns (10 R291, 02 R82). -/
def State.chooseDefer (s : State) : State :=
  let (n, t) := s.free
  let (m, u) := t.free
  { u with defer := Config.choice n, late := Config.choice m }

/-- One of the device's own steps, or time alone. -/
def State.nextEvent (s : State) : Out :=
  let (n, t) := s.chooseDefer.free
  let k := (Config.reading n).toNat % (t.moves.length + 1)
  match t.moves[k]? with
  | some m => m t.tick
  | none => .next t.tick

/-- A package without power takes no step but its reset (20 R470). -/
def Instr.isReset (i : Instr) : Bool :=
  match i with
  | .packageReset _ => true
  | _ => false

/-- The step. -/
def State.plan (s : State) : Plan :=
  match s.acts with
  | a :: r => if s.pw.pstate = .off then .stop .noPower else .out (State.act a { s with acts := r })
  | [] =>
    match s.agenda with
    | e :: r =>
      if s.pw.pstate = .off ∧ Instr.isReset e = false then .stop .noPower else .exec e { s.tick with agenda := r }
    | [] =>
      if s.pw.pstate = .off then .stop .noPower
      else if s.issuing then s.issueNext
      else .out s.nextEvent

end Sys2Proof.Machine
end

