-- ==== Sys2Proof/Machine/Step.lean ====
section
/-! DEFINITION. The step of the machine: what `State.plan` chooses, carried out. -/

namespace Sys2Proof.Machine

/-- One step (02 R76, 07 R213, 10 R281). -/
def step (s : State) : Host.Outcome State Fault Refusal :=
  match s.plan with
  | .stop f => .fault f
  | .exec i t => exec i t
  | .out o => o

/-- `s` with an instruction stored where its next step issues it. -/
def State.withFetchWord (s : State) (nbits w : Nat) : State :=
  s.loadProgram (tableWords nbits w)

end Sys2Proof.Machine
end

