-- ==== Sys2Proof/Safety.lean ====
section
/-! DEFINITION. What statements over states and steps use: the invariant of every run, when an instruction issues and has its
own effect, and the state in which that effect starts. -/

namespace Sys2Proof.Machine

/-- Memory is in its canonical form. -/
def State.memoryOk (s : State) : Prop := s.mem.wf = true

/-- An instruction with these uses has its own effect in this step: no register it names holds an unconsumed error (12 R333,
19 R461), every register it needs is there (03 R93), nothing stops its gang at this switch point (07 R214, 15 R383,
R391), and no comparison of Plumb copies comes first (16 R405). -/
def State.goes (s : State) (u : Uses) : Bool :=
  (s.consumed u).isNone && (s.waitsFor u).isEmpty && (!(u.switch || s.isBoardWait u) || s.stopAt.isNone) &&
    !(u.point && s.packet.plumb)

/-- The state in which the own effect of an instruction with these uses starts: at a switch point the latch valid bits are
clear and a YIELD has become a deferral (R94, R74), and the token registers that it reads have been read (R93). -/
def State.begun (s : State) (u : Uses) : State :=
  (if u.switch || s.isBoardWait u then s.atSwitch else s).modBoard (fun b => u.reads.foldl Board.read b)

/-! ### Memory as statements see it -/

/-- The landing's bytes are memory of this device, each named once: what an instruction stores there in one step. -/
def Landing.here (l : Landing) : Bool :=
  l.type != tMmio && l.bytes.all (fun p => p.remote.isNone && p.key.isSome) && decide (l.bytes.map Place.key).Nodup

/-- The key is that of a byte of the landing. -/
def Landing.names (l : Landing) (k : Nat) : Prop := ∃ p ∈ l.bytes, p.key = some k

/-- The key is that of a byte of a page-map entry through which the landing was reached (09 R268). -/
def Landing.marks (l : Landing) (k : Nat) : Prop := ∃ m ∈ l.pages, m.1 ≤ k ∧ k < m.1 + 16

/-- From `s` to `t` the key's granule has become a page of an Undercoat reserve in use: it has taken a copy (16 R395). -/
def State.tookCopy (s t : State) (k : Nat) : Prop := ∃ i, k / 65536 ∈ (t.ifc i).reserveUsed ∧ k / 65536 ∉ (s.ifc i).reserveUsed

/-- From `s` to `t` exactly the landing's bytes have received the value `v`, the lowest first. Page-map entries used may
have become DIRTY (R268), and pages of an Undercoat reserve have taken copies (16 R395). -/
def State.stored (s t : State) (l : Landing) (v : Nat) : Prop :=
  (∀ j k, (l.bytes[j]?).bind Place.key = some k → ¬ l.marks k → ¬ s.tookCopy t k → t.mem.get k = BitVec.ofNat 8 (v / 256 ^ j)) ∧
    ∀ k, ¬ l.names k → ¬ l.marks k → ¬ s.tookCopy t k → t.mem.get k = s.mem.get k

/-- From `s` to `t` exactly the bytes of these landings have received their values: a byte that several reach holds that of
the last one (R237). Page-map entries used may have become DIRTY, and pages of a reserve have taken copies. -/
def State.storedAll (s t : State) (items : List (Landing × Nat)) : Prop :=
  (∀ i l v j k, items[i]? = some (l, v) → (l.bytes[j]?).bind Place.key = some k →
    (∀ y ∈ items.drop (i + 1), ¬ y.1.names k) → (∀ y ∈ items, ¬ y.1.marks k) → ¬ s.tookCopy t k →
    t.mem.get k = BitVec.ofNat 8 (v / 256 ^ j)) ∧
    ∀ k, (∀ y ∈ items, ¬ y.1.names k ∧ ¬ y.1.marks k) → ¬ s.tookCopy t k → t.mem.get k = s.mem.get k

/-- A queued write still reaches this key, or a page-map entry with it. -/
def State.queued (s : State) (k : Nat) : Prop :=
  ∃ w ∈ s.wq, (∃ p ∈ w.places, p.key = some k) ∨ ∃ m ∈ w.pages, m ≤ k ∧ k < m + 16

/-- A byte of these landings is named in one way only. -/
def oneName (ls : List Landing) : Prop :=
  ∀ p ∈ (ls.map Landing.bytes).flatten, ∀ q ∈ (ls.map Landing.bytes).flatten, p.key = q.key → p = q

/-- The outcome is a next state past an instruction of `n` bytes, with the scalar registers of `w`, for which `q` holds. -/
def State.passes (s : State) (o : Out) (n : Nat) (w : State) (q : State → Prop) : Prop :=
  ∃ t, o = .next t ∧ (∀ r, t.rd r = w.rd r) ∧ t.g.sc.pc = s.g.sc.pc + BitVec.ofNat 64 n ∧ q t

/-- The gang's scalar state but its PC, and its lane state, are the same. -/
def Gang.sameRegs (g h : Gang) : Prop := h.sc = { g.sc with pc := h.sc.pc } ∧ h.la = g.la

/-! ### Loads -/

/-- Word `j` of a loaded value of `n` bytes: a shorter value is extended to 32 bits (02 R69, 08 R238). -/
def valueWord (signed : Bool) (n v j : Nat) : Word :=
  if signed ∧ n < 4 then (BitVec.ofNat (8 * n) v).signExtend 32 else BitVec.ofNat 32 (v / 2 ^ (32 * j))

/-- From `h` to `k` a load of `n` bytes has delivered values, per lane, to its destination, and to the latch as long as no later
instruction has made it valid; all else that it holds is the same (02 R69, 08 R235, R238). -/
def Gang.hasLoaded (h k : Gang) (d : RemoteDst) (n : Nat) (vs : List (Nat × Nat)) : Prop :=
  let words := if n ≤ 4 then 1 else n / 4
  match d with
  | .scalar t signed => k.la = h.la ∧ ∀ x, vs = [x] → k.sc = (h.wr t (valueWord signed n x.2 0)).sc
  | .pair t => k.la = h.la ∧ ∀ x, vs = [x] → k.sc = (h.wrP t (BitVec.ofNat 64 x.2)).sc
  | .lanes e signed lt =>
    k.sc = h.sc ∧ ((∀ q, e ≠ .p q) → k.la.preds = h.la.preds) ∧
      (∀ i j l, j < words → l < 96 → e = .v i → i.toNat + j < 256 → laneAt (k.la.vreg (i.toNat + j)) l =
        match vs.find? (fun x => x.1 == l) with
        | some x => valueWord signed n x.2 j
        | none => laneAt (h.la.vreg (i.toNat + j)) l) ∧
      (∀ i j l, j < words → l < 96 → e = .o i → i.toNat + j < 8 → laneAt (k.la.oreg (i.toNat + j)) l =
        match vs.find? (fun x => x.1 == l) with
        | some x => valueWord signed n x.2 j
        | none => laneAt (h.la.oreg (i.toNat + j)) l) ∧
      ((∀ i, e ≠ .v i) → k.la.v = h.la.v) ∧ ((∀ i, e ≠ .o i) → k.la.o = h.la.o) ∧
      ∀ l < 96, laneAt64 (k.la.latch lt) l = match vs.find? (fun x => x.1 == l) with
        | some x => if h.la.latchValid.getLsbD lt.toNat then laneAt64 (h.la.latch lt) l
          else (if n ≤ 4 then 0#32 else valueWord signed n x.2 1) ++ valueWord signed n x.2 0
        | none => laneAt64 (h.la.latch lt) l

/-! ### Releases -/

/-- A pointer lies in a region that a table with this value binds: BASE to BASE + LEN − 1, at most the last pointer (10 R284). -/
def tableCovers (v : Nat) (p : DWord) : Prop :=
  ∃ i < 6, 0 < v / 2 ^ (128 * i) % 2 ^ 40 ∧ v / 2 ^ (128 * i + 64) % 2 ^ 64 ≤ p.toNat ∧
    p.toNat ≤ min (v / 2 ^ (128 * i + 64) % 2 ^ 64 + v / 2 ^ (128 * i) % 2 ^ 40 - 1) (2 ^ 64 - 1)

/-- Every write in the regions of a table that happens before a release of the issuing gang is performed: its own, and those of gangs
that have made a release since (10 R287, R289, log entry 97). -/
def State.releasable (s : State) (v : Nat) : Prop :=
  (∀ w ∈ s.wq, s.isBuffered w = false → (w.owner = s.g.ref ∨ w.released = true) → ∀ x ∈ w.ptrs, ¬ tableCovers v x.2) ∧
    ∀ u ∈ s.fab.unacked, (u.owner = s.g.ref ∨ u.released = true) → ∀ x ∈ u.ptrs, ¬ tableCovers v x.2

/-- The outcome is a wait inside REL or SEMP until what it releases is performed. -/
def State.releaseWaits (s : State) (o : Out) (m : Memory) : Prop :=
  ∃ t y, o = .next t ∧ t.mem = m ∧ t.g.sc.pc = s.g.sc.pc ∧ t.g.sch.run = .release y ∧ t.g.sch.reissue = true

/-- No gang waits inside a REL or a SEMP, which a completed operation could let go on in the same step. -/
def State.noRelease (s : State) : Prop := ∀ h ∈ s.allGangs, ∀ y, h.sch.run ≠ .release y

/-! ### WAIT -/

/-- The bits of the conditions that hold (07 R221). -/
def waitBits (holds : Nat → Bool) : Word :=
  (if holds 0 then 1#32 else 0#32) ||| (if holds 1 then 2#32 else 0#32) ||| (if holds 2 then 4#32 else 0#32) |||
    (if holds 3 then 8#32 else 0#32)

/-- What a round of WAIT whose conditions hold as said answers: with ALL every used one must hold, else the lowest that holds fires; none
while it fires nothing (07 R221). -/
def waitFires (w : WaitSpec) (holds : Nat → Bool) : Option Word :=
  let used (i : Nat) : Bool := (waitConds w).getD i .unused != .unused
  if w.all then
    (if (List.range 4).all (fun i => !used i || holds i) && (List.range 4).any used then some (waitBits used) else none)
  else ((List.range 4).find? holds).map (fun i => BitVec.ofNat 32 (2 ^ i))

/-! ### Lane instructions -/

/-- An LA instruction has its own effect in this step: its main-file indices are declared (R30), and it goes. -/
def State.laGoes (s : State) (h : LaHdr) (u : LaSrcs) (words : Nat) : Bool :=
  s.laFits h u words && s.goes (laUses h u words)

/-- The state in which an LA instruction reads its sources. -/
def State.laFrom (s : State) (h : LaHdr) (u : LaSrcs) (words : Nat) : State := s.begun (laUses h u words)

/-- The state after an LA instruction with results `f`, per repetition and lane: LATCHLOST if it has read an invalid latch
(R95), the results in the participating lanes (R105), and the PC past its three words. -/
def State.laEnd (s : State) (h : LaHdr) (u : LaSrcs) (words : Nat) (f : Nat → Nat → DWord × BitVec 5) : State :=
  let t := s.laFrom h u words
  ((t.noteLatches u (t.g.part h.guard)).laWrite h (t.g.part h.guard) words f).advance 12

/-! ### Lane memory instructions -/

/-- What an LM instruction that reads and writes these registers beside its address and the execution mask uses: it is a switch point (R93). -/
def lmUses (h : LmHdr) (point : Bool) (reads writes : List RegRef) : Uses :=
  { reads := h.addr.regs ++ reads, writes := execRegs ++ writes, switch := true, point := point, passes := !point }

/-! ### Engine instructions -/

/-- An EN instruction has its own effect in this step: its stage has the role (07 R211), the exec mask is full and not zero
(03 R96), and it goes. -/
def State.enGoes (s : State) (role : Option Nat) (t : SReg) (reads : List RegRef) : Bool :=
  !s.lacksRole role && s.g.exec == s.g.la.live && s.g.exec != 0#96 && s.goes (enUses t reads)

/-- The outcome is a next state past the instruction in which an operation of this kind has joined those under way, of the
issuing gang and under its token register (11 R312); registers and memory are as they were, and readers of the token
register wait (03 R93). -/
def State.starts (s : State) (o : Out) (t : SReg) (k : OpKind) : Prop :=
  s.passes o 12 s (fun u => u.mem = s.mem ∧ (t ≠ 0#6 → u.isPending (.s t) = true) ∧
    ∃ p : Op, u.ops = s.ops ++ [p] ∧ p.id = s.nextId ∧ p.owner = s.g.ref ∧ p.iface = s.myIface ∧ p.core = s.myCore ∧
      p.pc = s.g.sc.pc ∧ p.token = (if t = 0#6 then none else some t) ∧ p.kind = k)

/-- The operation is one of the selected gang, which is ready and has no Plumb twin, under token register `t`; nothing else waits for it
to end, no write is under way, and nothing that it sent is unanswered. -/
def State.runs (s : State) (o : Op) (t : SReg) : Prop :=
  s.op? o.id = some o ∧ o.owner = s.g.ref ∧ o.owner.twin = false ∧ o.token = some t ∧ s.wq = [] ∧ s.gang? o.owner.other = none ∧
    s.g.sch.run = .ready ∧ s.noRelease ∧ ∀ e ∈ s.fab.engine, e.op ≠ o.id

/-- From `s` to `u` an operation has ended with this token in its register. -/
def State.opEnds (s u : State) (o : Op) (t : SReg) (v : Word) : Prop :=
  u.ops = s.ops.filter (fun p => p.id != o.id) ∧ (∀ r, u.rd r = (s.wr t v).rd r) ∧ u.g.sc.pc = s.g.sc.pc

/-- In `u` the gang of the operation is still the selected one and ready, without a twin, and all that the operation sent is answered. -/
def State.mayEnd (s u : State) (o : Op) : Prop :=
  u.g.ref = s.g.ref ∧ u.g.sch.run = .ready ∧ u.gang? o.owner.other = none ∧ u.noRelease ∧ ∀ e ∈ u.fab.engine, e.op ≠ o.id

/-- A step of a dispatch operation runs `m` on the device: a wait leaves everything as it was, an error ends the operation with its
code, and else `done` holds of the state that `m` leaves and of the one after the step (13 R348, R356). -/
def State.engStep (s : State) (o : Op) (t : SReg) (m : Eng Unit) (out : Out) (done : State → State → Prop) : Prop :=
  ∃ w, out = .next w ∧ match m s with
    | .ok _ u => s.mayEnd u o → done u w
    | .error (.wait _) _ => w = s
    | .error (.fault f) u => s.mayEnd u o → u.opEnds w o t f.token ∧ w.mem = u.mem

end Sys2Proof.Machine
end

