-- ==== Sys2Proof/Certificates/Slice0/Obligations.lean ====
section
/-! DEFINITION. The statements for the provers. In all of them `s.goes u` says that an instruction with the uses `u` issues and
has its own effect in this step, and `s.begun u` is the state in which that effect starts (both in Safety.lean). -/

open Sys2Proof Sys2Proof.Machine

/-! ## Scalar instructions (02) -/

/-- R54: the two-source ALU instructions without a division. Each completes with its value in s[sd], PC + 4, and no other
change. R54: the one-source ALU instructions. CLZ and CTZ are characterised by the bits around their count. R56, R57: the
immediate forms. -/
def Obligations.ScalarAluResults : Prop :=
  (∀ (s : State) (d a b : SReg), s.goes (.plain [.s a, .s b] [.s d]) = true →
    let t := s.begun (.plain [.s a, .s b] [.s d])
    let x := s.rd a
    let y := s.rd b
    let done (v : Word) : Out := .next ((t.wr d v).advance 4)
    exec (.add d a b) s = done (BitVec.ofNat 32 (x.toNat + y.toNat)) ∧
    exec (.sub d a b) s = done (BitVec.ofInt 32 (x.toNat - y.toNat)) ∧
    exec (.mul d a b) s = done (BitVec.ofNat 32 (x.toNat * y.toNat)) ∧
    exec (.mulhS d a b) s = done (BitVec.ofInt 32 (x.toInt * y.toInt / 2 ^ 32)) ∧
    exec (.mulhZ d a b) s = done (BitVec.ofNat 32 (x.toNat * y.toNat / 2 ^ 32)) ∧
    exec (.minS d a b) s = done (BitVec.ofInt 32 (min x.toInt y.toInt)) ∧
    exec (.minZ d a b) s = done (BitVec.ofNat 32 (min x.toNat y.toNat)) ∧
    exec (.maxS d a b) s = done (BitVec.ofInt 32 (max x.toInt y.toInt)) ∧
    exec (.maxZ d a b) s = done (BitVec.ofNat 32 (max x.toNat y.toNat)) ∧
    exec (.addsS d a b) s = done (BitVec.ofInt 32 (max (-2 ^ 31) (min (2 ^ 31 - 1) (x.toInt + y.toInt)))) ∧
    exec (.addsZ d a b) s = done (BitVec.ofNat 32 (min (2 ^ 32 - 1) (x.toNat + y.toNat))) ∧
    exec (.subsS d a b) s = done (BitVec.ofInt 32 (max (-2 ^ 31) (min (2 ^ 31 - 1) (x.toInt - y.toInt)))) ∧
    exec (.and d a b) s = done (x &&& y) ∧
    exec (.or d a b) s = done (x ||| y) ∧
    exec (.xor d a b) s = done (x ^^^ y) ∧
    exec (.andn d a b) s = done (x &&& ~~~ y) ∧
    exec (.orn d a b) s = done (x ||| ~~~ y) ∧
    exec (.xnor d a b) s = done (~~~ (x ^^^ y)) ∧
    exec (.shl d a b) s = done (BitVec.ofNat 32 (x.toNat * 2 ^ (y.toNat % 64))) ∧
    exec (.shr d a b) s = done (BitVec.ofNat 32 (x.toNat / 2 ^ (y.toNat % 64))) ∧
    exec (.sra d a b) s = done (BitVec.ofInt 32 (x.toInt / 2 ^ (y.toNat % 64))) ∧
    exec (.rol d a b) s = done (x <<< (y.toNat % 32) ||| x >>> (32 - y.toNat % 32)) ∧
    exec (.ror d a b) s = done (x >>> (y.toNat % 32) ||| x <<< (32 - y.toNat % 32))) ∧
  (∀ (s : State) (d a : SReg), s.goes (.plain [.s a] [.s d]) = true →
    let t := s.begun (.plain [.s a] [.s d])
    let x := s.rd a
    let done (v : Word) : Out := .next ((t.wr d v).advance 4)
    (∃ n : Nat, n ≤ 32 ∧ x.toNat < 2 ^ (32 - n) ∧ (n < 32 → 2 ^ (31 - n) ≤ x.toNat) ∧
      exec (.clz d a) s = done (BitVec.ofNat 32 n)) ∧
    (∃ n : Nat, n ≤ 32 ∧ x.toNat % 2 ^ n = 0 ∧ (n < 32 → x.toNat / 2 ^ n % 2 = 1) ∧
      exec (.ctz d a) s = done (BitVec.ofNat 32 n)) ∧
    exec (.popc d a) s = done (BitVec.ofNat 32 ((List.range 32).countP (fun i => x.getLsbD i))) ∧
    (∃ v : Word, (∀ i < 32, v.getLsbD i = x.getLsbD (31 - i)) ∧ exec (.brev d a) s = done v) ∧
    (∃ v : Word, (∀ i < 4, v.extractLsb' (8 * i) 8 = x.extractLsb' (8 * (3 - i)) 8) ∧ exec (.bswap d a) s = done v)) ∧
  ((∀ (s : State) (d a : SReg) (i : BitVec 13), s.goes (.plain [.s a] [.s d]) = true →
    let t := s.begun (.plain [.s a] [.s d])
    let x := s.rd a
    let done (v : Word) : Out := .next ((t.wr d v).advance 4)
    exec (.addi d a i) s = done (BitVec.ofInt 32 (x.toNat + i.toInt)) ∧
    exec (.andi d a i) s = done (x &&& BitVec.ofInt 32 i.toInt) ∧
    exec (.ori d a i) s = done (x ||| BitVec.ofInt 32 i.toInt) ∧
    exec (.xori d a i) s = done (x ^^^ BitVec.ofInt 32 i.toInt) ∧
    exec (.muli d a i) s = done (BitVec.ofInt 32 (x.toNat * i.toInt))) ∧
  (∀ (s : State) (d a : SReg) (i : BitVec 6), s.goes (.plain [.s a] [.s d]) = true →
    let t := s.begun (.plain [.s a] [.s d])
    let x := s.rd a
    let done (v : Word) : Out := .next ((t.wr d v).advance 4)
    exec (.shli d a i) s = done (BitVec.ofNat 32 (x.toNat * 2 ^ i.toNat)) ∧
    exec (.shri d a i) s = done (BitVec.ofNat 32 (x.toNat / 2 ^ i.toNat)) ∧
    exec (.srai d a i) s = done (BitVec.ofInt 32 (x.toInt / 2 ^ i.toNat))) ∧
  (∀ (s : State) (d : SReg) (i : BitVec 19), s.goes (.plain [] [.s d]) = true →
    exec (.ldhi d i) s = .next (((s.begun (.plain [] [.s d])).wr d (BitVec.ofNat 32 (i.toNat * 2 ^ 13))).advance 4)) ∧
  (∀ (s : State) (d : Pair) (i : BitVec 19), s.goes (.plain [] (pairRegs d)) = true →
    exec (.addpc d i) s = .next (((s.begun (.plain [] (pairRegs d))).wrP d
      (BitVec.ofInt 64 (s.g.sc.pc.toNat + i.toInt * 2 ^ 13))).advance 4)))

/-- R54, R55: DIV and REM for a divisor that is not zero: truncation toward zero, and a remainder of the dividend's sign. R55:
the borderline operands of DIV and REM. A zero divisor gives all ones or the dividend and sets GSTATUS.DIVZERO; the most
negative number by −1 gives itself and remainder 0, and sets no flag. -/
def Obligations.ScalarDivResults : Prop :=
  (∀ (s : State) (d a b : SReg), s.goes (.plain [.s a, .s b] [.s d]) = true → s.rd b ≠ 0#32 →
    let t := s.begun (.plain [.s a, .s b] [.s d])
    let x := s.rd a
    let y := s.rd b
    let done (v : Word) : Out := .next ((t.wr d v).advance 4)
    exec (.divS d a b) s = done (BitVec.ofInt 32 (x.toInt.tdiv y.toInt)) ∧
    exec (.divZ d a b) s = done (BitVec.ofNat 32 (x.toNat / y.toNat)) ∧
    exec (.remS d a b) s = done (BitVec.ofInt 32 (x.toInt.tmod y.toInt)) ∧
    exec (.remZ d a b) s = done (BitVec.ofNat 32 (x.toNat % y.toNat))) ∧
  (∀ (s : State) (d a b : SReg), s.goes (.plain [.s a, .s b] [.s d]) = true →
    let t := s.begun (.plain [.s a, .s b] [.s d])
    (s.rd b = 0#32 →
      exec (.divS d a b) s = .next (((t.wr d 0xFFFFFFFF#32).setDivZero).advance 4) ∧
      exec (.divZ d a b) s = .next (((t.wr d 0xFFFFFFFF#32).setDivZero).advance 4) ∧
      exec (.remS d a b) s = .next (((t.wr d (s.rd a)).setDivZero).advance 4) ∧
      exec (.remZ d a b) s = .next (((t.wr d (s.rd a)).setDivZero).advance 4)) ∧
    (s.rd a = 0x80000000#32 → s.rd b = 0xFFFFFFFF#32 →
      exec (.divS d a b) s = .next ((t.wr d 0x80000000#32).advance 4) ∧
      exec (.remS d a b) s = .next ((t.wr d 0#32).advance 4)))

/-- R58: bit fields and funnel shifts, with offset and width from registers. -/
def Obligations.BitFieldResults : Prop :=
  ∀ (s : State) (d a b c : SReg),
    let off := (s.rd b).toNat % 32
    let w := min ((s.rd c).toNat % 64) (32 - off)
    let mask : Word := BitVec.ofNat 32 (2 ^ w - 1)
    let field : Word := (s.rd a >>> off) &&& mask
    (s.goes (.plain [.s a, .s b, .s c] [.s d]) = true →
      let t := s.begun (.plain [.s a, .s b, .s c] [.s d])
      exec (.bext d a b c) s = .next ((t.wr d field).advance 4) ∧
      exec (.bextS d a b c) s = .next ((t.wr d
        (if 0 < w ∧ field.getLsbD (w - 1) = true then field ||| ~~~ mask else field)).advance 4)) ∧
    (s.goes (.plain [.s d, .s a, .s b, .s c] [.s d]) = true →
      let t := s.begun (.plain [.s d, .s a, .s b, .s c] [.s d])
      exec (.bins d a b c) s = .next ((t.wr d
        ((s.rd d &&& ~~~ (mask <<< off)) ||| ((s.rd a &&& mask) <<< off))).advance 4) ∧
      exec (.fshL d a b c) s = .next ((t.wr d ((s.rd d <<< w) ||| field)).advance 4) ∧
      exec (.fshR d a b c) s = .next ((t.wr d ((s.rd d >>> w) ||| (field <<< (32 - w)))).advance 4))

/-- R59, R18: a compare writes its condition bit with the relation that its code names, on two's complement values for the .S
conditions and unsigned ones for the .Z conditions. R60: the condition operations. -/
def Obligations.CompareResults : Prop :=
  (∀ (s : State) (k : Cond) (c : CReg) (a b : SReg) (i : BitVec 13),
    let rel (x y : Word) : Prop := match k with
      | .eq => x = y
      | .ne => x ≠ y
      | .ltS => x.toInt < y.toInt
      | .geS => x.toInt ≥ y.toInt
      | .ltZ => x.toNat < y.toNat
      | .geZ => x.toNat ≥ y.toNat
      | .leS => x.toInt ≤ y.toInt
      | .gtS => x.toInt > y.toInt
    (s.goes (.plain [.s a, .s b] []) = true →
      ∃ v : Bool, (v = true ↔ rel (s.rd a) (s.rd b)) ∧
        exec (.cmp k c a b) s = .next (((s.begun (.plain [.s a, .s b] [])).setCond c v).advance 4)) ∧
    (s.goes (.plain [.s a] []) = true →
      ∃ v : Bool, (v = true ↔ rel (s.rd a) (i.signExtend 32)) ∧
        exec (.cmpi k c a i) s = .next (((s.begun (.plain [.s a] [])).setCond c v).advance 4))) ∧
  ((∀ (s : State) (d a b : CReg), s.goes (.plain [] []) = true →
    let t := s.begun (.plain [] [])
    exec (.cand d a b) s = .next ((t.setCond d (s.cond a && s.cond b)).advance 4) ∧
    exec (.cor d a b) s = .next ((t.setCond d (s.cond a || s.cond b)).advance 4) ∧
    exec (.cxor d a b) s = .next ((t.setCond d (s.cond a != s.cond b)).advance 4) ∧
    exec (.cnot d a) s = .next ((t.setCond d (!s.cond a)).advance 4)) ∧
  (∀ (s : State) (d : SReg), s.goes (.plain [] [.s d]) = true →
    exec (.ctos d) s = .next (((s.begun (.plain [] [.s d])).wr d (s.g.sc.conds.setWidth 32)).advance 4)) ∧
  (∀ (s : State) (a : SReg), s.goes (.plain [.s a] []) = true →
    ∃ t, exec (.stoc a) s = .next t ∧ t.g.sc.pc = s.g.sc.pc + 4#64 ∧
      (∀ i < 8, t.cond (BitVec.ofNat 3 i) = (s.rd a).getLsbD i) ∧ t.g.sc.regs = s.g.sc.regs ∧ t.mem = s.mem))

/-- R61: SEL, with its encoding and the word of its example. -/
def Obligations.SelectRule : Prop :=
  (∀ (s : State) (d : SReg) (k : CReg) (a b : SReg), s.goes (.plain [.s a, .s b] [.s d]) = true →
    exec (.sel d k a b) s =
      .next (((s.begun (.plain [.s a, .s b] [.s d])).wr d (if s.cond k then s.rd a else s.rd b)).advance 4)) ∧
  (∀ (d : SReg) (k : CReg) (a b : SReg),
    decode [0#1 ++ 0x07#6 ++ d ++ a ++ b ++ 0#4 ++ k] = .ok (.sel d k a b)) ∧
  decode [0x0E182104#32] = .ok (.sel 3#6 4#3 1#6 2#6)

/-- R62, R63: pair and address arithmetic wraps modulo 2^64. -/
def Obligations.PairArithmeticResults : Prop :=
  (∀ (s : State) (d a b : Pair), s.goes (.plain (pairRegs a ++ pairRegs b) (pairRegs d)) = true →
    let t := s.begun (.plain (pairRegs a ++ pairRegs b) (pairRegs d))
    exec (.addD d a b) s = .next ((t.wrP d (BitVec.ofNat 64 ((s.rdP a).toNat + (s.rdP b).toNat))).advance 4) ∧
    exec (.subD d a b) s = .next ((t.wrP d (BitVec.ofInt 64 ((s.rdP a).toNat - (s.rdP b).toNat))).advance 4)) ∧
  (∀ (s : State) (d a : Pair) (b : SReg) (k : BitVec 3), s.goes (.plain (pairRegs a ++ [.s b]) (pairRegs d)) = true →
    let t := s.begun (.plain (pairRegs a ++ [.s b]) (pairRegs d))
    let x := s.rdP a
    let n := (s.rd b).toNat % 64
    exec (.shlD d a b) s = .next ((t.wrP d (BitVec.ofNat 64 (x.toNat * 2 ^ n))).advance 4) ∧
    exec (.shrD d a b) s = .next ((t.wrP d (BitVec.ofNat 64 (x.toNat / 2 ^ n))).advance 4) ∧
    exec (.sraD d a b) s = .next ((t.wrP d (BitVec.ofInt 64 (x.toInt / 2 ^ n))).advance 4) ∧
    exec (.leaD d a b k) s =
      .next ((t.wrP d (BitVec.ofInt 64 (x.toNat + (s.rd b).toInt * 2 ^ k.toNat))).advance 4)) ∧
  (∀ (s : State) (d : Pair) (a b : SReg), s.goes (.plain [.s a, .s b] (pairRegs d)) = true →
    let t := s.begun (.plain [.s a, .s b] (pairRegs d))
    exec (.mulwS d a b) s = .next ((t.wrP d (BitVec.ofInt 64 ((s.rd a).toInt * (s.rd b).toInt))).advance 4) ∧
    exec (.mulwZ d a b) s = .next ((t.wrP d (BitVec.ofNat 64 ((s.rd a).toNat * (s.rd b).toNat))).advance 4)) ∧
  (∀ (s : State) (d a : Pair) (i : BitVec 13), s.goes (.plain (pairRegs a) (pairRegs d)) = true →
    exec (.addiD d a i) s = .next (((s.begun (.plain (pairRegs a) (pairRegs d))).wrP d
      (BitVec.ofInt 64 ((s.rdP a).toNat + i.toInt))).advance 4))

/-- R44, R45, R46: what a write of a register or pair leaves. s0 stays zero, s56 to s58 keep the live bits only, a pair's low
word is in its even register, and a write to s0.d writes s1 alone. -/
def Obligations.RegisterWriteRule : Prop :=
  ∀ (s : State) (d r : SReg) (w : Word) (p : Pair) (v : DWord),
    s.rd 0#6 = 0#32 ∧
    (s.wr d w).rd r = (if r = 0#6 then 0#32 else if r = d then
      (if r = 56#6 then w &&& s.special .live0 else if r = 57#6 then w &&& s.special .live1
       else if r = 58#6 then w &&& s.special .live2 else w) else s.rd r) ∧
    s.rdP p = s.rd (p ++ 1#1) ++ s.rd (p ++ 0#1) ∧
    (s.wrP p v).rd r = (if r = p ++ 0#1 ∨ r = p ++ 1#1 then
      (s.wr r (if r = p ++ 0#1 then v.extractLsb' 0 32 else v.extractLsb' 32 32)).rd r else s.rd r) ∧
    s.rdP 0#5 = s.rd 1#6 ++ 0#32 ∧ (s.wrP 0#5 v).rd 1#6 = v.extractLsb' 32 32 ∧ (s.wrP 0#5 v).rd 0#6 = 0#32

/-- R64 to R66: conditional branches. The next PC is the target or PC + 4; nothing else of the gang's registers and memory
changes. R67: the unconditional transfers, for a target that is aligned; CALLR reads its target before it writes the link.
R13, R67: a transfer to a target that is not aligned raises ALIGN and writes no link. -/
def Obligations.BranchResults : Prop :=
  (∀ (s : State) (c : CReg) (p : PReg) (o : BitVec 19),
    let target : DWord := BitVec.ofInt 64 (s.g.sc.pc.toNat + 4 * o.toInt)
    let next : DWord := s.g.sc.pc + 4#64
    let any : Bool := (List.range 96).any (fun l => s.g.exec.getLsbD l && (s.g.pred p).getLsbD l)
    let all : Bool := (List.range 96).all (fun l => !s.g.exec.getLsbD l || (s.g.pred p).getLsbD l)
    let goes (reads : List RegRef) (taken : Bool) : Prop :=
      s.goes { reads := reads, writes := [], switch := taken, point := false } = true
    let at' (reads : List RegRef) (taken : Bool) : Out :=
      .next ((s.begun { reads := reads, writes := [], switch := taken, point := false }).setPc (if taken then target else next))
    let m : List RegRef := [.s 56#6, .s 57#6, .s 58#6]
    (goes [] (s.cond c) → exec (.bc c o) s = at' [] (s.cond c)) ∧
    (goes [] (!s.cond c) → exec (.bcN c o) s = at' [] (!s.cond c)) ∧
    (goes m (s.g.exec == 0#96) → exec (.bm o) s = at' m (s.g.exec == 0#96)) ∧
    (goes m (s.g.exec != 0#96) → exec (.bmN o) s = at' m (s.g.exec != 0#96)) ∧
    (goes m any → exec (.bany p o) s = at' m any) ∧
    (goes m (!any) → exec (.banyN p o) s = at' m (!any)) ∧
    (goes m all → exec (.ball p o) s = at' m all) ∧
    (goes m (!all) → exec (.ballN p o) s = at' m (!all))) ∧
  ((∀ (s : State) (o : BitVec 25), s.goes (.switching [] []) = true →
    exec (.jmp o) s = .next ((s.begun (.switching [] [])).setPc (s.g.sc.pc + 4#64 * o.signExtend 64))) ∧
  (∀ (s : State) (o : BitVec 25), s.goes (.switching [] (pairRegs linkPair)) = true →
    exec (.call o) s = .next (((s.begun (.switching [] (pairRegs linkPair))).wrP linkPair (s.g.sc.pc + 4#64)).setPc
      (s.g.sc.pc + 4#64 * o.signExtend 64))) ∧
  (∀ (s : State) (a : Pair), (s.rdP a).toNat % 4 = 0 →
    (s.goes (.switching (pairRegs a) []) = true →
      exec (.jmpr a) s = .next ((s.begun (.switching (pairRegs a) [])).setPc (s.rdP a)) ∧
      (a = linkPair → exec .ret s = .next ((s.begun (.switching (pairRegs a) [])).setPc (s.rdP a)))) ∧
    (s.goes (.switching (pairRegs a) (pairRegs linkPair)) = true →
      exec (.callr a) s = .next (((s.begun (.switching (pairRegs a) (pairRegs linkPair))).wrP linkPair
        (s.g.sc.pc + 4#64)).setPc (s.rdP a))))) ∧
  (∀ (s : State) (a : Pair), (s.rdP a).toNat % 4 ≠ 0 →
    (s.goes (.switching (pairRegs a) []) = true →
      exec (.jmpr a) s = .next ((s.begun (.switching (pairRegs a) [])).raise (.plain 0x17))) ∧
    (s.goes (.switching (pairRegs a) (pairRegs linkPair)) = true →
      exec (.callr a) s = .next ((s.begun (.switching (pairRegs a) (pairRegs linkPair))).raise (.plain 0x17))))

/-- R68: LOOP counts down modulo 2^32 and branches while the counter is not zero, so a counter of 0 on entry wraps and
branches; with its encoding. -/
def Obligations.LoopRule : Prop :=
  ∀ (s : State) (k : BitVec 5) (o : BitVec 19), k ≠ 0#5 →
    let r : SReg := k.setWidth 6
    let n := s.rd r - 1#32
    let u : Uses := { reads := [.s r], writes := [.s r], switch := n != 0#32, point := false }
    decode [0#1 ++ 0x1F#6 ++ k ++ 0#1 ++ o] = .ok (.loop k o) ∧
    (s.rd r = 0#32 → n = 0xFFFFFFFF#32) ∧
    (s.goes u = true →
      exec (.loop k o) s = .next (((s.begun u).wr r n).setPc
        (if n = 0#32 then s.g.sc.pc + 4#64 else s.g.sc.pc + 4#64 * o.signExtend 64)))

/-! ## Scalar memory, special registers and traps (02, 15) -/

/-- R69: a scalar load whose access passes its checks, on this device. Its registers wait for their data (R93), memory is
unchanged, and the register receives the value with its extension: at once, or where `late` says so (log entry 6) when the data
returns. R69: a scalar store whose access passes its checks, on this device, outside Plumb and transactions. Exactly the bytes of
the access receive the low bytes of the register; with `defer` they wait in the queue and memory is unchanged (R291). It comes
after loads of those bytes that have not read their homes yet (log entry 6). -/
def Obligations.ScalarLoadStoreResults : Prop :=
  (∀ (s : State) (t : SReg) (q b : Pair) (i : BitVec 14) (l : Landing),
    let at' (n : Nat) (dst : List RegRef) : Prop :=
      s.goes (.loading (pairRegs b) dst) = true ∧
        (s.begun (.loading (pairRegs b) dst)).check ((s.begun (.loading (pairRegs b) dst)).request .read n) .load n
          (s.rdP b + i.signExtend 64) = .ok l ∧ (∀ p ∈ l.bytes, p.remote = none) ∧
        (s.begun (.loading (pairRegs b) dst)).lateAt l.bytes = []
    let done (o : Out) (dst : List RegRef) (w : State → State) : Prop :=
      ∃ t', o = .next t' ∧ (s.late = false → ∀ r, t'.rd r = (w (s.begun (.loading (pairRegs b) dst))).rd r) ∧
        t'.g.sc.pc = s.g.sc.pc + 4#64 ∧ t'.mem = s.mem ∧ (∀ r ∈ dst, r.real = true → r ∈ t'.g.bd.pending)
    let v (dst : List RegRef) : Nat := (s.begun (.loading (pairRegs b) dst)).ownValue l.bytes
    let d : List RegRef := [.s t]
    (at' 1 d → done (exec (.sldBS t b i) s) d (fun s => s.wr t ((BitVec.ofNat 8 (v d)).signExtend 32)) ∧
      done (exec (.sldBZ t b i) s) d (fun s => s.wr t (BitVec.ofNat 32 (v d)))) ∧
    (at' 2 d → done (exec (.sldHS t b i) s) d (fun s => s.wr t ((BitVec.ofNat 16 (v d)).signExtend 32)) ∧
      done (exec (.sldHZ t b i) s) d (fun s => s.wr t (BitVec.ofNat 32 (v d)))) ∧
    (at' 4 d → done (exec (.sldW t b i) s) d (fun s => s.wr t (BitVec.ofNat 32 (v d)))) ∧
    (at' 8 (pairRegs q) → done (exec (.sldD q b i) s) (pairRegs q) (fun s => s.wrP q (BitVec.ofNat 64 (v (pairRegs q)))))) ∧
  (∀ (s : State) (t : SReg) (q b : Pair) (i : BitVec 14) (l : Landing), s.packet.plumb = false →
    s.g.txn = none → l.here = true →
    let at' (n : Nat) (src : List RegRef) : Prop :=
      s.goes (.loading (src ++ pairRegs b) []) = true ∧ l.bytes.length = n ∧
        (s.begun (.loading (src ++ pairRegs b) [])).check
          ((s.begun (.loading (src ++ pairRegs b) [])).request .write n) .store n (s.rdP b + i.signExtend 64) = .ok l ∧
        (s.begun (.loading (src ++ pairRegs b) [])).storeWaits [l] = []
    let done (o : Out) (v : Nat) : Prop :=
      ∃ t', o = .next t' ∧ (∀ r, t'.rd r = s.rd r) ∧ t'.g.sc.pc = s.g.sc.pc + 4#64 ∧
        (s.defer = true → t'.mem = s.mem ∧ t'.wq = s.wq ++ [PendWrite.mk s.nextId s.g.ref
            (.bytes (placed l.bytes v) (l.pages.map Prod.fst) l.owner l.route)
            (pointed l.bytes (s.rdP b + i.signExtend 64)) false true]) ∧
        (s.defer = false → s.wq = [] → s.stored t' l v)
    (at' 1 [.s t] → done (exec (.sstB t b i) s) ((s.rd t).toNat % 2 ^ 8)) ∧
    (at' 2 [.s t] → done (exec (.sstH t b i) s) ((s.rd t).toNat % 2 ^ 16)) ∧
    (at' 4 [.s t] → done (exec (.sstW t b i) s) (s.rd t).toNat) ∧
    (at' 8 (pairRegs q) → done (exec (.sstD q b i) s) (s.rdP q).toNat))

/-- R71: SATOM at a word of this device that the gang has no write under way to. The old word goes to s[sd], the new one to
memory; a CAS that fails stores nothing. R70: an access that is not aligned, or that translation, the target type or sealing
refuses, or that meets uncorrectable data: the scalar memory instructions raise that fault, and it is all they do. -/
def Obligations.ScalarAtomicResults : Prop :=
  (∀ (s : State) (f : AtomOp) (d : SReg) (a : Pair) (b : SReg) (l : Landing), f ≠ .fadd →
    s.packet.plumb = false → s.g.txn = none → l.here = true → s.wq = [] → l.bytes.length = 4 →
    let u : Uses := .comparing (pairRegs a ++ [.s b] ++ (if f = .cas then [.s d] else [])) [.s d]
    s.goes u = true → (s.begun u).check ((s.begun u).request .atomic 4) .atomic 4 (s.rdP a) = .ok l →
    let old : Word := BitVec.ofNat 32 (s.ownValue l.bytes)
    let y := s.rd b
    let new : Option Word := match f with
      | .add => some (old + y)
      | .and => some (old &&& y)
      | .or => some (old ||| y)
      | .xor => some (old ^^^ y)
      | .minS => some (if old.toInt ≤ y.toInt then old else y)
      | .minZ => some (if old.toNat ≤ y.toNat then old else y)
      | .maxS => some (if old.toInt ≤ y.toInt then y else old)
      | .maxZ => some (if old.toNat ≤ y.toNat then y else old)
      | .exch => some y
      | .cas => if old = s.rd d then some y else none
      | .fadd => none
    ∃ t, exec (.satom f d a b) s = .next t ∧ (∀ r, t.rd r = (s.wr d old).rd r) ∧ t.g.sc.pc = s.g.sc.pc + 4#64 ∧
      match new with
      | some v => s.stored t l v.toNat
      | none => t.mem = s.mem) ∧
  (∀ (s : State) (t : SReg) (b : Pair) (i : BitVec 14) (f : FaultInfo),
    let p : DWord := s.rdP b + i.signExtend 64
    let ld := s.begun (.loading (pairRegs b) [.s t])
    let st := s.begun (.loading ([.s t] ++ pairRegs b) [])
    (s.goes (.loading (pairRegs b) [.s t]) = true → ld.check (ld.request .read 4) .load 4 p = .error (.fault f) →
      exec (.sldW t b i) s = .next (ld.raise f)) ∧
    (s.goes (.loading ([.s t] ++ pairRegs b) []) = true → st.check (st.request .write 4) .store 4 p = .error (.fault f) →
      exec (.sstW t b i) s = .next (st.raise f)) ∧
    (p.toNat % 4 ≠ 0 → ld.check (ld.request .read 4) .load 4 p = .error (.fault { FaultInfo.plain 0x17 with pointer := p }) ∧
      st.check (st.request .write 4) .store 4 p = .error (.fault { FaultInfo.plain 0x17 with pointer := p })))

/-- R48 to R53, R72: what GETSR reads, for every special register. TIMELO captures the time view; TIMEHI reads the last
capture, or captures when there is none. R48 to R53, R72: what SETSR writes: FPFLAGS and GSTATUS clear on 1, TVEC keeps bits
1:0 zero, TRAPPC changes in handler mode only, every other register is read only or discards the write. -/
def Obligations.SpecialRegisterResults : Prop :=
  (∀ (s : State) (d : SReg) (n : SpecialReg), s.goes (.plain [] [.s d]) = true → s.packet.plumb = false →
    let c := s.g.sc
    let view := s.view s.myIface
    let time := c.timeCapture.getD view
    let v : Word := match n with
      | .timeLo => view.extractLsb' 0 32
      | .timeHi => time.extractLsb' 32 32
      | .live0 => s.g.la.live.extractLsb' 0 32
      | .live1 => s.g.la.live.extractLsb' 32 32
      | .live2 => s.g.la.live.extractLsb' 64 32
      | .fpFlags => c.fpFlags.setWidth 32
      | .gStatus => (if c.divZero then 1#32 else 0#32) ||| (if c.latchLost then 2#32 else 0#32)
      | .launchId => BitVec.ofNat 32 s.g.ref.launch
      | .tvecLo => c.tvec.extractLsb' 0 32
      | .tvecHi => c.tvec.extractLsb' 32 32
      | .trapPcLo => if c.handler then c.trapPc.extractLsb' 0 32 else 0#32
      | .trapPcHi => if c.handler then c.trapPc.extractLsb' 32 32 else 0#32
      | .trapCode => if c.handler then c.trapCode else 0#32
    ∃ t, exec (.getsr d n) s = .next t ∧ (∀ r, t.rd r = (s.wr d v).rd r) ∧ t.g.sc.pc = c.pc + 4#64 ∧ t.mem = s.mem ∧
      t.g.sc.timeCapture = (if n = .timeLo then some view else if n = .timeHi then some time else c.timeCapture)) ∧
  (∀ (s : State) (n : SpecialReg) (a : SReg), s.goes (.plain [.s a] []) = true →
    let c := s.g.sc
    let w := s.rd a
    ∃ t, exec (.setsr n a) s = .next t ∧ t.g.sc.regs = c.regs ∧ t.g.sc.conds = c.conds ∧ t.g.sc.pc = c.pc + 4#64 ∧ t.mem = s.mem ∧
      t.g.sc.fpFlags = (if n = .fpFlags then c.fpFlags &&& ~~~ (w.extractLsb' 0 5) else c.fpFlags) ∧
      t.g.sc.divZero = (if n = .gStatus ∧ w.getLsbD 0 = true then false else c.divZero) ∧
      t.g.sc.latchLost = (if n = .gStatus ∧ w.getLsbD 1 = true then false else c.latchLost) ∧
      t.g.sc.tvec = (if n = .tvecLo then c.tvec.extractLsb' 32 32 ++ (w.extractLsb' 2 30 ++ 0#2)
        else if n = .tvecHi then w ++ c.tvec.extractLsb' 0 32 else c.tvec) ∧
      t.g.sc.trapPc = (if n = .trapPcLo ∧ c.handler = true then c.trapPc.extractLsb' 32 32 ++ w
        else if n = .trapPcHi ∧ c.handler = true then w ++ c.trapPc.extractLsb' 0 32 else c.trapPc) ∧
      t.g.sc.trapCode = c.trapCode ∧ t.g.sc.timeCapture = c.timeCapture)

/-- R73, R384: TRAP and BRK with a vector set, outside handler mode: the return address and the cause are saved, handler mode
begins, and the PC goes to the vector. In every other case the instruction becomes a fault record of its kind. R385: RFT
leaves handler mode for the saved address and clears the saved registers; outside handler mode it is an illegal context, and
an unaligned address raises ALIGN. -/
def Obligations.HandlerRule : Prop :=
  (∀ (s : State) (i : BitVec 19), s.goes (.switching [] []) = true →
    let s0 := s.begun (.switching [] [])
    let entered (kind : Byte) : State := s0.modG (fun g => { g with sc := { g.sc with
      trapPc := g.sc.pc + 4#64, trapCode := kind ++ 0#5 ++ i, handler := true, pc := g.sc.tvec } })
    (s.g.sc.tvec ≠ 0#64 → s.g.sc.handler = false →
      exec (.trap i) s = .next (entered 0x41#8) ∧ exec (.brk i) s = .next (entered 0x42#8)) ∧
    (s.g.sc.tvec = 0#64 ∨ s.g.sc.handler = true →
      exec (.trap i) s = .next (s0.raise (.plain 0x41)) ∧ exec (.brk i) s = .next (s0.raise (.plain 0x42)))) ∧
  (∀ (s : State),
    (s.g.sc.handler = false → exec .rft s = .next (s.kill .context)) ∧
    (s.g.sc.handler = true → s.goes (.switching [] []) = true →
      let b := s.begun (.switching [] [])
      (s.g.sc.trapPc.extractLsb' 0 2 ≠ 0#2 → exec .rft s = .next (b.raise (.plain 0x17))) ∧
      (s.g.sc.trapPc.extractLsb' 0 2 = 0#2 → ∃ t, exec .rft s = .next t ∧
        t.g.sc = { s.g.sc with handler := false, pc := s.g.sc.trapPc, trapPc := 0#64, trapCode := 0#32 } ∧
        t.g.la = b.g.la ∧ t.mem = s.mem)))

/-- R74: YIELD sets the yield-pending bit and has no other effect. At the next switch point the bit is cleared and the gang is
deferred, and the latch valid bits are cleared (R94). -/
def Obligations.YieldRule : Prop :=
  (∀ (s : State), s.goes (.plain [] []) = true →
    exec .yield s = .next (((s.begun (.plain [] [])).modG (fun g => { g with sch := { g.sch with yieldPending := true } })).advance 4)) ∧
  (∀ (s : State) (u : Uses), u.switch = true →
    (s.begun u).g.sch.yieldPending = false ∧ (s.begun u).g.la.latchValid = 0#4 ∧
      (s.begun u).g.sch.deferred = (s.g.sch.deferred || s.g.sch.yieldPending))

/-- R39 to R42: an illegal instruction kills its gang at its PC: the gang issues no more, its lanes leave the live mask, and
memory is as it was. The launch error record counts it; the first kill of the launch fills it with PC, crew, gang, REASON and KIND.
Of a Plumb pair the copy that comes second to the same kill takes it for both where their signatures agree and are complete, since
the end of a gang is a comparison point (16 R405, log entry 131), and the first one waits. -/
def Obligations.IllegalKillRule : Prop :=
  ∀ (s : State) (why : KillReason),
    let kind : Nat := match why with | .encoding | .context => 0x03 | .role => 0x04
    (s.packet.plumb = false →
      exec (.illegalInstruction why) s = .next (s.killNow s.g.ref s.g.sc.pc why) ∧
      ∃ t, exec (.illegalInstruction why) s = .next t ∧ t.g.sch.run = .killed ∧ t.g.la.live = 0#96 ∧
        t.g.sc.pc = s.g.sc.pc ∧ t.mem = s.mem) ∧
    (∀ h : Gang, s.packet.plumb = true → s.gang? s.g.ref.other = some h →
      ∃ t, exec (.illegalInstruction why) s = .next t ∧ t.mem = s.mem ∧
        (h.plumb.faulted = none → h.sch.run.isOver = false →
          t.g.sch.run = .compare ∧ t.g.plumb.faulted = some (.plain kind, s.g.sc.pc)) ∧
        (∀ f : FaultInfo, h.plumb.faulted = some (f, s.g.sc.pc) → f.kind = kind →
          (s.g.plumb.late = [] → h.plumb.late = [] → s.g.plumb.sig = h.plumb.sig → t.g.sch.run = .killed) ∧
          (s.g.plumb.late ≠ [] ∨ h.plumb.late ≠ [] → t.g.sch.run = .compare ∧ t.g.sc = s.g.sc ∧ t.g.la = s.g.la))) ∧
    ∀ (l : Launch) (tick crew gang : Nat) (pc : DWord),
      (l.killed tick crew gang pc why).err.count = min (l.err.count + 1) 0xFFFF ∧
      (l.firstKill = none → (l.killed tick crew gang pc why).err =
        { killPc := pc, crew := crew, gang := gang, count := min (l.err.count + 1) 0xFFFF,
          reason := (match why with | .encoding => 1 | .context | .role => 2),
          kind := (match why with | .encoding | .context => 0x03 | .role => 0x04) })

/-! ## Lane arithmetic (03, 04, 05) -/

/-- R89 to R92, R105, R136: what an LA instruction with results `f` writes, in the participating lanes `m` only. A main-file
or operand-file register receives its word, in each repetition; the latch receives the last repetition's 64 bits, its other
lanes staying when it was valid and zero when it was not, and becomes valid; a predicate receives whether the word is not
zero, but p0; the flags of participating lanes are sticky. Scalar registers and memory do not change. A result of two
words goes to two registers, its upper word to the second, which the next repetition's lower word replaces (R106). -/
def Obligations.LaneWriteRule : Prop :=
  ∀ (s : State) (h : LaHdr) (m : LaneMask) (words : Nat) (f : Nat → Nat → DWord × BitVec 5) (n : Nat), n < 96 →
    words = 1 ∨ words = 2 →
    let t := s.laWrite h m words f
    let last := h.rpt.count - 1
    let word (r : Nat) : Word := if r ≤ last then (f r n).1.extractLsb' 0 32 else (f last n).1.extractLsb' 32 32
    (∀ i r, h.dst = .v i → r < last + words → i.toNat + r < 256 →
      laneAt (t.g.la.vreg (i.toNat + r)) n = if m.getLsbD n then word r else laneAt (s.g.la.vreg (i.toNat + r)) n) ∧
    (∀ i r, h.dst = .o i → r < last + words → i.toNat + r < 8 →
      laneAt (t.g.la.oreg (i.toNat + r)) n = if m.getLsbD n then word r else laneAt (s.g.la.oreg (i.toNat + r)) n) ∧
    laneAt64 (t.g.la.latch h.lt) n = (if m.getLsbD n then (f last n).1
      else if s.g.la.latchValid.getLsbD h.lt.toNat then laneAt64 (s.g.la.latch h.lt) n else 0#64) ∧
    t.g.la.latchValid = s.g.la.latchValid ||| (1#4 <<< h.lt.toNat) ∧
    (∀ q, h.dst = .p q → q ≠ 0#3 → (t.g.pred q).getLsbD n =
      if m.getLsbD n then (f last n).1.extractLsb' 0 32 != 0#32 else (s.g.pred q).getLsbD n) ∧
    t.g.pred 0#3 = ~~~ 0#96 ∧
    (∀ b < 5, t.g.sc.fpFlags.getLsbD b = (s.g.sc.fpFlags.getLsbD b ||
      (List.range h.rpt.count).any (fun r => (List.range 96).any (fun k => m.getLsbD k && (f r k).2.getLsbD b)))) ∧
    (∀ i, (∀ j r, h.dst = .v j → r < last + words → i ≠ j.toNat + r) → i < 256 → t.g.la.vreg i = s.g.la.vreg i) ∧
    (∀ i, (∀ j r, h.dst = .o j → r < last + words → i ≠ j.toNat + r) → i < 8 → t.g.la.oreg i = s.g.la.oreg i) ∧
    t.g.sc.regs = s.g.sc.regs ∧ t.g.sc.pc = s.g.sc.pc ∧ t.mem = s.mem ∧ t.g.la.live = s.g.la.live

/-- R111 to R117: integer lane instructions of two sources, lane by lane; the latch's upper half is clear (R91). R111, R113 to
R116: integer lane instructions of one and of three sources. R112, R117, R118: the lane instructions on pairs, and SEL. -/
def Obligations.LaneIntegerResults : Prop :=
  (∀ (s : State) (h : LaHdr) (z : Bool) (k : Cond) (a : Src) (b : Opnd),
    let u : LaSrcs := { narrow := a :: b.srcs, wide := [] }
    s.laGoes h u 1 = true →
    let t := s.laFrom h u 1
    let done (f : Word → Word → Word) : Out :=
      .next (s.laEnd h u 1 (fun r n => ((f (t.src32 a r n) (t.opnd32 b r n)).setWidth 64, 0#5)))
    exec (.iadd h a b) s = done (fun x y => x + y) ∧
    exec (.isub h a b) s = done (fun x y => x - y) ∧
    exec (.imul h a b) s = done (fun x y => x * y) ∧
    exec (.imulh h z a b) s = done (fun x y =>
      if z then BitVec.ofNat 32 (x.toNat * y.toNat / 2 ^ 32) else BitVec.ofInt 32 (x.toInt * y.toInt / 2 ^ 32)) ∧
    exec (.imin h z a b) s = done (fun x y =>
      if z then BitVec.ofNat 32 (min x.toNat y.toNat) else BitVec.ofInt 32 (min x.toInt y.toInt)) ∧
    exec (.imax h z a b) s = done (fun x y =>
      if z then BitVec.ofNat 32 (max x.toNat y.toNat) else BitVec.ofInt 32 (max x.toInt y.toInt)) ∧
    exec (.iadds h z a b) s = done (fun x y => if z then BitVec.ofNat 32 (min (2 ^ 32 - 1) (x.toNat + y.toNat))
      else BitVec.ofInt 32 (max (-2 ^ 31) (min (2 ^ 31 - 1) (x.toInt + y.toInt)))) ∧
    exec (.isubs h z a b) s = done (fun x y => if z then BitVec.ofNat 32 (x.toNat - y.toNat)
      else BitVec.ofInt 32 (max (-2 ^ 31) (min (2 ^ 31 - 1) (x.toInt - y.toInt)))) ∧
    exec (.iand h a b) s = done (fun x y => x &&& y) ∧
    exec (.ior h a b) s = done (fun x y => x ||| y) ∧
    exec (.ixor h a b) s = done (fun x y => x ^^^ y) ∧
    exec (.iandn h a b) s = done (fun x y => x &&& ~~~ y) ∧
    exec (.ishl h a b) s = done (fun x y => BitVec.ofNat 32 (x.toNat * 2 ^ (y.toNat % 64))) ∧
    exec (.ishr h a b) s = done (fun x y => BitVec.ofNat 32 (x.toNat / 2 ^ (y.toNat % 64))) ∧
    exec (.isra h a b) s = done (fun x y => BitVec.ofInt 32 (x.toInt / 2 ^ (y.toNat % 64))) ∧
    exec (.irol h a b) s = done (fun x y => x <<< (y.toNat % 32) ||| x >>> (32 - y.toNat % 32)) ∧
    exec (.ibext h z a b) s = done (fun x y =>
      let off := y.toNat % 32
      let w := min (y.toNat / 2 ^ 8 % 64) (32 - off)
      let field : Word := BitVec.ofNat 32 (x.toNat / 2 ^ off % 2 ^ w)
      if z = true ∧ 0 < w ∧ field.getLsbD (w - 1) = true then field ||| ~~~ BitVec.ofNat 32 (2 ^ w - 1) else field) ∧
    exec (.icmp h k a b) s = done (fun x y => if k.holds x y then 1#32 else 0#32)) ∧
  ((∀ (s : State) (h : LaHdr) (a : Src),
    let u : LaSrcs := { narrow := [a], wide := [] }
    s.laGoes h u 1 = true →
    let t := s.laFrom h u 1
    let done (f : Word → Word) : Out := .next (s.laEnd h u 1 (fun r n => ((f (t.src32 a r n)).setWidth 64, 0#5)))
    exec (.iabs h a) s = done (fun x => BitVec.ofInt 32 x.toInt.natAbs) ∧
    exec (.iclz h a) s = done clzW ∧
    exec (.ictz h a) s = done ctzW ∧
    exec (.ipopc h a) s = done (fun x => BitVec.ofNat 32 ((List.range 32).countP (fun i => x.getLsbD i))) ∧
    exec (.ibrev h a) s = done brevW) ∧
  (∀ (s : State) (h : LaHdr) (za zb right : Bool) (tt : BitVec 8) (a b c : Src),
    let u : LaSrcs := { narrow := [a, b, c], wide := [] }
    s.laGoes h u 1 = true →
    let t := s.laFrom h u 1
    let done (f : Word → Word → Word → Word) : Out :=
      .next (s.laEnd h u 1 (fun r n => ((f (t.src32 a r n) (t.src32 b r n) (t.src32 c r n)).setWidth 64, 0#5)))
    let byte (z : Bool) (w : Word) (i : Nat) : Int :=
      if z then (w.toNat / 2 ^ (8 * i) % 256 : Nat) else (w.extractLsb' (8 * i) 8).toInt
    exec (.imad h a b c) s = done (fun x y w => x * y + w) ∧
    exec (.idot4 h za zb a b c) s = done (fun x y w => BitVec.ofInt 32 (w.toInt + byte za x 0 * byte zb y 0 +
      byte za x 1 * byte zb y 1 + byte za x 2 * byte zb y 2 + byte za x 3 * byte zb y 3)) ∧
    (∃ g : Word → Word → Word → Word, exec (.ibool3 h a b c tt) s = done g ∧ ∀ x y w, ∀ i < 32,
      (g x y w).getLsbD i = tt.getLsbD
        ((x.getLsbD i).toNat + 2 * (y.getLsbD i).toNat + 4 * (w.getLsbD i).toNat)) ∧
    exec (.ifsh h right a b c) s = done (fun x y w =>
      let v := x.toNat * 2 ^ 32 + y.toNat
      let n := min (w.toNat % 64) 32
      BitVec.ofNat 32 (if right then v / 2 ^ n else v * 2 ^ n / 2 ^ 32)) ∧
    exec (.ibins h a b c) s = done (fun x y w =>
      let off := y.toNat % 32
      let mask : Word := BitVec.ofNat 32 (2 ^ min (y.toNat / 2 ^ 8 % 64) (32 - off) - 1)
      (x &&& ~~~ (mask <<< off)) ||| ((w &&& mask) <<< off)) ∧
    (∃ g : Word → Word → Word → Word, exec (.iperm h a b c) s = done g ∧ ∀ x y w, ∀ i < 4,
      let q := w.toNat / 2 ^ (5 * i) % 32
      let src := (y.toNat * 2 ^ 32 + x.toNat) / 2 ^ (8 * (q % 8)) % 256
      (g x y w).toNat / 2 ^ (8 * i) % 256 =
        (if q / 8 = 0 then src else if q / 8 = 1 then (if 128 ≤ src then 255 else 0) else if q / 8 = 2 then 0 else 255)))) ∧
  ((∀ (s : State) (h : LaHdr) (z : Bool) (a b c : Src),
    let u : LaSrcs := { narrow := [a, b], wide := [c] }
    s.laGoes h u 2 = true →
    let t := s.laFrom h u 2
    exec (.imadw h z a b c) s = .next (s.laEnd h u 2 (fun r n =>
      ((if z then BitVec.ofNat 64 ((t.src32 a r n).toNat * (t.src32 b r n).toNat)
        else BitVec.ofInt 64 ((t.src32 a r n).toInt * (t.src32 b r n).toInt)) + t.src64 c r n, 0#5)))) ∧
  (∀ (s : State) (h : LaHdr) (a : Src) (b : Opnd),
    let u : LaSrcs := { narrow := [], wide := a :: b.srcs }
    s.laGoes h u 2 = true →
    let t := s.laFrom h u 2
    exec (.iaddD h a b) s = .next (s.laEnd h u 2 (fun r n => (t.src64 a r n + t.opnd64 b r n, 0#5))) ∧
    exec (.isubD h a b) s = .next (s.laEnd h u 2 (fun r n => (t.src64 a r n - t.opnd64 b r n, 0#5)))) ∧
  (∀ (s : State) (h : LaHdr) (z : Bool) (k : BitVec 3) (a : Src) (b : Opnd),
    let u : LaSrcs := { narrow := b.srcs, wide := [a] }
    s.laGoes h u 2 = true →
    let t := s.laFrom h u 2
    exec (.ileaD h z k a b) s = .next (s.laEnd h u 2 (fun r n =>
      (BitVec.ofInt 64 ((t.src64 a r n).toNat +
        (if z then ((t.opnd32 b r n).toNat : Int) else (t.opnd32 b r n).toInt) * 2 ^ k.toNat), 0#5)))) ∧
  (∀ (s : State) (h : LaHdr) (neg : Bool) (k : PReg) (a : Src) (b : Opnd),
    let u : LaSrcs := { narrow := a :: b.srcs, wide := [] }
    s.laGoes h u 1 = true →
    let t := s.laFrom h u 1
    exec (.laneSel h neg k a b) s = .next (s.laEnd h u 1 (fun r n =>
      ((if (t.g.pred k).getLsbD n != neg then t.src32 a r n else t.opnd32 b r n).setWidth 64, 0#5)))))

/-- R119 to R127: the floating-point lane instructions complete with the element operation of their type in every lane, and
with the flags it raises. What the operations give is stated in FloatRules. R153 to R155: the conversions complete with the
converted value of every lane and its flags. -/
def Obligations.LaneFloatResults : Prop :=
  ((∀ (s : State) (h : LaHdr) (t : FType) (r : Rnd) (k : FCond) (a : Src) (b : Opnd),
    let u : LaSrcs := { narrow := a :: b.srcs, wide := [] }
    s.laGoes h u 1 = true →
    let v := s.laFrom h u 1
    let done (g : FFmt → Nat → Nat → Nat × BitVec 5) : Out :=
      .next (s.laEnd h u 1 (fun i n => byType2 t g (v.src32 a i n) (v.opnd32 b i n)))
    exec (.fadd h t r a b) s = done (fun f x y => f.add r x y) ∧
    exec (.fsub h t r a b) s = done (fun f x y => f.sub r x y) ∧
    exec (.fmul h t r a b) s = done (fun f x y => f.mul r x y) ∧
    exec (.fmin h t a b) s = done (fun f x y => f.minMax false x y) ∧
    exec (.fmax h t a b) s = done (fun f x y => f.minMax true x y) ∧
    exec (.fcmp h t k a b) s = done (fun f x y => (if (f.compare k x y).1 then 1 else 0, (f.compare k x y).2))) ∧
  (∀ (s : State) (h : LaHdr) (t : FType) (r : Rnd) (np nc bf : Bool) (a b c : Src),
    let u : LaSrcs := { narrow := [a, b, c], wide := [] }
    s.laGoes h u 1 = true →
    let v := s.laFrom h u 1
    exec (.ffma h t r np nc a b c) s = .next (s.laEnd h u 1 (fun i n =>
      byType3 t (fun f x y z => f.fma r np nc x y z) (v.src32 a i n) (v.src32 b i n) (v.src32 c i n))) ∧
    exec (.fdot2 h bf r a b c) s = .next (s.laEnd h u 1 (fun i n =>
      dot2 bf r (v.src32 a i n) (v.src32 b i n) (v.src32 c i n)))) ∧
  (∀ (s : State) (h : LaHdr) (t : FType) (a : Src),
    let v := s.laFrom h { narrow := [a], wide := [] } 1
    let w := s.laFrom h { narrow := [a, a], wide := [] } 1
    let done (g : Nat → Nat × BitVec 5) : Out := .next (s.laEnd h { narrow := [a], wide := [] } 1 (fun i n =>
      (BitVec.ofNat 64 (g (v.src32 a i n).toNat).1, (g (v.src32 a i n).toNat).2)))
    (s.laGoes h { narrow := [a, a], wide := [] } 1 = true →
      exec (.fclass h t a) s = .next (s.laEnd h { narrow := [a, a], wide := [] } 1 (fun i n =>
        byType2 t (fun f x _ => (2 ^ f.classBit x, 0#5)) (w.src32 a i n) (w.src32 a i n)))) ∧
    (s.laGoes h { narrow := [a], wide := [] } 1 = true →
      exec (.frcp h a) s = done frcpF ∧ exec (.frsq h a) s = done frsqF ∧ exec (.fsqrt h a) s = done fsqrtF ∧
      exec (.fex2 h a) s = done fex2F ∧ exec (.flg2 h a) s = done flg2F ∧ exec (.fsin h a) s = done fsinF ∧
      exec (.fcos h a) s = done fcosF ∧ exec (.ftanh h a) s = done ftanhF))) ∧
  ((∀ (s : State) (h : LaHdr) (dst src : CvtType) (r : Rnd) (e1 : Bool) (a b : Src),
    let u : LaSrcs := { narrow := cvtSrcs dst src a b, wide := [] }
    s.laGoes h u 1 = true →
    let v := s.laFrom h u 1
    exec (.cvt h dst src r e1 a b) s = .next (s.laEnd h u 1 (fun i n =>
      cvtLane dst src r e1 (v.src32 a i n) (v.src32 b i n)))) ∧
  (∀ (s : State) (h : LaHdr) (dst src : CvtType) (r : Rnd) (a : Src) (b : Opnd),
    let u : LaSrcs := { narrow := a :: b.srcs, wide := [] }
    s.laGoes h u 1 = true →
    let v := s.laFrom h u 1
    exec (.cvtbApply h dst src r a b) s = .next (s.laEnd h u 1 (fun i n =>
      cvtbLane dst src r (v.src32 a i n) (v.opnd32 b i n)))) ∧
  (∀ (s : State) (h : LaHdr) (dst : CvtType) (a : Src),
    let u : LaSrcs := { narrow := [a], wide := [] }
    s.laGoes h u 1 = true →
    let v := s.laFrom h u 1
    exec (.cvtbScale h dst a) s = .next (s.laEnd h u 1 (fun i n => (cvtbScaleLane dst (v.src32 a i n), 0#5)))))

/-- R128, R129, R133 to R135: moves, swizzles, predicate logic, predicate moves and lineage reads. A lane that does not exist
gives 0 to SWZ. R130, R131: POLL reduces over the participating lanes, LREAD reads one lane for all, LWRITE writes one lane. A
scalar destination of POLL is written whatever participates, one of LREAD only when some lane participates. -/
def Obligations.LaneMoveResults : Prop :=
  ((∀ (s : State) (h : LaHdr) (a : Opnd),
    let u : LaSrcs := { narrow := a.srcs, wide := [] }
    s.laGoes h u 1 = true →
    exec (.mov h a) s = .next (s.laEnd h u 1 (fun r n => (((s.laFrom h u 1).opnd32 a r n).setWidth 64, 0#5)))) ∧
  (∀ (s : State) (h : LaHdr) (m : SwzMode) (w : SwzWidth) (a : Src) (b : Opnd),
    let u : LaSrcs := { narrow := a :: b.srcs, wide := [] }
    s.laGoes h u 1 = true →
    let t := s.laFrom h u 1
    let size : Nat := match w with | .w2 => 2 | .w4 => 4 | .w8 => 8 | .w16 => 16 | .w32 => 32 | .w48 => 48 | .w96 => 96
    let source (n : Nat) (x : Word) : Nat :=
      let base := n / size * size
      match m with
      | .pick => base + x.toNat % size
      | .slide => if (base : Int) ≤ n + x.toInt ∧ n + x.toInt < base + size then (n + x.toInt).toNat else n
      | .turn => base + ((n - base + x.toInt) % size).toNat
      | .flip => if (n - base) ^^^ x.toNat < size then base + ((n - base) ^^^ x.toNat) else n
    exec (.swz h m w a b) s = .next (s.laEnd h u 1 (fun r n =>
      let l := source n (t.opnd32 b r n)
      ((if t.g.la.present.getLsbD l then t.src32 a r l else 0#32).setWidth 64, 0#5)))) ∧
  (∀ (s : State) (h : LaHdr) (pa pb pc : PReg) (tt : BitVec 8),
    let u : LaSrcs := { narrow := [], wide := [] }
    s.laGoes h u 1 = true →
    let t := s.laFrom h u 1
    let bit (p : PReg) (n : Nat) : Nat := ((t.g.pred p).getLsbD n).toNat
    exec (.plog h pa pb pc tt) s = .next (s.laEnd h u 1 (fun _ n =>
      ((if tt.getLsbD (bit pa n + 2 * bit pb n + 4 * bit pc n) then 1#32 else 0#32).setWidth 64, 0#5))) ∧
    exec (.pmovP h) s = .next (s.laEnd h u 1 (fun _ n => ((BitVec.ofNat 32
      (bit 0#3 n + 2 * bit 1#3 n + 4 * bit 2#3 n + 8 * bit 3#3 n + 16 * bit 4#3 n + 32 * bit 5#3 n + 64 * bit 6#3 n +
        128 * bit 7#3 n)).setWidth 64, 0#5)))) ∧
  (∀ (s : State) (h : LaHdr) (mask : BitVec 7) (a : Src),
    let u : LaSrcs := { narrow := [a], wide := [] }
    s.laGoes h u 1 = true →
    let t := s.laFrom h u 1
    ∃ t', exec (.pmovU h mask a) s = .next t' ∧ t'.g.sc.pc = s.g.sc.pc + 12#64 ∧ t'.mem = s.mem ∧
      ∀ i n, i < 7 → n < 96 → (h.dst = .nw ∨ ∃ v, h.dst = .v v) →
        (t'.g.pred (BitVec.ofNat 3 (i + 1))).getLsbD n =
          if mask.getLsbD i && (t.g.part h.guard).getLsbD n then (t.src32 a 0 n).getLsbD (i + 1)
          else (t.g.pred (BitVec.ofNat 3 (i + 1))).getLsbD n) ∧
  (∀ (s : State) (h : LaHdr) (part : LinePart),
    let u : LaSrcs := { narrow := [], wide := [] }
    let words := if part = .all then 2 else 1
    s.packet.isPopulation = true → s.laGoes h u words = true →
    let t := s.laFrom h u words
    exec (.pline h part) s = .next (s.laEnd h u words (fun _ n =>
      let v := laneAt64 t.g.la.lineage n
      (match part with
       | .all => v
       | .gen => BitVec.ofNat 64 (v.toNat / 2 ^ 48)
       | .orig => BitVec.ofNat 64 (v.toNat / 2 ^ 24 % 2 ^ 24)
       | .serial => BitVec.ofNat 64 (v.toNat % 2 ^ 24), 0#5))))) ∧
  ((∀ (s : State) (h : LaHdr) (m : PollMode) (a : Src),
    let u : LaSrcs := { narrow := [a], wide := [] }
    s.laGoes h u 1 = true →
    let t := s.laFrom h u 1
    let p := t.g.part h.guard
    let set (r n : Nat) : Bool := p.getLsbD n && t.src32 a r n != 0#32
    let value (r : Nat) : Word := match m with
      | .someLane => if (List.range 96).any (set r) then 1#32 else 0#32
      | .everyLane => if (List.range 96).all (fun n => !p.getLsbD n || set r n) then 1#32 else 0#32
      | .mask k => BitVec.ofNat 32 ((List.range 32).foldl (fun v i => if set r (32 * k.toNat + i) then v + 2 ^ i else v) 0)
      | .count => BitVec.ofNat 32 ((List.range 96).countP (set r))
    (∀ d, h.dst = .s d → ∃ t', exec (.poll h m a) s = .next t' ∧ t'.g.sc.pc = s.g.sc.pc + 12#64 ∧
      ∀ r, t'.rd r = (t.wr d (value (h.rpt.count - 1))).rd r) ∧
    ((∀ d, h.dst ≠ .s d) → exec (.poll h m a) s = .next (s.laEnd h u 1 (fun r _ => ((value r).setWidth 64, 0#5))))) ∧
  (∀ (s : State) (h : LaHdr) (a : Src) (b : Opnd),
    let u : LaSrcs := { narrow := a :: b.srcs, wide := [] }
    s.laGoes h u 1 = true →
    let t := s.laFrom h u 1
    let p := t.g.part h.guard
    let value (r : Nat) : Word :=
      let l := (t.opnd32 b r 0).toNat
      if t.g.la.present.getLsbD l then t.src32 a r l else 0#32
    (∀ d, h.dst = .s d → ∃ t', exec (.lread h a b) s = .next t' ∧ t'.g.sc.pc = s.g.sc.pc + 12#64 ∧
      ∀ r, t'.rd r = if p = 0#96 then s.rd r else (t.wr d (value (h.rpt.count - 1))).rd r) ∧
    ((∀ d, h.dst ≠ .s d) → exec (.lread h a b) s = .next (s.laEnd h u 1 (fun r _ => ((value r).setWidth 64, 0#5))))) ∧
  (∀ (s : State) (h : LaHdr) (a : Src) (b : Opnd) (i : BitVec 8),
    let u : LaSrcs := { narrow := a :: b.srcs, wide := [] }
    s.laGoes h u 1 = true → h.dst = .v i → h.rpt.count = 1 →
    let t := s.laFrom h u 1
    let lane := (t.opnd32 b 0 0).toNat
    ∃ t', exec (.lwrite h a b) s = .next t' ∧ t'.g.sc.pc = s.g.sc.pc + 12#64 ∧ t'.mem = s.mem ∧
      ∀ n < 96, laneAt (t'.g.la.vreg i.toNat) n =
        if n = lane ∧ (t.g.part h.guard).getLsbD n = true then t.src32 a 0 n else laneAt (s.g.la.vreg i.toNat) n))

/-! ## Lane memory (08) -/

/-- R236: the order of an LM instruction's lane checks. Where some lane's access faults and none waits, the fault raised is
that of the lowest such lane, and its lane mask names exactly the faulting lanes. R234, R236: an LM instruction whose check
fails raises that fault and has no effect of its own; a store whose registers are not declared is an illegal context (R30). -/
def Obligations.LaneMemoryFaults : Prop :=
  (∀ (p : LaneMask) (f : Nat → Except Fail Landing) (n : Nat) (i : FaultInfo), n < 96 → p.getLsbD n = true →
    f n = .error (.fault i) → (∀ m < n, p.getLsbD m = true → ∃ l, f m = .ok l) →
    (∀ m r, p.getLsbD m = true → f m ≠ .error (.wait r)) →
    ∃ mask, checkLanes p f = .error (.fault { i with lanes := mask }) ∧
      ∀ m < 96, mask.getLsbD m = (p.getLsbD m && (match f m with | .error _ => true | .ok _ => false))) ∧
  (∀ (s : State) (h : LmHdr) (z : MemSize) (g : Bool) (d : Dst) (lt : BitVec 2) (src : Src) (f : FaultInfo),
    (let t := s.begun (lmUses h false [] (d.regs z.words 0))
     let p := t.g.part h.guard
     s.goes (lmUses h false [] (d.regs z.words 0)) = true → s.lmFits h [] d z.words = true → p ≠ 0#96 →
       checkLanes p (fun n => t.lmCheck false .read .load z.bytes (t.laneAddress h.addr n)) = .error (.fault f) →
       exec (.ld h z g d lt) s = .next (t.raise f)) ∧
    (let t := s.begun (lmUses h false (dataRegs src z) [])
     let p := t.g.part h.guard
     s.goes (lmUses h false (dataRegs src z) []) = true → s.lmFits h [(src, z.words)] .nw 0 = true → p ≠ 0#96 →
       checkLanes p (fun n => t.lmCheck false .write .store z.bytes (t.laneAddress h.addr n)) = .error (.fault f) →
       exec (.st h z src) s = .next (t.raise f)) ∧
    (∀ u : Uses, (s.begun u).mem = s.mem ∧ (s.begun u).g.sc = s.g.sc) ∧
    (s.lmFits h [] d z.words = false → exec (.ld h z g d lt) s = .next (s.kill .context)) ∧
    (s.lmFits h [(src, z.words)] .nw 0 = false → exec (.st h z src) s = .next (s.kill .context)))

/-- R238, R244: LD and LDL whose lanes pass their checks, on this device. Each participating lane's destination receives its
value with its extension, the latch data too, where the load reads at its issue (`late` is the model's choice of when, log entry
6); no other lane, no scalar register and no byte of memory changes, and the destination waits for its data (R93). -/
def Obligations.LaneLoadResults : Prop :=
  ∀ (s : State) (h : LmHdr) (z : MemSize) (g : Bool) (d : Dst) (lt : BitVec 2) (ls : List (Nat × Landing)),
    let u := lmUses h false [] (d.regs z.words 0)
    let t := s.begun u
    let p := t.g.part h.guard
    let done (offset : Bool) (o : Out) : Prop :=
      checkLanes p (fun n => t.lmCheck offset .read .load z.bytes (t.laneAddress h.addr n)) = .ok ls →
      ∃ t' : State, o = .next t' ∧ t'.g.sc.pc = s.g.sc.pc + 12#64 ∧ t'.mem = s.mem ∧ t'.g.sc.regs = s.g.sc.regs ∧
        t'.g.sc.conds = s.g.sc.conds ∧ t'.g.la.preds = s.g.la.preds ∧
        let value (l : Landing) (j : Nat) : Word :=
          let v := t.ownValue l.bytes
          match z with
          | .b => if g then (BitVec.ofNat 8 v).signExtend 32 else BitVec.ofNat 32 v
          | .h => if g then (BitVec.ofNat 16 v).signExtend 32 else BitVec.ofNat 32 v
          | .w | .d | .q => BitVec.ofNat 32 (v / 2 ^ (32 * j))
        (∀ i j n, s.late = false → j < z.words → n < 96 →
          (d = .v i → i.toNat + j < 256 → laneAt (t'.g.la.vreg (i.toNat + j)) n =
            match ls.find? (fun x => x.1 == n) with
            | some x => value x.2 j
            | none => laneAt (s.g.la.vreg (i.toNat + j)) n)) ∧
        (∀ i j n, s.late = false → j < z.words → n < 96 →
          (d = .o i → i.toNat + j < 8 → laneAt (t'.g.la.oreg (i.toNat + j)) n =
            match ls.find? (fun x => x.1 == n) with
            | some x => value x.2 j
            | none => laneAt (s.g.la.oreg (i.toNat + j)) n)) ∧
        (s.late = false → ∀ n < 96, laneAt64 (t'.g.la.latch lt) n = match ls.find? (fun x => x.1 == n) with
          | some x => (if z.words = 1 then 0#32 else value x.2 1) ++ value x.2 0
          | none => laneAt64 (s.g.la.latch lt) n) ∧
        ((∀ i, d ≠ .v i) → t'.g.la.v = s.g.la.v) ∧ ((∀ i, d ≠ .o i) → t'.g.la.o = s.g.la.o) ∧
        ∀ r ∈ d.regs z.words 0, r.real = true → r ∈ t'.g.bd.pending
    s.lmFits h [] d z.words = true → s.goes u = true → (∀ x ∈ ls, ∀ b ∈ x.2.bytes, b.remote = none) →
    t.lateAt ((ls.map (fun x => x.2.bytes)).flatten) = [] → (z = .w ∨ z = .d ∨ z = .q → g = false) →
    (∀ q, d ≠ .p q) → done false (exec (.ld h z g d lt) s) ∧ done true (exec (.ldl h z g d lt) s)

/-- R237, R239, R244: ST and STL whose lanes pass their checks, on this device, outside Plumb and transactions. Exactly the
bytes of the participating lanes receive the low bytes of the data, the highest lane winning; with `defer` the gang's own
loads find them so and memory is unchanged (R77, R291). They come after loads of those bytes that have not read their homes yet
(log entry 6). -/
def Obligations.LaneStoreResults : Prop :=
  ∀ (s : State) (h : LmHdr) (z : MemSize) (src : Src) (ls : List (Nat × Landing)), s.packet.plumb = false →
    s.g.txn = none → (∀ x ∈ ls, x.2.here = true) → oneName (ls.map Prod.snd) →
    let u := lmUses h false (dataRegs src z) []
    s.lmFits h [(src, z.words)] .nw 0 = true → s.goes u = true →
    let t := s.begun u
    let p := t.g.part h.guard
    let items := ls.map (fun x => (x.2, t.dataValue src z x.1))
    let done (offset : Bool) (o : Out) : Prop :=
      checkLanes p (fun n => t.lmCheck offset .write .store z.bytes (t.laneAddress h.addr n)) = .ok ls →
      t.storeWaits (ls.map Prod.snd) = [] →
      ∃ t' : State, o = .next t' ∧ t'.g.sc.pc = s.g.sc.pc + 12#64 ∧ t'.g.sc.regs = s.g.sc.regs ∧ t'.g.sc.conds = s.g.sc.conds ∧
        t'.g.la = t.g.la ∧
        (s.defer = true → t'.mem = s.mem ∧ ∀ i l v j q, items[i]? = some (l, v) → l.bytes[j]? = some q →
          (∀ y ∈ items.drop (i + 1), q ∉ y.1.bytes) → t'.queuedByte s.g.ref q = some (BitVec.ofNat 8 (v / 256 ^ j))) ∧
        (s.defer = false → s.wq = [] → s.storedAll t' items)
    done false (exec (.st h z src) s) ∧ done true (exec (.stl h z src) s)

/-- R243, R244: ATOM and ATOML whose lanes pass their checks, on this device, outside Plumb and transactions, with no write
under way. The lanes act one after another in rising order: each receives what its word or double word held and stores the
operation's value there; a CAS whose comparison fails stores nothing. -/
def Obligations.LaneAtomicResults : Prop :=
  ∀ (s : State) (h : LmHdr) (f : AtomOp) (z : MemSize) (d : Dst) (lt : BitVec 2) (src : Src) (ls : List (Nat × Landing)),
    s.packet.plumb = false → s.g.txn = none → s.wq = [] → (∀ x ∈ ls, x.2.here = true) →
    (z = .w ∨ (z = .d ∧ f ≠ .fadd)) → (∀ q, d ≠ .p q) → (∀ q, d ≠ .s q) → (f = .cas → d ≠ .nw) →
    let old? := (match expectSrc f d with | some a => [a] | none => [])
    let u := lmUses h true (dataRegs src z ++ (old?.map (fun a => dataRegs a z)).flatten) (d.regs z.words 0)
    s.lmFits h [(src, z.words)] d z.words = true → s.goes u = true →
    let t := s.begun u
    let p := t.g.part h.guard
    let done (offset : Bool) (o : Out) : Prop :=
      checkLanes p (fun n => t.lmCheck offset .atomic .atomic z.bytes (t.laneAddress h.addr n)) = .ok ls →
      ∃ (t' : State) (m : Nat → Nat → Byte), o = .next t' ∧ t'.g.sc.pc = s.g.sc.pc + 12#64 ∧ t'.g.sc.regs = s.g.sc.regs ∧ m 0 = s.mem.get ∧
        (∀ k, t'.mem.get k = m ls.length k) ∧
        ∀ i lane l, ls[i]? = some (lane, l) →
          let old := leValue (l.bytes.map (fun b => m i (b.key.getD 0)))
          let x : BitVec (8 * z.bytes) := BitVec.ofNat _ old
          let y : BitVec (8 * z.bytes) := BitVec.ofNat _ (t.dataValue src z lane)
          let e : BitVec (8 * z.bytes) := BitVec.ofNat _ (match d with
            | .v r => t.dataValue (.v r) z lane
            | .o r => t.dataValue (.o r) z lane
            | _ => 0)
          let new : Option (BitVec (8 * z.bytes)) := match f with
            | .add => some (x + y)
            | .and => some (x &&& y)
            | .or => some (x ||| y)
            | .xor => some (x ^^^ y)
            | .minS => some (if x.toInt ≤ y.toInt then x else y)
            | .minZ => some (if x.toNat ≤ y.toNat then x else y)
            | .maxS => some (if x.toInt ≤ y.toInt then y else x)
            | .maxZ => some (if x.toNat ≤ y.toNat then y else x)
            | .exch => some y
            | .cas => if x = e then some y else none
            | .fadd => some (BitVec.ofNat _ (f32.add .rn old (t.dataValue src z lane)).1)
          (∀ j k, (l.bytes[j]?).bind Place.key = some k → ¬ l.marks k → m (i + 1) k =
            match new with
            | some v => BitVec.ofNat 8 (v.toNat / 256 ^ j)
            | none => m i k) ∧
          (∀ k, ¬ l.names k → ¬ l.marks k → ¬ s.tookCopy t' k → m (i + 1) k = m i k) ∧
          ∀ j, j < z.words →
            (∀ r, d = .v r → r.toNat + j < 256 → laneAt (t'.g.la.vreg (r.toNat + j)) lane = BitVec.ofNat 32 (old / 2 ^ (32 * j))) ∧
            (∀ r, d = .o r → r.toNat + j < 8 → laneAt (t'.g.la.oreg (r.toNat + j)) lane = BitVec.ofNat 32 (old / 2 ^ (32 * j)))
    done false (exec (.atom h f z d lt src) s) ∧ done true (exec (.atoml h f z d lt src) s)

/-- R240 to R242, R146 to R148, R250: LDF reads elements of formatted pages as register images with their flags and changes no
byte of memory; STF stores the elements of the data, one T6 element as a change of six bits of its group; PRF completes and
changes neither registers nor memory; a latch that it names as its index and that is invalid sets LATCHLOST (R95). Element accesses
come after loads of their bytes that have not read their homes yet (log entry 6). -/
def Obligations.LaneElementResults : Prop :=
  (∀ (s : State) (h : LmHdr) (pos : BitVec 2) (d : Dst) (lt : BitVec 2) (ls : List (Nat × ElemAcc)),
    (∀ q, d ≠ .p q) → (∀ q, d ≠ .s q) →
    let u := lmUses h false [] (d.regs 1 0)
    let t := s.begun u
    s.lmFits h [] d 1 = true → s.goes u = true →
    t.lineBusy ((ls.map (fun x => x.2.land.bytes ++ x.2.scale.toList)).flatten) = false →
    t.lateAt ((ls.map (fun x => x.2.land.bytes ++ x.2.scale.toList)).flatten) = [] →
    checkLanes (t.g.part h.guard) (fun n => t.checkElem .read (t.elemBase h.addr pos n).1 (t.elemBase h.addr pos n).2) = .ok ls →
    let image (n : Nat) (w : Word) : Word := match ls.find? (fun x => x.1 == n) with
      | some x =>
        let v := t.ownValue x.2.land.bytes
        (elementImage x.2.fmt (if x.2.fmt = 5 then v / 2 ^ (6 * x.2.pos) % 64 else v) (t.scaleOf x.2)).1
      | none => w
    ∃ t' : State, exec (.ldf h pos d lt) s = .next t' ∧ t'.g.sc.pc = s.g.sc.pc + 12#64 ∧ t'.mem = s.mem ∧
      t'.g.sc.regs = s.g.sc.regs ∧ t'.g.la.preds = s.g.la.preds ∧
      (∀ i n, d = .v i → n < 96 → laneAt (t'.g.la.vreg i.toNat) n = image n (laneAt (s.g.la.vreg i.toNat) n)) ∧
      (∀ i n, d = .o i → n < 96 → laneAt (t'.g.la.oreg i.toNat) n = image n (laneAt (s.g.la.oreg i.toNat) n)) ∧
      ((∀ i, d ≠ .v i) → t'.g.la.v = s.g.la.v) ∧ ((∀ i, d ≠ .o i) → t'.g.la.o = s.g.la.o) ∧
      (∀ n < 96, (∃ x ∈ ls, x.1 = n) → laneAt64 (t'.g.la.latch lt) n = (image n 0#32).setWidth 64) ∧
      ∀ b < 5, t'.g.sc.fpFlags.getLsbD b = (s.g.sc.fpFlags.getLsbD b || ls.any (fun x => (t.elemImage x.2).2.getLsbD b))) ∧
  (∀ (s : State) (h : LmHdr) (pos : BitVec 2) (src : Src) (ls : List (Nat × ElemAcc)),
    s.packet.plumb = false → s.g.txn = none → (∀ x ∈ ls, x.2.land.here = true) → oneName (ls.map (fun x => x.2.land)) →
    let u := lmUses h false (dataRegs src .w) []
    let t := s.begun u
    s.lmFits h [(src, 1)] .nw 0 = true → s.goes u = true →
    t.lineBusy ((ls.map (fun x => x.2.scale.toList)).flatten) = false →
    t.lateAt ((ls.map (fun x => x.2.scale.toList)).flatten) = [] → t.storeWaits (ls.map (fun x => x.2.land)) = [] →
    checkLanes (t.g.part h.guard) (fun n => t.checkElem .write (t.elemBase h.addr pos n).1 (t.elemBase h.addr pos n).2) = .ok ls →
    let item (x : Nat × ElemAcc) : Nat × BitVec 5 := imageElement x.2.fmt (t.dataWord src 1 x.1 0) (t.scaleOf x.2)
    ∃ t' : State, exec (.stf h pos src) s = .next t' ∧ t'.g.sc.pc = s.g.sc.pc + 12#64 ∧ t'.g.sc.regs = s.g.sc.regs ∧ t'.g.la = t.g.la ∧
      (s.wq = [] → s.defer = false → (∀ x ∈ ls, x.2.fmt ≠ 5) → s.storedAll t' (ls.map (fun x => (x.2.land, (item x).1)))) ∧
      (∀ x, s.wq = [] → ls = [x] → x.2.fmt = 5 → x.2.pos < 4 →
        let old := t.ownValue x.2.land.bytes
        s.stored t' x.2.land
          (old - old / 2 ^ (6 * x.2.pos) % 64 * 2 ^ (6 * x.2.pos) + (item x).1 % 64 * 2 ^ (6 * x.2.pos))) ∧
      ∀ b < 5, t'.g.sc.fpFlags.getLsbD b = (s.g.sc.fpFlags.getLsbD b || ls.any (fun x => (item x).2.getLsbD b))) ∧
  (∀ (s : State) (h : LmHdr), s.lmFits h [] .nw 0 = true → s.goes (lmUses h false [] []) = true →
    ∃ t' : State, exec (.prf h) s = .next t' ∧ t'.g.sc.pc = s.g.sc.pc + 12#64 ∧ t'.mem = s.mem ∧ t'.g.sc.regs = s.g.sc.regs ∧
      t'.g.la = (s.begun (lmUses h false [] [])).g.la ∧
      let p := (s.begun (lmUses h false [] [])).g.part h.guard
      let bad := ((h.addr.narrow.map Src.latch).flatten ++ (h.addr.wide.map Src.latch).flatten).any (fun i =>
        !(s.begun (lmUses h false [] [])).g.la.latchValid.getLsbD i.toNat)
      t'.g.sc = { s.g.sc with pc := s.g.sc.pc + 12#64, latchLost := s.g.sc.latchLost || (p != 0#96 && bad) })

/-! ## Binders, synchronisation and system instructions (07, 08, 10, 15, 16) -/

/-- R284, R285, R297, R298: BIND and UNBIND outside Plumb past the checks of their binder, by the order of their results. A
region takes the lowest free entry of the region table; the lowest entry in use with the region's base becomes free. Nothing
else of memory changes. -/
def Obligations.BindResults : Prop :=
  ∀ (s t2 : State) (t : SReg) (x y z : Pair) (l : Landing), s.packet.plumb = false →
    let ub := Uses.switching (pairRegs x ++ pairRegs y ++ pairRegs z) [.s t]
    let uu := Uses.switching (pairRegs x ++ pairRegs y) [.s t]
    let b := t2.binderAt l.bytes
    let ends (o : Out) (v : Word) : Prop := s.passes o 12 (s.wr t v) (fun t' => t'.mem = t2.mem)
    let length (v i : Nat) : Nat := v / 2 ^ (128 * i) % 2 ^ 40
    let base (v i : Nat) : Nat := v / 2 ^ (128 * i + 64) % 2 ^ 64
    let table (t3 : State) (m : Landing) : Nat := leValue (m.bytes.map t3.homeByte)
    let early (o : Out) : Prop :=
      (b.bad = true → ends o 0x105#32) ∧
      (b.bad = false → b.held = true → t2.holds s.g.ref b = false → ends o 0x101#32) ∧
      (b.bad = false → (b.held = true → t2.holds s.g.ref b = true) → b.regtab = 0#64 → ends o 0x102#32)
    let ready : Prop := b.bad = false ∧ (b.held = true → t2.holds s.g.ref b = true) ∧ b.regtab ≠ 0#64
    (s.goes ub = true → (s.begun ub).checkHome .atomic .atomic 32 32 (s.rdP x) = .ok (t2, l) →
      let o := exec (.bind t x y z) s
      early o ∧
      (ready → (s.rdP z = 0#64 ∨ 2 ^ 40 ≤ (s.rdP z).toNat) → ends o 0x103#32) ∧
      (ready → s.rdP z ≠ 0#64 → (s.rdP z).toNat < 2 ^ 40 → ∀ t3 m, t2.checkHome .readWrite .atomic 96 16 b.regtab = .ok (t3, m) →
        let v := table t3 m
        ((∀ i < 6, length v i ≠ 0) → s.passes o 12 (s.wr t 0x100#32) (fun t' => t'.mem = t3.mem)) ∧
        (∀ i < 6, length v i = 0 → (∀ j < i, length v j ≠ 0) → m.here = true → m.bytes.length = 96 →
          s.passes o 12 (s.wr t (BitVec.ofNat 32 i)) (fun t' => ∃ w, t3.stored t' m w ∧
            w / 2 ^ (128 * i) % 2 ^ 128 = (s.rdP y).toNat * 2 ^ 64 + (s.rdP z).toNat ∧
            ∀ j < 6, j ≠ i → w / 2 ^ (128 * j) % 2 ^ 128 = v / 2 ^ (128 * j) % 2 ^ 128)))) ∧
    (s.goes uu = true → (s.begun uu).checkHome .atomic .atomic 32 32 (s.rdP x) = .ok (t2, l) →
      let o := exec (.unbind t x y) s
      early o ∧
      (ready → ∀ t3 m, t2.checkHome .readWrite .atomic 96 16 b.regtab = .ok (t3, m) →
        let v := table t3 m
        let mine (i : Nat) : Prop := length v i ≠ 0 ∧ base v i = (s.rdP y).toNat
        ((∀ i < 6, ¬ mine i) → s.passes o 12 (s.wr t 0x104#32) (fun t' => t'.mem = t3.mem)) ∧
        (∀ i < 6, mine i → (∀ j < i, ¬ mine j) → m.here = true → m.bytes.length = 96 →
          s.passes o 12 (s.wr t (BitVec.ofNat 32 i)) (fun t' => ∃ w, t3.stored t' m w ∧ length w i = 0 ∧ base w i = base v i ∧
            ∀ j < 6, j ≠ i → w / 2 ^ (128 * j) % 2 ^ 128 = v / 2 ^ (128 * j) % 2 ^ 128))))

/-- R299, R302: ACQ and ACQ.OBS outside Plumb past the checks of their binder. A free binder that no earlier ACQ waits for is
taken: its holder is this gang and its sequence number has risen by one. Where it must wait, the gang waits inside the
instruction; with a deadline passed it ends with 1. The deadline is TIME at issue plus the time-out, a number that does not wrap
(log entry 79), and an ACQ of a gang whose crew is saved keeps its place before later ones (log entry 99). R299: ACQ_RETRY lets the
waiting gang try again at the home, where it is checked again; so does ACQ_TIMEOUT once the deadline has passed, and it ends the ACQ
with 1 where the binder is still not to be had; a crew that is saved, or whose launch is halted, does not go on (R303, 20 R477). Stated
for the gang whose context is selected; the other gangs keep theirs. -/
def Obligations.AcquireResults : Prop :=
  (∀ (s t2 : State) (t : SReg) (x : Pair) (tout : Option Pair) (l : Landing), s.packet.plumb = false →
    let ua := Uses.switching (pairRegs x ++ optRegs tout) [.s t]
    let uo := Uses.switching (pairRegs x) [.s t]
    let b := t2.binderAt l.bytes
    let ends (o : Out) (v : Word) : Prop :=
      s.passes o 12 (s.wr t v) (fun t' => t'.mem = t2.mem ∧ t'.g.held = t2.g.held)
    (s.goes ua = true → (s.begun ua).checkHome .atomic .atomic 32 32 (s.rdP x) = .ok (t2, l) →
      let o := exec (.acq t x tout) s
      let due := (t2.view t2.myIface).toNat + (match tout with | some p => (s.rdP p).toNat | none => 0)
      (b.bad = true → ends o 0x105#32) ∧
      (b.bad = false → 16 ≤ t2.g.held.length → ends o 3#32) ∧
      (b.bad = false → t2.g.held.length < 16 → t2.holds s.g.ref b = true → ends o 2#32) ∧
      (b.bad = false → t2.g.held.length < 16 → b.held = false → t2.acqBefore l t2.nextId = false → l.here = true → l.bytes.length = 32 →
        s.passes o 12 (s.wr t 0#32) (fun t' => t'.g.held = t2.g.held ++ l.bytes.head?.toList ∧
          ∃ c : Binder, t2.stored t' l c.value ∧ t'.holds s.g.ref c = true ∧ c.acqSeq = b.acqSeq + 1#32 ∧ c.count = b.count ∧
            c.regtab = b.regtab ∧ c.scope = b.scope)) ∧
      (b.bad = false → t2.g.held.length < 16 → t2.holds s.g.ref b = false → (b.held = true ∨ t2.acqBefore l t2.nextId = true) →
        (tout ≠ none → due ≤ (t2.view t2.myIface).toNat → ends o 1#32) ∧
        ((tout = none ∨ (t2.view t2.myIface).toNat < due) → ∃ t', o = .next t' ∧ (∀ r, t'.rd r = s.rd r) ∧ t'.g.sc.pc = s.g.sc.pc ∧
          t'.mem = t2.mem ∧ t'.g.sch.run = .acq t x (tout.map (fun _ => due)) t2.nextId ∧ t'.g.sch.reissue = true))) ∧
    (s.goes uo = true → (s.begun uo).checkHome .read .atomic 32 32 (s.rdP x) = .ok (t2, l) →
      let o := exec (.acqObs t x) s
      (b.bad = true → ends o 0x105#32) ∧
      (b.bad = false → b.held = false → ends o 0#32) ∧
      (b.bad = false → b.held = true → ends o (if t2.holds s.g.ref b then 2#32 else 0x010#32)))) ∧
  (∀ (s : State) (t : SReg) (x : Pair) (d : Option Nat) (n : Nat), s.g.sch.run = .acq t x d n → s.packet.plumb = false →
    let ended (w : State) (v : Word) (t' : State) : Prop :=
      (∀ r, t'.rd r = (w.wr t v).rd r) ∧ t'.g.sc.pc = s.g.sc.pc + 12#64 ∧ t'.g.sch.run = .ready ∧ t'.gangs = w.gangs
    (s.mayGoOn s.g.ref = false → exec (.acqTimeout s.g.ref) s = .next s ∧ exec (.acqRetry s.g.ref) s = .next s) ∧
    (s.mayGoOn s.g.ref = true → (∀ due, d = some due → (s.view s.myIface).toNat < due) → exec (.acqTimeout s.g.ref) s = .next s) ∧
    (∀ t2 l, s.mayGoOn s.g.ref = true → s.checkHome .atomic .atomic 32 32 (s.rdP x) = .ok (t2, l) →
      let b := t2.binderAt l.bytes
      let late : Prop := ∃ due, d = some due ∧ due ≤ (s.view s.myIface).toNat
      let taken (o : Out) : Prop :=
        ∃ t' c, o = .next t' ∧ (∀ r, t'.rd r = (s.wr t 0#32).rd r) ∧ t'.g.sc.pc = s.g.sc.pc + 12#64 ∧
          t'.g.sch.run = .ready ∧ t2.stored t' l (Binder.value c) ∧ t'.holds s.g.ref c = true
      b.bad = false → t2.g.held.length < 16 → t2.holds s.g.ref b = false →
      (b.held = true ∨ t2.acqBefore l n = true → exec (.acqRetry s.g.ref) s = .next t2 ∧
        (late → ∃ t', exec (.acqTimeout s.g.ref) s = .next t' ∧ ended t2 1#32 t' ∧ t'.mem = t2.mem)) ∧
      (b.held = false → t2.acqBefore l n = false → l.here = true → l.bytes.length = 32 →
        taken (exec (.acqRetry s.g.ref) s) ∧ (late → taken (exec (.acqTimeout s.g.ref) s)))))

/-- R284, R287, R300, R484: REL frees the binder that its gang holds once every write that happens before it in the binder's regions
is performed, its own and those of gangs that have released since (log entry 97); with SYSTEM scope once its own remote writes are
acknowledged too, with 0x130 when some were discarded. Before, it waits. A REL of a binder that is not held by its gang changes nothing.
R301: FENCE ends when the gang's earlier accesses are performed. -/
def Obligations.ReleaseResults : Prop :=
  (∀ (s t2 : State) (t : SReg) (x : Pair) (l : Landing), s.packet.plumb = false →
    let u := Uses.comparing (pairRegs x) [.s t]
    let b := t2.binderAt l.bytes
    s.goes u = true → (s.begun u).checkHome .atomic .atomic 32 32 (s.rdP x) = .ok (t2, l) →
    let o := exec (.rel t x) s
    let ends (v : Word) : Prop := s.passes o 12 (s.wr t v) (fun t' => t'.mem = t2.mem)
    (b.bad = true → ends 0x105#32) ∧
    (b.bad = false → t2.holds s.g.ref b = false → ends 0x101#32) ∧
    (b.bad = false → t2.holds s.g.ref b = true → l.here = true → l.bytes.length = 32 →
      let freed (t3 : State) (v : Word) : Prop := s.passes o 12 (s.wr t v) (fun t' =>
        let b3 := t3.binderAt l.bytes
        ∃ c : Binder, t3.stored t' l c.value ∧ c.held = false ∧ c.hlaunch = 0#32 ∧ c.count = b3.count ∧ c.regtab = b3.regtab ∧
          c.acqSeq = b3.acqSeq ∧ c.scope = b3.scope)
      (b.regtab = 0#64 → b.scope ≠ 3 → freed t2 0#32) ∧
      (b.regtab = 0#64 → b.scope = 3 →
        ((∀ u ∈ t2.fab.unacked, u.owner ≠ s.g.ref) → freed t2 (if t2.g.discarded = [] then 0#32 else 0x130#32)) ∧
        (∀ u ∈ t2.fab.unacked, u.owner = s.g.ref → s.releaseWaits o t2.mem)) ∧
      (b.regtab ≠ 0#64 → b.scope ≠ 3 → ∀ t3 m, t2.checkHome .read .atomic 96 16 b.regtab = .ok (t3, m) →
        let v := leValue (m.bytes.map t3.homeByte)
        (t3.releasable v → freed t3 0#32) ∧ (¬ t3.releasable v → s.releaseWaits o t3.mem)))) ∧
  (∀ (s : State) (k : Scope), s.goes (.comparing [] []) = true → k ≠ .system →
    (s.writesDone s.g.ref false = true →
      (∀ o ∈ s.ops, o.owner = s.g.ref → ∀ d n rs i, o.kind ≠ .localLoad d n rs i) → s.passes (exec (.fence k) s) 12 s (fun t' => t'.mem = s.mem)) ∧
    (s.writesDone s.g.ref false = false → ∃ t', exec (.fence k) s = .next t' ∧ t'.mem = s.mem ∧ t'.g.sc.pc = s.g.sc.pc ∧
      t'.g.sch.run = .drain false)) ∧
  (∀ (s : State), s.goes (.comparing [] []) = true →
    (s.wq = [] → s.fab.unacked = [] → s.ops = [] → s.passes (exec (.fence .system) s) 12 s (fun t' => t'.mem = s.mem)) ∧
    (∀ w ∈ s.fab.unacked, w.owner = s.g.ref → ∃ t', exec (.fence .system) s = .next t' ∧ t'.mem = s.mem ∧ t'.g.sc.pc = s.g.sc.pc ∧
      t'.g.sch.run = .drain true))

/-- R216, R100, R101: BAR of a slot without a band is an illegal context; of a slot with one, outside Plumb, with the gang's
earlier writes performed. A gang that is not the last to arrive waits with its arrival counted; the last one completes the
band: the phase number rises by one and every member's register receives it. R195, R217: SEMP outside Plumb adds to the
semaphore of a binder, saturating, and its result is the count before; it releases as REL does (R287): it waits for the writes in
the binder's regions of every gang that has made a release since, its own included (log entry 97). -/
def Obligations.BarrierResults : Prop :=
  ((∀ (s : State) (t : SReg) (k : BitVec 2), s.g.bands[k.toNat]? = none → exec (.bar t k) s = .next (s.kill .context)) ∧
  ∀ (s : State) (t : SReg) (k : BitVec 2) (b : Nat) (l : Launch) (band : Band), s.packet.plumb = false →
    s.g.bands[k.toNat]? = some b → s.myLaunch? = some l → l.bandList[b]? = some band → s.goes (.comparing [] [.s t]) = true →
    s.allPerformed s.g.ref = true →
    band.arrived.contains (s.g.ref.crew, s.g.ref.gang) = false → s.g.ref.twin = false →
    (∀ j x, j ≠ b → l.bandList[j]? = some x → x.arrived = []) →
    let others := band.members.filter (fun m => m != (s.g.ref.crew, s.g.ref.gang))
    let open? := others.any (fun m => !band.arrived.contains m && !s.isOver s.g.ref.launch m.1 m.2)
    let o := exec (.bar t k) s
    (open? = true → ∃ t', o = .next t' ∧ (∀ r, t'.rd r = s.rd r) ∧ t'.g.sc.pc = s.g.sc.pc ∧ t'.mem = s.mem ∧ t'.g.sch.run = .band t k.toNat ∧
      ((t'.myLaunch?.bind (fun l => l.bandList[b]?)).map Band.arrived = some (band.arrived ++ [(s.g.ref.crew, s.g.ref.gang)]))) ∧
    (open? = false → s.passes o 12 (s.wr t (band.phase + 1#32)) (fun t' => t'.mem = s.mem ∧ t'.g.sch.run = .ready ∧
      (t'.myLaunch?.bind (fun l => l.bandList[b]?)).map (fun x => (x.phase, x.arrived)) = some (band.phase + 1#32, [])))) ∧
  (∀ (s t2 : State) (t : SReg) (x : Pair) (y : SReg) (l : Landing), s.packet.plumb = false →
    let u := Uses.comparing (pairRegs x ++ [.s y]) [.s t]
    let b := t2.binderAt l.bytes
    s.goes u = true → (s.begun u).checkHome .atomic .atomic 32 32 (s.rdP x) = .ok (t2, l) → l.here = true → l.bytes.length = 32 →
    let o := exec (.semp t x y) s
    let added (t3 : State) : Prop :=
      let b3 := t3.binderAt l.bytes
      s.passes o 12 (s.wr t (BitVec.ofNat 32 b3.count)) (fun t' => ∃ c : Binder, t3.stored t' l c.value ∧
        c.count = min (b3.count + (s.rd y).toNat) 0xFFFFFFFF ∧ c.acqSeq = b3.acqSeq ∧ c.w0 = b3.w0 ∧ c.w2 = b3.w2 ∧ c.w3 = b3.w3)
    (b.regtab = 0#64 → b.scope ≠ 3 → added t2) ∧
    (b.regtab = 0#64 → b.scope = 3 → ((∀ u ∈ t2.fab.unacked, u.owner ≠ s.g.ref) → added t2) ∧
      (∀ u ∈ t2.fab.unacked, u.owner = s.g.ref → s.releaseWaits o t2.mem)) ∧
    (b.regtab ≠ 0#64 → b.scope ≠ 3 → ∀ t3 m, t2.checkHome .read .atomic 96 16 b.regtab = .ok (t3, m) →
      let v := leValue (m.bytes.map t3.homeByte)
      (t3.releasable v → added t3) ∧ (¬ t3.releasable v → s.releaseWaits o t3.mem)))

/-- R220, R221: WAIT outside Plumb, on one time condition and on any four that consume nothing, and the events WAIT_ROUND and
WAIT_TIMEOUT. Conditions that fire end the wait with their bits; a deadline passed ends it with 0x100 and the bits that hold; else the
gang waits inside the instruction, whose deadline is TIME at issue plus the time-out, a number that does not wrap (log entry 79).
R222: the WAIT of a crew that is saved, or of a halted launch (20 R477), is not tested. -/
def Obligations.WaitResults : Prop :=
  (∀ (s : State) (t : SReg) (w : WaitSpec) (p : Pair), s.packet.plumb = false → w.c0 = .time p → w.c1 = .unused → w.c2 = .unused →
    w.c3 = .unused → s.wq = [] →
    let u := Uses.switching (pairRegs p ++ optRegs w.timeout) [.s t]
    s.goes u = true →
    let now := (s.view s.myIface).toNat
    let o := exec (.wait t w) s
    ((s.rdP p).toNat ≤ now → s.passes o 12 (s.wr t 1#32) (fun t' => t'.mem = s.mem)) ∧
    (now < (s.rdP p).toNat → ∀ q, w.timeout = some q → s.rdP q = 0#64 → s.passes o 12 (s.wr t 0x100#32) (fun t' => t'.mem = s.mem)) ∧
    (now < (s.rdP p).toNat → (∀ q, w.timeout = some q → s.rdP q ≠ 0#64) → ∃ t', o = .next t' ∧ (∀ r, t'.rd r = s.rd r) ∧ t'.mem = s.mem ∧
      t'.g.sc.pc = s.g.sc.pc ∧ t'.g.sch.run = .wait t w (w.timeout.map (fun q => now + (s.rdP q).toNat)))) ∧
  (∀ (s : State) (t : SReg) (w : WaitSpec) (ls : List (Option Landing)), s.packet.plumb = false → w.consume = false →
    (waitConds w).any s.condIllegal = false → s.wq = [] →
    let u := Uses.switching (((waitConds w).map condRegs).flatten ++ optRegs w.timeout) [.s t]
    s.goes u = true → (s.begun u).condHomes false (waitConds w) = .ok ls →
    let holds (i : Nat) : Bool := (s.begun u).condHolds ((waitConds w).getD i .unused) (ls.getD i none)
    let now := (s.view s.myIface).toNat
    let o := exec (.wait t w) s
    (∀ v, waitFires w holds = some v → s.passes o 12 (s.wr t v) (fun t' => t'.mem = s.mem)) ∧
    (waitFires w holds = none → (∃ q, w.timeout = some q ∧ s.rdP q = 0#64) →
      s.passes o 12 (s.wr t (0x100#32 ||| waitBits holds)) (fun t' => t'.mem = s.mem)) ∧
    (waitFires w holds = none → (∀ q, w.timeout = some q → s.rdP q ≠ 0#64) → ∃ t', o = .next t' ∧ (∀ r, t'.rd r = s.rd r) ∧ t'.mem = s.mem ∧
      t'.g.sc.pc = s.g.sc.pc ∧ t'.g.sch.run = .wait t w (w.timeout.map (fun q => now + (s.rdP q).toNat)))) ∧
  (∀ (s : State) (t : SReg) (w : WaitSpec), (waitConds w).any s.condIllegal = true → exec (.wait t w) s = .next (s.kill .context)) ∧
  (∀ (s : State) (t : SReg) (w : WaitSpec) (d : Option Nat) (ls : List (Option Landing)), s.g.sch.run = .wait t w d → s.packet.plumb = false →
    w.consume = false → s.condHomes false (waitConds w) = .ok ls →
    let holds (i : Nat) : Bool := s.condHolds ((waitConds w).getD i .unused) (ls.getD i none)
    let fires : Option Word := waitFires w holds
    let ended (o : Out) (v : Word) : Prop := s.passes o 12 (s.wr t v) (fun t' => t'.mem = s.mem ∧ t'.g.sch.run = .ready)
    (s.mayGoOn s.g.ref = false → exec (.waitRound s.g.ref) s = .next s ∧ exec (.waitTimeout s.g.ref) s = .next s) ∧
    (s.mayGoOn s.g.ref = true →
    (∀ v, fires = some v → ended (exec (.waitRound s.g.ref) s) v) ∧
    (fires = none → s.passed d = false → exec (.waitRound s.g.ref) s = .next s ∧ exec (.waitTimeout s.g.ref) s = .next s) ∧
    (fires = none → s.passed d = true → ended (exec (.waitTimeout s.g.ref) s) (0x100#32 ||| waitBits holds))))

/-- R212, R218: RPUSH and RTAKE on the rings of a STAGED launch, with nothing of the gang under way. A push fills the slot at
TAIL and moves it on; a take gives the oldest slot and moves HEAD on; a full, empty or closed ring and a bad header change
nothing; of a closed ring an RTAKE answers 1 and its gang never moves, though HEAD and TAIL are equal (log entry 80). R219: the
stage move of an RTAKE. The gang restarts at the new stage's entry with its entry registers; FPFLAGS,
GSTATUS, TVEC and its band slots stay, memory too, and the crew's counts of gangs per stage follow. -/
def Obligations.RingResults : Prop :=
  (∀ (s : State) (t : SReg) (x : Pair), s.packet.plumb = false → s.packet.staged = true → s.wq = [] → s.defer = false →
    let headerOf (l : Landing) : RingHeader := { raw := BitVec.ofNat 128 (leValue (l.bytes.map s.homeByte)) }
    (∀ (k : BitVec 2) (l m : Landing), k.toNat < s.stages.length →
      let u := Uses.comparing (pairRegs x) [.s t]
      let b := s.begun u
      s.goes u = true → b.checkOffset true 16 1 (s.ringAt k.toNat) = .ok l →
      let h := headerOf l
      let o := exec (.rpush t k x) s
      (h.bad = true → s.passes o 12 (s.wr t 2#32) (fun t' => t'.mem = s.mem)) ∧
      (h.bad = false → h.cap = 0 ∨ h.occupancy = 2 ^ h.cap → s.passes o 12 (s.wr t 1#32) (fun t' => t'.mem = s.mem)) ∧
      (h.bad = false → h.cap ≠ 0 → h.occupancy ≠ 2 ^ h.cap →
        b.checkOffset false 8 1 (s.ringAt k.toNat + 16 + 8 * (h.tail % 2 ^ h.cap)) = .ok m → m.here = true → l.here = true → l.bytes.length = 16 → m.bytes.length = 8 →
        s.passes o 12 (s.wr t 0#32) (fun t' => ∃ w : RingHeader, s.storedAll t' [(m, (s.rdP x).toNat), (l, w.raw.toNat)] ∧
          w.tail = (h.tail + 1) % (2 * 2 ^ h.cap) ∧ w.head = h.head ∧ w.cap = h.cap ∧ w.high = h.high ∧ w.bad = false))) ∧
    (∀ (l m : Landing),
      let u := Uses.switching [] (.s t :: pairRegs x)
      let b := (s.begun u).flushCoalescer
      s.goes u = true → b.quiet s.g.ref = true → b.checkOffset true 16 1 (s.ringAt s.g.stage) = .ok l →
      let h := headerOf l
      let o := exec (.rtake t x) s
      (h.bad = true → s.passes o 12 (s.wr t 2#32) (fun t' => t'.mem = s.mem)) ∧
      (h.bad = false → h.cap = 0 → s.passes o 12 (s.wr t 1#32) (fun t' => t'.mem = s.mem)) ∧
      (h.bad = false → h.cap ≠ 0 → h.head = h.tail → (s.g.held ≠ [] ∨ s.g.txn.isSome ∨ s.g.sc.handler = true) →
        s.passes o 12 (s.wr t 1#32) (fun t' => t'.mem = s.mem ∧ t'.g.stage = s.g.stage)) ∧
      (h.bad = false → h.cap ≠ 0 → h.head ≠ h.tail → b.checkOffset true 8 1 (s.ringAt s.g.stage + 16 + 8 * (h.head % 2 ^ h.cap)) = .ok m →
        l.here = true → l.bytes.length = 16 →
        s.passes o 12 ((s.wrP x (BitVec.ofNat 64 (leValue (m.bytes.map s.homeByte)))).wr t 0#32) (fun t' => ∃ w : RingHeader, s.stored t' l w.raw.toNat ∧
          w.head = (h.head + 1) % (2 * 2 ^ h.cap) ∧ w.tail = h.tail ∧ w.cap = h.cap ∧ w.high = h.high ∧ w.bad = false)))) ∧
  (∀ (s : State) (j : Nat) (l : Launch), s.myLaunch? = some l →
    let t := s.stageMove j
    t.g.sc.pc = l.entryPc j ∧ t.g.stage = j ∧ t.g.sc.fpFlags = s.g.sc.fpFlags ∧ t.g.sc.divZero = s.g.sc.divZero ∧
      t.g.sc.latchLost = s.g.sc.latchLost ∧ t.g.sc.tvec = s.g.sc.tvec ∧ t.g.bands = s.g.bands ∧ t.g.la.latchValid = 0#4 ∧
      t.g.sc.handler = false ∧ t.g.sc.trapPc = 0#64 ∧ t.g.sc.trapCode = 0#32 ∧ t.g.sc.timeCapture = none ∧
      t.g.exec = s.g.la.live ∧ t.mem = s.mem ∧ (∀ i, t.g.la.vreg i = LaneReg.zero) ∧
      (∀ c, s.myCrew? = some c → s.g.stage ≠ j → s.g.stage < c.stageCounts.length → j < c.stageCounts.length →
        ∃ d, t.myCrew? = some d ∧ d.stageCounts.getD j 0 = c.stageCounts.getD j 0 + 1 ∧
          d.stageCounts.getD s.g.stage 0 = c.stageCounts.getD s.g.stage 0 - 1))

/-- R251, R252: SEAL and UNSEAL of this device's granules outside Plumb with no write under way. Every granule of the range is sealed, or unsealed, no
other seal bit changes, and the result counts the granules that changed. An unaligned pointer raises ALIGN. -/
def Obligations.SealResults : Prop :=
  ∀ (s : State) (t : SReg) (x : Pair) (y : SReg) (gs : List Nat), s.packet.plumb = false → s.wq = [] → s.defer = false →
    let u := Uses.comparing (pairRegs x ++ [.s y]) [.s t]
    let near : List (Nat × Option (Nat × Nat × DWord)) := gs.map (fun g => (g, none))
    s.goes u = true →
    let p := s.rdP x
    (p.toNat % 65536 ≠ 0 → exec (.seal t x y) s = .next ((s.begun u).raise { FaultInfo.plain 0x17 with pointer := p }) ∧
      exec (.unseal t x y) s = .next ((s.begun u).raise { FaultInfo.plain 0x17 with pointer := p })) ∧
    (p.toNat % 65536 = 0 → (s.begun u).sealGranules p (s.rd y).toNat = .ok near → gs.Nodup →
      s.passes (exec (.seal t x y) s) 12 (s.wr t (BitVec.ofNat 32 (gs.countP (fun g => !s.mem.seals.contains g)))) (fun t' =>
        (∀ k, t'.mem.get k = s.mem.get k) ∧ ∀ g, g ∈ t'.mem.seals ↔ g ∈ s.mem.seals ∨ g ∈ gs) ∧
      s.passes (exec (.unseal t x y) s) 12 (s.wr t (BitVec.ofNat 32 (gs.countP (fun g => s.mem.seals.contains g)))) (fun t' =>
        (∀ k, t'.mem.get k = s.mem.get k) ∧ ∀ g, g ∈ t'.mem.seals ↔ g ∈ s.mem.seals ∧ g ∉ gs))

/-- R245 to R248: ARRIVE and LDX on a barrier object of the crew's allocation, with no write under way, and the landing of
LDX's bytes. ARRIVE counts one arrival and answers the phase, once every write of its gang and of gangs that have made a release
since is performed (log entry 97); LDX adds its bytes to PENDING and starts its copy of the values that its sources held at its issue;
its bytes land one by one, any of them next, and each takes one off PENDING (log entry 22). A phase completes when both counts are
zero. -/
def Obligations.BarrierObjectResults : Prop :=
  (∀ (b : BarObj),
    let ph : Word := (b.raw.extractLsb' 64 1).setWidth 32
    (b.arrivals = 0 → b.arrive = (ph ||| 0x100#32, b)) ∧
    (b.arrivals ≠ 0 → b.arrive.1 = ph ∧
      (b.arrivals = 1 → b.pending = 0 → b.arrive.2.phase = !b.phase ∧ b.arrive.2.arrivals = b.expect.toNat ∧ b.arrive.2.pending = 0) ∧
      (b.arrivals ≠ 1 ∨ b.pending ≠ 0 → b.arrive.2.phase = b.phase ∧ b.arrive.2.arrivals = b.arrivals - 1 ∧ b.arrive.2.pending = b.pending)) ∧
    ∀ n, n ≤ b.pending →
      (b.arrivals = 0 → n = b.pending → (b.landed n false).phase = !b.phase ∧ (b.landed n false).arrivals = b.expect.toNat) ∧
      (b.arrivals ≠ 0 ∨ n ≠ b.pending → (b.landed n false).phase = b.phase ∧ (b.landed n false).arrivals = b.arrivals) ∧
      (b.landed n false).pending = b.pending - n ∧ (b.landed n true).err = true ∧
      (b.err = false → (b.landed n true).raw.extractLsb' 72 8 = 0x20#8) ∧
      (b.err = true → (b.landed n true).raw.extractLsb' 72 8 = b.raw.extractLsb' 72 8)) ∧
  (∀ (s t2 : State) (t : SReg) (x : Pair) (l : Landing), s.packet.plumb = false →
    let u := Uses.comparing (pairRegs x) [.s t]
    s.goes u = true → (s.begun u).checkBar (s.rdP x) = .ok (t2, l) → l.here = true → l.bytes.length = 16 →
    let b := t2.barAt l.bytes
    (t2.allPerformed s.g.ref = true →
      s.passes (exec (.arrive t x) s) 12 (s.wr t b.arrive.1) (fun t' => t2.stored t' l b.arrive.2.raw.toNat)) ∧
    (t2.allPerformed s.g.ref = false → ∃ t', exec (.arrive t x) s = .next t' ∧ t'.mem = t2.mem ∧ t'.g.sc.pc = s.g.sc.pc ∧
      t'.g.sch.run = .drain false)) ∧
  (∀ (s : State) (h : LmHdr) (z : MemSize) (src : Src) (bar : Pair) (l : Landing) (ls : List (Nat × Landing × Landing)),
    s.packet.plumb = false → s.wq = [] →
    let u := lmUses h false (dataRegs src .w ++ pairRegs bar) []
    let t := s.begun u
    s.lmFits h [(src, 1)] .nw 0 = true → s.goes u = true →
    t.g.part h.guard ≠ 0#96 → checkLanes (t.g.part h.guard) (fun n => t.ldxSource h z src n) = .ok ls → t.checkBar (s.rdP bar) = .ok (t, l) →
    t.lineBusy ((ls.map (fun y => y.2.1.bytes)).flatten) = false →
    t.lateAt ((ls.map (fun y => y.2.1.bytes ++ y.2.2.bytes)).flatten ++ l.bytes) = [] →
    l.here = true → l.bytes.length = 16 →
    let b := t.barAt l.bytes
    let n := ls.length * z.bytes
    b.pending + n ≤ 0xFFFFFFFF →
    s.passes (exec (.ldx h z src bar) s) 12 s (fun t' => ∃ c : BarObj, s.stored t' l c.raw.toNat ∧ c.pending = b.pending + n ∧
      c.arrivals = b.arrivals ∧ c.expect = b.expect ∧ c.phase = b.phase ∧
      ∃ o, t'.ops = s.ops ++ [o] ∧ o.owner = s.g.ref ∧ o.id = s.nextId ∧ ∃ bytes, o.kind = .ldx bytes [] (l.bytes.headD (.hbm 0)) ∧
        bytes.map (fun q => (q.dst, q.val)) =
          (ls.map (fun y => (y.2.1.bytes.zip y.2.2.bytes).map (fun q => (q.2, t.ownByte q.1)))).flatten)) ∧
  (∀ (s : State) (id : Nat) (o : Op) (bytes landed : List LdxByte) (c n : Nat), s.ops.find? (fun o => o.id == id) = some o →
    o.kind = .ldx bytes landed (.scratch c n) → bytes ≠ [] →
    (∀ h ∈ s.allGangs, ∀ y, h.sch.run ≠ .release y) →
    (∀ b ∈ bytes, ∃ m, b.dst = .scratch c m ∧ m < 2 ^ 20 ∧ (m < n ∨ n + 16 ≤ m)) → n + 16 ≤ 2 ^ 20 → c < 2 ^ 20 →
    let obj : List Place := (Place.scratch c n).run 16
    let b := s.barAt obj
    ∃ t' i q, bytes[i]? = some q ∧ exec (.ldxByteLanding id) s = .next t' ∧
      (bytes.length = 1 → t'.ops = s.ops.filter (fun x => x.id != id)) ∧
      (1 < bytes.length → t'.ops.find? (fun x => x.id == id) = some { o with kind := .ldx (bytes.eraseIdx i) (landed ++ [q]) (.scratch c n) }) ∧
      (∀ k, q.dst.key = some k → t'.mem.get k = q.val) ∧ t'.barAt obj = b.landed 1 q.bad ∧
      ∀ k, q.dst.key ≠ some k → (∀ p ∈ obj, p.key ≠ some k) → t'.mem.get k = s.mem.get k)

/-- R77, R291: WRITE_PERFORMED makes a queued write of a gang, with no earlier one that must come first, the contents of its home,
and takes it off the queue. -/
def Obligations.WritePerformedRule : Prop :=
  ∀ (s : State) (w : PendWrite) (bs : List (Place × Byte)) (pages : List Nat) (owner : Nat) (route : Nat × DWord),
    s.wq = [w] → w.kind = .bytes bs pages owner route → s.isBuffered w = false →
    (bs.filterMap (fun b => b.1.key)).Nodup → (∀ b ∈ bs, b.1.remote = none) → (∀ h ∈ s.allGangs, h.sch.run = .ready) →
    ∃ t', exec (.writePerformed w.id) s = .next t' ∧ t'.wq = [] ∧ t'.g.sc = s.g.sc ∧ t'.g.la = s.g.la ∧
      let marked (k : Nat) : Prop := ∃ m ∈ pages, m ≤ k ∧ k < m + 16
      (∀ b ∈ bs, ∀ k, b.1.key = some k → ¬ marked k → t'.mem.get k = b.2) ∧
      ∀ k, (∀ b ∈ bs, b.1.key ≠ some k) → ¬ marked k → ¬ s.tookCopy t' k → t'.mem.get k = s.mem.get k

/-- R386: CSRR reads each control register outside Plumb; CSRW writes DRAINEST of the crew and nothing else. R387, R41, R87:
HALTG ends the issuing gang, whose lanes leave the live mask. -/
def Obligations.ControlResults : Prop :=
  (∀ (s : State) (t x : Pair) (n : ControlReg) (c : Crew), s.packet.plumb = false → s.myCrew? = some c →
    (s.goes (.switching [] (pairRegs t)) = true →
      let v : DWord := match n with
        | .admSeq => BitVec.ofNat 64 s.g.ref.launch
        | .saves => BitVec.ofNat 64 c.saves
        | .resumes => BitVec.ofNat 64 s.g.sch.resumes
        | .lastFault => s.g.sch.lastFault
        | .drainEst => c.drainEst
        | .issued => BitVec.ofNat 64 s.g.sch.issued
        | .resident => BitVec.ofNat 64 c.resident
      s.passes (exec (.csrr t n) s) 12 (s.wrP t v) (fun t' => t'.mem = s.mem)) ∧
    (s.goes (.switching (pairRegs x) []) = true →
      s.passes (exec (.csrw .drainEst x) s) 12 s (fun t' => t'.mem = s.mem ∧ t'.myCrew? = some { c with drainEst := s.rdP x }))) ∧
  (∀ (s : State), s.goes (.comparing [] []) = true →
    ∃ t, exec .haltg s = .next t ∧ t.g.sch.run = .ended ∧ t.g.la.live = 0#96 ∧ t.g.exec = 0#96 ∧ t.g.sc.pc = s.g.sc.pc ∧ t.mem = s.mem ∧
      t.g.held = s.g.held)

/-- R412, R413: SWAPK. With the visible half already in use it answers 1; a table of another convention answers 2, an index
past it 3; else the gang goes on in the visible half at the table's target. R401: SNAP keeps the launch's snapshot under a new
name, at most sixteen to an interface and one of a launch; without a snapshot it is an illegal context. -/
def Obligations.SwapSnapResults : Prop :=
  (∀ (s : State) (t : SReg) (x : Pair) (y : SReg) (z : Pair) (l : Landing) (tag n off : Nat),
    let u := Uses.comparing (pairRegs x ++ [.s y] ++ pairRegs z) [.s t]
    let b := s.begun u
    let p := s.rdP x
    s.goes u = true → b.checkTarget (b.request .fetch 1) .load 1 p = .ok l → b.codeLanding = .ok l.key →
    let half := (match s.g.fetchHalf with | some h => h.2 | none => l.entry.sel)
    let o := exec (.swapk t x y z) s
    (l.entry.sel = half → s.passes o 12 (s.wr t 1#32) (fun t' => t'.mem = s.mem ∧ t'.g.fetchHalf = s.g.fetchHalf)) ∧
    (l.entry.sel ≠ half → b.swapWord p 8 = .ok tag →
      (tag ≠ (s.rdP z).toNat → s.passes o 12 (s.wr t 2#32) (fun t' => t'.mem = s.mem ∧ t'.g.fetchHalf = s.g.fetchHalf)) ∧
      (tag = (s.rdP z).toNat → b.swapWord (p + 8#64) 4 = .ok n →
        (n ≤ (s.rd y).toNat → s.passes o 12 (s.wr t 3#32) (fun t' => t'.mem = s.mem ∧ t'.g.fetchHalf = s.g.fetchHalf)) ∧
        ((s.rd y).toNat < n → b.swapWord (p + 12#64 + 4#64 * (s.rd y).setWidth 64) 4 = .ok off →
          let target := p + BitVec.ofNat 64 off
          (target.toNat % 4 ≠ 0 → ∃ f, f.kind = 0x17 ∧ o = .next (b.raise f)) ∧
          (target.toNat % 4 = 0 → ∃ t', o = .next t' ∧ (∀ r, t'.rd r = (s.wr t 0#32).rd r) ∧ t'.g.sc.pc = target ∧
            t'.g.fetchHalf = some (l.key, l.entry.sel) ∧ t'.mem = s.mem))))) ∧
  (∀ (s : State) (t x : SReg),
    (s.packet.snapshot = false → exec (.snap t x) s = .next (s.kill .context)) ∧
    (s.packet.snapshot = true → s.packet.plumb = false → s.goes (.switching [.s x] [.s t]) = true →
      let kept := (s.ifc s.myIface).kept
      let name := (s.rd x).toNat
      let ends (v : Word) : Prop := s.passes (exec (.snap t x) s) 12 (s.wr t v) (fun t' => t'.mem = s.mem ∧ (t'.ifc t'.myIface).kept = kept)
      ((name = 0 ∨ ∃ k ∈ kept, k.name = name) → ends 1#32) ∧
      (name ≠ 0 → (∀ k ∈ kept, k.name ≠ name) → 16 ≤ kept.length → ends 2#32) ∧
      (name ≠ 0 → (∀ k ∈ kept, k.name ≠ name) → kept.length < 16 → (∃ k ∈ kept, k.launch = s.g.ref.launch) → ends 3#32) ∧
      (name ≠ 0 → (∀ k ∈ kept, k.name ≠ name) → kept.length < 16 → (∀ k ∈ kept, k.launch ≠ s.g.ref.launch) →
        ∀ p, s.myLaunch?.bind Launch.snapshot = some p →
          s.passes (exec (.snap t x) s) 12 (s.wr t 0#32) (fun t' => t'.mem = s.mem ∧
            (t'.ifc t'.myIface).kept = kept ++ [{ name := name, launch := s.g.ref.launch, snap := p }]))))

/-- R409 to R411: TXB opens a transaction with the next serial, TXA drops it and its copies, TXC commits one of this device
whose granules no mark, no journal entry and no seal since concern: the granules receive the contents of their copies in the reserve, and
the decision is journalled. A mark, or a participant that is not reachable, ends it with its status; so does a granule that has been
sealed since it was written, as a conflict (log entry 120). Memory is in its canonical form and every copy lies in a page of its
interface's reserve that is in use, as the invariant and the meaning of a transactional write leave them. -/
def Obligations.TransactionResults : Prop :=
  (∀ (s : State) (t : SReg), s.packet.plumb = false → s.goes (.comparing [] [.s t]) = true →
    (s.g.txn = none →
      s.passes (exec (.txb t) s) 12 (s.wr t 0#32) (fun t' => t'.mem = s.mem ∧ t'.g.txSerial = s.g.txSerial + 1 ∧
        ∃ n, t'.g.txn = some n ∧ n.serial = s.g.txSerial + 1 ∧ n.granules = [] ∧ n.copies = [] ∧ n.mark = none) ∧
      s.passes (exec (.txa t) s) 12 (s.wr t 1#32) (fun t' => t'.mem = s.mem) ∧
      s.passes (exec (.txc t) s) 12 (s.wr t 1#32) (fun t' => t'.mem = s.mem)) ∧
    (∀ n, s.g.txn = some n →
      s.passes (exec (.txb t) s) 12 (s.wr t 1#32) (fun t' => t'.mem = s.mem ∧ t'.g.txn = s.g.txn) ∧
      s.passes (exec (.txa t) s) 12 (s.wr t 0#32) (fun t' => t'.mem = s.mem ∧ t'.g.txn = none))) ∧
  (∀ (s : State) (t : SReg) (n : Txn) (l : Launch), s.packet.plumb = false → s.goes (.comparing [] [.s t]) = true → s.g.txn = some n →
    s.myLaunch? = some l → s.wq = [] → s.ops = [] → s.fab.unacked = [] → s.memoryOk →
    let key := (s.g.ref.crew, s.g.ref.gang, n.serial)
    let o := exec (.txc t) s
    (key ∈ l.journal → s.passes o 12 (s.wr t 2#32) (fun t' => t'.mem = s.mem ∧ t'.g.txn = none)) ∧
    (key ∉ l.journal → ∀ m, n.mark = some m →
      s.passes o 12 (s.wr t (match m with | .cut => 0x110#32 | .conflicted => 0x111#32 | .reserveShort => 0x112#32 | .oversized => 0x113#32))
        (fun t' => t'.mem = s.mem ∧ t'.g.txn = none)) ∧
    (key ∉ l.journal → n.mark = none → (∃ c ∈ n.copies, c.granule ∈ s.mem.seals) →
      s.passes o 12 (s.wr t 0x111#32) (fun t' => t'.mem = s.mem ∧ t'.g.txn = none)) ∧
    (key ∉ l.journal → n.mark = none → (∀ c ∈ n.copies, c.granule ∉ s.mem.seals) → (∃ g ∈ n.granules, g / 2 ^ 32 ≠ 0 ∧ s.fab.reach.contains (g / 2 ^ 32 - 1) = false) →
      s.passes o 12 (s.wr t 0x110#32) (fun t' => t'.mem = s.mem ∧ t'.g.txn = none)) ∧
    (key ∉ l.journal → n.mark = none → n.granules = n.copies.map TxCopy.granule → n.granules.Nodup →
      (∀ c ∈ n.copies, c.granule < 2 ^ 24 ∧ c.granule ∉ s.mem.seals ∧ c.page ∉ n.granules ∧ c.page ∈ (s.ifc c.iface).reserveUsed) →
      s.passes o 12 (s.wr t 0#32) (fun t' => t'.g.txn = none ∧ (∃ k, t'.myLaunch? = some k ∧ k.journal = l.journal ++ [key]) ∧
        let kept (a : Nat) : Prop := (∀ m ∈ n.pages, a < m ∨ m + 16 ≤ a) ∧ ¬ s.tookCopy t' a
        (∀ a, kept a → a / 65536 ∉ n.granules → t'.mem.get a = s.mem.get a) ∧
        ∀ c ∈ n.copies, ∀ j < 65536, kept (c.granule * 65536 + j) → ¬ s.tookCopy t' (c.page * 65536) →
          t'.mem.get (c.granule * 65536 + j) = s.mem.get (c.page * 65536 + j)))) ∧
  (∀ (s : State) (t : SReg) (n : Txn), s.g.sch.run = .commit t → s.g.txn = some n → s.packet.plumb = false →
    (∀ g ∈ n.granules, g / 2 ^ 32 = 0 ∨ s.fab.reach.contains (g / 2 ^ 32 - 1) = true) →
    ∃ t', exec (.transactionPhase2 s.g.ref) s = .next t' ∧ (∀ r, t'.rd r = (s.wr t 0#32).rd r) ∧ t'.g.txn = none ∧
      t'.g.sch.run = .ready ∧ t'.g.sc.pc = s.g.sc.pc + 12#64)

/-! ## Engine instructions (11 to 14, 17, 18) -/

/-- R96, R211: every EN instruction but RESAMP. Under a zero exec mask it does nothing but s[t] := 1 (SKIPPED); under a
partial one it raises PARTIAL-MASK; in a stage without its role the gang is killed. -/
def Obligations.EngineMaskRule : Prop :=
  ∀ (s : State) (t : SReg) (x y : Pair) (a b c d : SReg) (h : Hint) (sh ad ng ov ak : Bool) (fl : CopyFlag) (r : BitVec 2)
    (k : BitVec 3) (f : MxFmt) (df : DrainFmt) (row : BitVec 6) (sel : DstatSel) (ps : PeerSel),
    let forms : List (Instr × Option Nat × List RegRef) := [
      (.copy sh h fl t x y, some 2, pairRegs x ++ pairRegs y ++ flagRegs fl), (.publish t x, some 2, pairRegs x),
      (.mls r f t x, some 1, pairRegs x), (.msw r t, some 1, []), (.mst r k ng ov f t x row, some 1, pairRegs x),
      (.mdr r k ad sh df t x row, some 1, pairRegs x), (.mza r k t, some 1, []), (.mred r k ng ov f t x row, some 1, pairRegs x),
      (.dcnt t x, some 3, pairRegs x), (.dplan t x, some 3, pairRegs x), (.dscat t x, some 3, pairRegs x),
      (.dgath t x, some 3, pairRegs x), (.dstat sel t x, some 3, pairRegs x ++ (DstatSel.regs sel).map RegRef.s),
      (.mcast ak t a b c d, some 5, [.s a, .s b, .s c, .s d]), (.rack t, some 5, []), (.rackDev t a, some 5, [.s a]),
      (.peerq ps t a, some 5, [.s a]), (.locq t x, none, pairRegs x), (.locqSelf t, none, [])]
    ∀ e ∈ forms,
      (s.lacksRole e.2.1 = true → exec e.1 s = .next (s.kill .role)) ∧
      (s.lacksRole e.2.1 = false → s.consumed (enUses t e.2.2) = none → s.g.exec ≠ 0#96 → s.g.exec ≠ s.g.la.live →
        s.maskKnown = true → s.stopAt = none → exec e.1 s = .next (s.atSwitch.raise (.plain 0x02))) ∧
      (s.lacksRole e.2.1 = false → s.g.exec = 0#96 → s.goes (enUses t e.2.2) = true →
        s.passes (exec e.1 s) 12 (s.wr t 1#32) (fun u => u.mem = s.mem ∧ u.ops = s.ops))

/-- R307, R308, R314 to R316: COPY and PUBLISH start their operation: COPY with its two shape records, read at issue, which
agree and have no defect, and with at most sixteen such operations of the gang under way. R310 to R313: the operation of COPY
for one element of this device without a flag, and PUBLISH's toggle. The element's bytes receive those of the source, the
token is 0, and the operation is over; PUBLISH changes SEL of its landing's entry and counts its generation; a landing that is not
SHADOWED HBM gives PROTECTION in the token, with INST 0 at level C (log entry 55). PUBLISH asks for 1 byte (log entry 78). Stated for
an operation of the selected gang, outside Plumb, with no write under way. -/
def Obligations.CopyResults : Prop :=
  (∀ (s : State) (h : Hint) (sh : Bool) (fl : CopyFlag) (t : SReg) (x y : Pair) (v w : Nat),
    let reads := pairRegs x ++ pairRegs y ++ flagRegs fl
    (s.enGoes (some 2) t reads = true → (s.begun (enUses t reads)).copyRecords (s.rdP x) (s.rdP y) (s.opFlag fl) = .ok (v, w) →
      let o := exec (.copy sh h fl t x y) s
      (shapeDefect v = false → shapeDefect w = false → shapesAgree (ShapeRec.ofNat v) (ShapeRec.ofNat w) = true → s.copyOps s.g.ref < 16 →
        s.starts o t (.copy (ShapeRec.ofNat v) (ShapeRec.ofNat w) sh (match fl with
          | .noFlag => .noFlag
          | .sem p n => .sem (s.rdP p) (s.rd n)
          | .word p q => .word (s.rdP p) (s.rdP q)))) ∧
      ((shapeDefect v = true ∨ shapeDefect w = true ∨ shapesAgree (ShapeRec.ofNat v) (ShapeRec.ofNat w) = false ∨ 16 ≤ s.copyOps s.g.ref) →
        o = .next ((s.begun (enUses t reads)).kill .context))) ∧
    (s.enGoes (some 2) t (pairRegs x) = true → s.copyOps s.g.ref < 16 → s.starts (exec (.publish t x) s) t (.publish (s.rdP x)))) ∧
  (∀ (s : State) (o : Op) (t : SReg), s.runs o t →
    let ended (u : State) (v : Word) : Prop := s.opEnds u o t v
    (∀ a b shadow la lb, o.kind = .copy a b shadow .noFlag → commonClip a b = [(0, 0, 0)] → s.engineSource o a.bytes a.bytes (a.addr (0, 0, 0)) = .ok la →
      s.engineTarget o .write .store shadow a.bytes a.bytes (b.addr (0, 0, 0)) = .ok lb → s.poisonedByte la.bytes = none → la.here = true → lb.here = true →
      lb.bytes.length = a.bytes → la.bytes.length = a.bytes →
      ∃ u, exec (.copyCompletion o.id) s = .next u ∧ ended u 0#32 ∧ s.stored u lb (leValue (la.bytes.map s.homeByte))) ∧
    (∀ p l, o.kind = .publish p → s.publishReady o = true → s.translate (s.opRequest o .write 1) p = .ok l →
      (l.level = lvD ∧ l.type = tHbm ∧ l.entry.shadowed = true →
        ∃ u, exec (.publishToggle o.id) s = .next u ∧ ended u 0#32 ∧ u.mem = s.mem ∧ (u.entry l.key).sel = (!l.entry.sel) ∧
          (u.entry l.key).gen = l.entry.gen + 1#8 ∧ (u.entry l.key).base = l.entry.base) ∧
      (¬ (l.level = lvD ∧ l.type = tHbm ∧ l.entry.shadowed = true) →
        ∃ u, exec (.publishToggle o.id) s = .next u ∧ ended u (BitVec.ofNat 32 (0x12 + l.level * 256 + (if l.level = lvC then 0 else l.inst * 2048))) ∧ u.mem = s.mem)))

/-- R320 to R324, R329, R331: the matrix instructions start their operation on the arrays that their crew holds, with a shape
record that has no defect and the shape they demand. -/
def Obligations.MatrixStartResults : Prop :=
  ∀ (s : State) (r : BitVec 2) (k : BitVec 3) (ng ov ad sh : Bool) (f : MxFmt) (df : DrainFmt) (t : SReg) (x : Pair) (row : BitVec 6) (v : Nat),
    (∀ c, s.arrayHolder s.myCore = some c → c.ref = s.g.ref.crewRef) →
    let rec' := ShapeRec.ofNat v
    (s.enGoes (some 1) t (pairRegs x) = true → (s.begun (enUses t (pairRegs x))).readAtIssue 32 32 (s.rdP x) = .ok v → shapeDefect v = false →
      (rec'.rank = 2 → rec'.esize = f.esize → rec'.ext0 = 32 → rec'.ext1 = f.rows → (f = .t6 → rec'.stride0 = 0) →
        s.starts (exec (.mls r f t x) s) t (.mls r.toFin f rec')) ∧
      (rec'.rank = 2 → rec'.esize = f.esize → rec'.ext0 = f.rows → 1 ≤ rec'.ext1 → row.toNat + rec'.ext1 ≤ 64 → (f = .t6 → rec'.stride0 = 0) →
        s.starts (exec (.mst r k ng ov f t x row) s) t (.mst r.toFin k.toFin ng ov f rec' row.toNat) ∧
        s.starts (exec (.mred r k ng ov f t x row) s) t (.mred r.toFin k.toFin ng ov f rec' row.toNat)) ∧
      (rec'.rank = 2 → rec'.esize = df.esize → rec'.ext0 = 32 → 1 ≤ rec'.ext1 → row.toNat + rec'.ext1 ≤ 64 →
        s.starts (exec (.mdr r k ad sh df t x row) s) t (.mdr r.toFin k.toFin ad sh df rec' row.toNat))) ∧
    (s.enGoes (some 1) t [] = true →
      s.starts (exec (.msw r t) s) t (.msw r.toFin) ∧ s.starts (exec (.mza r k t) s) t (.mza r.toFin k.toFin))

/-- R326 to R332: what the queued matrix operations do to their crew's arrays, once it is their turn. MSW exchanges the
planes, MZA clears an accumulator, MLS fills the shadow plane with the elements read, MST and MRED add the products with the active
plane, or with ones, to an accumulator, and MDR takes its rows and writes them. R320: ARRAY_STATE_SWAP gives an idle core's arrays to a crew whose gangs wait for them; these issue again.
-/
def Obligations.MatrixEvents : Prop :=
  (∀ (s : State) (o : Op) (t : SReg) (c : Crew), s.runs o t → s.arrayTurn o = true → s.crew? o.owner.crewRef = some c →
    let arrays (u : State) (q : Fin 4) : Option MxArray := (u.crew? o.owner.crewRef).map (fun c => c.arrays[q.val])
    let ended (u : State) (v : Word) : Prop := s.opEnds u o t v ∧ u.mem = s.mem
    let others (u : State) (q : Fin 4) : Prop := ∀ p, p ≠ q → arrays u p = some c.arrays[p.val]
    let was (q : Fin 4) : MxArray := c.arrays[q.val]
    let added (f : MxFmt) (r : ShapeRec) (row : Nat) (ov ng : Bool) (x : List (Nat × Elem)) (w : Nat → Nat → Elem) (old new : Accum) : Prop :=
      new.err = old.err ∧ ∀ i n, i < r.ext1 → n < 32 → Sparse.get 0#32 new.cells ((row + i) * 32 + n) =
        outElement ov ng (f.rows / 8) (Sparse.get 0#32 old.cells ((row + i) * 32 + n)) (fun j => Sparse.get elemZero x (i * 128 + j)) (w n)
    (∀ q, o.kind = .msw q → ∃ u, exec (.mswExchange o.id) s = .next u ∧ ended u 0#32 ∧ others u q ∧
      arrays u q = some { was q with active := (was q).shadow, shadow := (was q).active }) ∧
    (∀ q k, o.kind = .mza q k → ∃ u, exec (.mzaClear o.id) s = .next u ∧ ended u 0#32 ∧ others u q ∧
      arrays u q = some { was q with accs := (was q).accs.set k.val Accum.reset }) ∧
    (∀ q f r, o.kind = .mls q f r →
      let x := s.mxReadAll o f r (fun i0 i1 => i1 * 32 + i0)
      x.wait = false → x.err = none → ∃ u, exec (.mlsFill o.id) s = .next u ∧ ended u 0#32 ∧ others u q ∧
        arrays u q = some { was q with shadow := { fmt := f, err := .zero, elems := x.elems } }) ∧
    (∀ q k ng ov f r row b, o.kind = .mst q k ng ov f r row →
      let x := s.mxReadAll o f r (fun i0 i1 => i1 * 128 + i0)
      x.wait = false → ∃ u w a, exec (.mstPass o.id b) s = .next u ∧ arrays u q = some a ∧ ended u w ∧ others u q ∧
        a.active = (was q).active ∧ a.shadow = (was q).shadow ∧ (∀ j : Fin 8, j ≠ k → a.accs[j.val] = (was q).accs[j.val]) ∧
        (x.err = none → b = false → (was q).active.err.kind = 0 → (was q).active.fmt = f → w = 0#32 ∧
          added f r row ov ng x.elems (fun n j => Sparse.get elemZero (was q).active.elems (j * 32 + n)) (was q).accs[k.val] a.accs[k.val])) ∧
    (∀ q k ng ov f r row b, o.kind = .mred q k ng ov f r row →
      let x := s.mxReadAll o f r (fun i0 i1 => i1 * 128 + i0)
      x.wait = false → ∃ u a, exec (.mredPass o.id b) s = .next u ∧ arrays u q = some a ∧ ended u (a.accs[k.val]).err.token ∧ others u q ∧
        a.active = (was q).active ∧ a.shadow = (was q).shadow ∧ (∀ j : Fin 8, j ≠ k → a.accs[j.val] = (was q).accs[j.val]) ∧
        (x.err = none → b = false → added f r row ov ng x.elems (fun _ _ => .fin false 1 0) (was q).accs[k.val] a.accs[k.val])) ∧
    (∀ q k ad sh df r row, o.kind = .mdr q k ad sh df r row →
      (((was q).accs[k.val]).err.kind ≠ 0 → ∃ u, exec (.mdrDrain o.id) s = .next u ∧ ended u ((was q).accs[k.val]).err.token) ∧
      (((was q).accs[k.val]).err.kind = 0 → ∃ u, exec (.mdrDrain o.id) s = .next u ∧ u.mem = s.mem ∧ ∃ p, u.op? o.id = some p ∧
        ∃ vals e, p.kind = .drained vals e ad sh df r ∧ vals.length = r.ext1 * 32 ∧
          ∀ i j, i < r.ext1 → j < 32 → vals.getD (i * 32 + j) 0#32 = Sparse.get 0#32 ((was q).accs[k.val]).cells ((row + i) * 32 + j))) ∧
    (∀ vals e df r l, o.kind = .drained vals e false false df r → indices (r.clip 0) (r.clip 1) 1 = [(0, 0, 0)] →
      s.engineTarget o .write .store false r.bytes r.bytes (r.addr (0, 0, 0)) = .ok l → l.here = true → l.bytes.length = r.bytes → e.kind = 0 →
      ∃ u, exec (.mdrCompletion o.id) s = .next u ∧ (∀ r, u.rd r = (s.wr t 0#32).rd r) ∧ u.ops = s.ops.filter (fun p => p.id != o.id) ∧
        s.stored u l (match df with
          | .f32 => (vals.getD 0 0#32).toNat
          | .f16 => (convert (.float f16) (.float f32) .rn (vals.getD 0 0#32).toNat).1
          | .bf16 => (convert (.float bf16) (.float f32) .rn (vals.getD 0 0#32).toNat).1))) ∧
  (∀ (s : State) (core : Nat) (c : CrewRef) (k : Crew), s.crew? c = some k → k.site.isResident = true → k.site.core = core →
    s.g.ref.crewRef = c → s.g.sch.run = .arrays → (∀ h, s.arrayHolder core = some h → s.arrayWork h.ref = false) →
    ∃ u, exec (.arrayStateSwap core c) s = .next u ∧ u.g.sch.run = .ready ∧ u.g.sc = s.g.sc ∧ u.mem = s.mem ∧
      (u.crew? c).map Crew.holdsArrays = some true ∧
      ∀ h ∈ u.crews, h.ref ≠ c → h.site.isResident = true → h.site.core = core → h.holdsArrays = false)

/-- R347, R348, R351 to R355: the dispatch instructions start their operation with the descriptor, read at issue, which has no
defect, and with at most four of the gang under way. R351 to R357: the steps of dispatch operations in their turn, of the
selected gang outside Plumb. A step that succeeds puts the operation into its next stage or ends it with its token; one that
fails ends it with the code of its error, and one that must wait leaves everything as it was. An arrival at a saved crew waits for its
resumption (R357). The first step of DPLAN and DGATH and the only one of DCNT and DSTAT come with OPERATION_COMPLETION, and DSCAT's rows
and SCATB with one step (log entry 75). R351: the offsets and the fill of a group of one participant, and the fate of every choice from
its offset and the number of earlier tokens routed to its expert. R352: gates without RENORM are those routed, and a single surviving
one is its own share. -/
def Obligations.DispatchResults : Prop :=
  (∀ (s : State) (t : SReg) (x : Pair) (sel : DstatSel) (v : Nat) (a : DWord),
    let go (extra : List SReg) : Prop := s.enGoes (some 3) t (pairRegs x ++ extra.map RegRef.s) = true ∧
      (s.begun (enUses t (pairRegs x ++ extra.map RegRef.s))).readAtIssue 128 64 (s.rdP x) = .ok v ∧ descriptorDefect v = false ∧
      s.dispatchOps s.g.ref < 4 ∧
      (s.begun (enUses t (pairRegs x ++ extra.map RegRef.s))).areaKey (Descriptor.ofNat v).ctx = .ok a
    let d := Descriptor.ofNat v
    (go [] → s.starts (exec (.dcnt t x) s) t (.dcnt d a) ∧ s.starts (exec (.dplan t x) s) t (.dplan d a .start) ∧
      s.starts (exec (.dscat t x) s) t (.dscat d a) ∧ s.starts (exec (.dgath t x) s) t (.dgath d a .start)) ∧
    (go (DstatSel.regs sel) → s.starts (exec (.dstat sel t x) s) t (.dstat d a sel (match sel with
        | .fill y => s.rd y
        | .gcount y _ => s.rd y
        | _ => 0#32) (match sel with
        | .gcount _ z => s.rd z
        | _ => 0#32)))) ∧
  (∀ (s : State) (o : Op) (t : SReg), s.runs o t →
    let ended (v : Word) (u w : State) : Prop := u.opEnds w o t v ∧ w.mem = u.mem
    let staged (k : OpKind) (u w : State) : Prop := w.mem = u.mem ∧ w.ops = u.ops.map (fun p => if p.id = o.id then { p with kind := k } else p)
    let start : Out := exec (.operationCompletion o.id) s
    (s.dispatchTurn o = true →
      (∀ d a, o.kind = .dcnt d a → s.engStep o t (runDcnt o d) start (ended 0#32)) ∧
      (∀ d a, o.kind = .dplan d a .start → s.engStep o t (dplanCounts o d) start (staged (.dplan d a .counts))) ∧
      (∀ d a, o.kind = .dscat d a → s.engStep o t (runDscat o d) (exec (.dscatScatbAddition o.id) s) (ended 0#32)) ∧
      (∀ d a, o.kind = .dgath d a .start → s.engStep o t (dgathPush o d) start (staged (.dgath d a .tags))) ∧
      (∀ d a sel y z, o.kind = .dstat d a sel y z → ∃ w, start = .next w ∧ match runDstat o d sel y z s with
        | .ok v u => s.mayEnd u o → ended (BitVec.ofNat 32 v) u w
        | .error (.wait _) _ => w = s
        | .error (.fault f) u => s.mayEnd u o → ended (BitVec.ofNat 32 (0xFFFFFF00 + f.kind)) u w)) ∧
    (s.mayGoOn o.owner = true →
      (∀ d a, o.kind = .dplan d a .counts → s.engStep o t (do let (q, heads) ← waitRows o d; dplanPlan o d q heads)
        (exec (.dplanCountsArrived o.id) s) (staged (.dplan d a .tags))) ∧
      (∀ d a, o.kind = .dplan d a .tags → s.engStep o t (dplanEnd o d) (exec (.dplanInvtagsArrived o.id) s) (ended 0#32)) ∧
      (∀ d a, o.kind = .dgath d a .tags → s.engStep o t (dgathEnd o d) (exec (.dgathGathtagsArrived o.id) s) (ended 0#32))) ∧
    (s.mayGoOn o.owner = false → (∀ d a, o.kind = .dplan d a .counts → exec (.dplanCountsArrived o.id) s = .next s) ∧
      (∀ d a, o.kind = .dplan d a .tags → exec (.dplanInvtagsArrived o.id) s = .next s) ∧
      (∀ d a, o.kind = .dgath d a .tags → exec (.dgathGathtagsArrived o.id) s = .next s))) ∧
  (∀ (d : Descriptor) (emap x : List Nat) (c e : Nat), d.npart = 1 → d.myRank = 0 →
    offsetOf d [x] c e = ((List.range c).map (fun c2 => x.getD (c2 * d.nexp + e) 0)).sum ∧
    ∀ slot, expertHome d emap e = some (0, slot) → (∀ e2, e2 < d.nexp → expertHome d emap e2 = some (0, slot) → e2 = e) → e < d.nexp →
      slotFill d emap [x] slot = min d.cap ((List.range d.k).map (fun c => x.getD (c * d.nexp + e) 0)).sum) ∧
  (∀ (d : Descriptor) (emap : List Nat) (g : List (List Nat)) (route : Nat × Nat → Nat × Bool × Nat) (n : Nat),
    let plan (m : Nat) : List Planned := (d.choices.take m).foldl (fun done tc => done ++ [planChoice d emap g done tc.1 tc.2 (route tc)]) []
    ∀ t c p, d.choices[n]? = some (t, c) → (plan (n + 1))[n]? = some p →
      let r := route (t, c)
      let earlier := ((List.range t).filter (fun t2 => (route (t2, c)).2.1 && (route (t2, c)).1 == r.1)).length
      let pos := offsetOf d g c r.1 + earlier
      p.token = t ∧ p.choice = c ∧ p.gate = r.2.2 ∧ p.expert = r.1 ∧
      (routedHome d emap r = none → p.fate = .dropped 2) ∧
      ∀ rank slot, routedHome d emap r = some (rank, slot) →
        p.fate = (if pos < d.cap then .placed rank (slot * d.cap + pos) else if d.pass then .passed else .dropped 1)) ∧
  (∀ (gs : List (Nat × Bool)) (g : Nat), gatesOf false gs = gs.map Prod.fst ∧
    ((∃ b m e, f32.decode g = .fin b m e ∧ m ≠ 0) → g < 2 ^ 32 → gatesOf true [(g, true)] = [g] ∧ gatesOf true [(g, false)] = [g]))

/-- R362, R372, R373: PSEED in a population launch outside Plumb sets the counter at once and its token is 0; PSEED.DIRECT
sets the value that the next RESAMP uses. RESAMP takes the gang to its collective and is PARTIAL-MASK under a partial exec
mask. R365, R366, R370, R371: the collective of a population launch whose one member is the selected gang. The counter moves
on; N = 0 gives 0x800 and a zero total weight 0x100 with nothing resampled; offspring counts sum to N and each is within one
of its lane's share. R367: otherwise a lane with offspring stays live, its GEN one higher; where no lane has a clone, exactly those
lanes stay live and nothing else of the lane state changes. R368, R369: the clones, parent after parent in slot order, take the dead
lanes of the gang from the lowest on, of which there are enough; each becomes live with its parent's lane registers, predicates, GEN
and ORIGIN and a SERIAL of its own. -/
def Obligations.PopulationResults : Prop :=
  (∀ (s : State) (t : SReg) (x y : Pair) (a : SReg) (w : Src) (l : Launch) (p : Population), s.packet.isPopulation = true →
    s.myLaunch? = some l → l.population = some p →
    let pop (u : State) : Option Population := u.myLaunch?.bind Launch.population
    (s.lacksRole (some 4) = true → exec (.pseed t x y) s = .next (s.kill .role) ∧ exec (.pseedDirect t a) s = .next (s.kill .role)) ∧
    (s.enGoes (some 4) t (pairRegs x ++ pairRegs y) = true → s.starts (exec (.pseed t x y) s) t (.value 0#32 .other) ∧
      ∃ u, exec (.pseed t x y) s = .next u ∧ pop u = some { p with ctr := s.rdP y ++ s.rdP x, pend := false }) ∧
    (s.enGoes (some 4) t [.s a] = true → s.starts (exec (.pseedDirect t a) s) t (.value 0#32 .other) ∧
      ∃ u, exec (.pseedDirect t a) s = .next u ∧ pop u = some { p with pval := s.rd a, pend := true }) ∧
    (w.vEnd 1 ≤ s.packet.vregs →
      let u := Uses.comparing (.s a :: w.regs false 0) (execRegs ++ [.s t])
      (s.consumed u = none → s.g.exec ≠ s.g.la.live → s.maskKnown = true → s.stopAt = none →
        exec (.resamp t a w) s = .next (s.atSwitch.raise (.plain 0x02))) ∧
      (s.g.exec = s.g.la.live → s.goes u = true → s.g.bd.pending = [] → s.ops = [] →
        ∃ v, exec (.resamp t a w) s = .next v ∧ (∀ r, v.rd r = s.rd r) ∧ v.g.sc.pc = s.g.sc.pc ∧ v.mem = s.mem ∧
          v.g.sch.run = .sieve t (s.rd a) w))) ∧
  ((∀ (n r : Nat) (xs : List (Slot × Nat)), (xs.map Prod.snd).sum ≠ 0 → r < 2 ^ 32 →
    let w := (xs.map Prod.snd).sum
    ((offspring n r w 0 xs).map Prod.snd).sum = n ∧ (offspring n r w 0 xs).map Prod.fst = xs.map Prod.fst ∧
      ∀ (i : Nat) (x k : Slot × Nat), xs[i]? = some x → (offspring n r w 0 xs)[i]? = some k → k.2 * w < n * x.2 + w ∧ n * x.2 < k.2 * w + w) ∧
  (∀ (s : State) (l : Launch) (p : Population) (t : SReg) (n : Word) (w : Src), s.launch? s.g.ref.launch = some l → l.packet.plumb = false →
    l.population = some p → s.gangs = [] → s.g.ref.twin = false → s.g.ref ≠ noGang → s.g.sch.run = .sieve t n w →
    s.sieveReady l false = true → (n = 0#32 ∨ ((liveWeights [s.g]).map (fun x => x.2.1)).sum = 0) →
    let bad : Word := if (liveWeights [s.g]).any (fun x => x.2.2) then 0x200#32 else 0#32
    ∃ u, exec (.collectivePerformance s.g.ref.launch) s = .next u ∧
      (∀ r, u.rd r = (s.wr t (bad ||| (if n = 0#32 then 0x800#32 else 0x100#32))).rd r) ∧ u.g.sc.pc = s.g.sc.pc + 12#64 ∧ u.mem = s.mem ∧
      u.g.la.live = s.g.la.live ∧ u.g.sch.run = (if s.g.la.live = 0#96 then .noLive t else .ready) ∧
      (u.launch? s.g.ref.launch).bind Launch.population = some { p with pend := false, ctr := p.ctr + 1#128 }) ∧
  (∀ (s : State) (l : Launch) (p : Population) (t : SReg) (n : Word) (w : Src), s.launch? s.g.ref.launch = some l → l.packet.plumb = false →
    l.population = some p → s.gangs = [] → s.g.ref.twin = false → s.g.ref ≠ noGang → s.g.sch.run = .sieve t n w →
    s.sieveReady l false = true → n ≠ 0#32 → ((liveWeights [s.g]).map (fun x => x.2.1)).sum ≠ 0 → s.g.badLanes = 0#96 →
    let ws := liveWeights [s.g]
    let room := ws.length + (deadSlots [s.g]).length
    let bad : Word := if ws.any (fun x => x.2.2) then 0x200#32 else 0#32
    let ns := offspring (min n.toNat room) p.next.toNat (ws.map (fun x => x.2.1)).sum 0 (ws.map (fun x => (x.1, x.2.1)))
    let stays (i : Nat) : Bool := ns.any (fun x => x.1.lane == i && x.2 != 0)
    ∃ u, exec (.collectivePerformance s.g.ref.launch) s = .next u ∧ u.g.sc.pc = s.g.sc.pc + 12#64 ∧ u.mem = s.mem ∧ u.g.sch.run = .ready ∧
      (∀ r, r ∉ [56#6, 57#6, 58#6] → u.rd r = (s.wr t (if n.toNat > room then bad ||| 0x400#32 else bad)).rd r) ∧
      ((u.launch? s.g.ref.launch).bind Launch.population).map (fun q => (q.pend, q.ctr)) = some (false, p.ctr + 1#128) ∧
      (∀ i < 96, stays i = true → u.g.la.live.getLsbD i = true ∧ laneAt64 u.g.la.lineage i = nextGen (laneAt64 s.g.la.lineage i)) ∧
      (s.g.la.live &&& ~~~ s.g.la.present = 0#96 →
        let parents : List Nat := (ns.map (fun x => List.replicate (x.2 - 1) x.1.lane)).flatten
        let dead : List Nat := (List.range 96).filter (fun i => s.g.la.present.getLsbD i && !stays i)
        parents.length ≤ dead.length ∧ ∀ i a b : Nat, parents[i]? = some a → dead[i]? = some b →
          u.g.la.live.getLsbD b = true ∧
          laneAt64 u.g.la.lineage b = (laneAt64 u.g.la.lineage a).extractLsb' 24 40 ++ BitVec.ofNat 24 ((p.serial + i + 1) % 2 ^ 24) ∧
          (∀ r < l.packet.vregs, r < 256 → laneAt (u.g.la.vreg r) b = laneAt (s.g.la.vreg r) a) ∧
          (∀ r < 8, laneAt (u.g.la.oreg r) b = laneAt (s.g.la.oreg r) a) ∧
          ∀ q, (u.g.pred q).getLsbD b = (s.g.pred q).getLsbD a) ∧
      ((∀ x ∈ ns, x.2 ≤ 1) →
        (∀ i < 96, u.g.la.live.getLsbD i = stays i ∧ (stays i = false → laneAt64 u.g.la.lineage i = laneAt64 s.g.la.lineage i)) ∧
        { u.g.la with live := s.g.la.live, lineage := s.g.la.lineage } = s.g.la ∧
        (t ∉ [56#6, 57#6, 58#6] → u.g.exec = s.g.exec &&& u.g.la.live) ∧
        (u.launch? s.g.ref.launch).bind Launch.population = some { p with pend := false, ctr := p.ctr + 1#128 })))

/-- R448, R451, R452, R425, R426: MCAST of a valid region, RACK, PEERQ and LOCQ start their operation; RACK sends what the
gang's coalescer holds. RACK and PEERQ take their value when the operation ends, LOCQ at issue, where a lookup that a quiesce holds is
waited for (log entry 73). MCAST of a region that is not aligned to 16 bytes or not in the allocation faults. R312, R451, R452, R484:
OPERATION_COMPLETION of an operation whose value is known, of a RACK with nothing unacknowledged, and of a PEERQ of STATE, for the
selected gang outside Plumb. -/
def Obligations.FabricStartResults : Prop :=
  (∀ (s : State) (o : Op) (t : SReg), s.runs o t →
    (∀ w c, o.kind = .value w c → ∃ u, exec (.operationCompletion o.id) s = .next u ∧ s.opEnds u o t w ∧ u.mem = s.mem) ∧
    (∀ dev, o.kind = .rack dev → (∀ x ∈ s.fab.unacked, x.owner ≠ s.g.ref) →
      let mine (r : RemoteOp) : Bool := dev.all (fun d => r.dev == d)
      ∃ u, exec (.operationCompletion o.id) s = .next u ∧ s.opEnds u o t (if s.g.discarded.any mine then 0x30#32 else 0#32) ∧ u.mem = s.mem ∧
        u.g.discarded = s.g.discarded.filter (fun r => !mine r)) ∧
    (∀ dev, o.kind = .peerq .state dev → ∃ u, exec (.operationCompletion o.id) s = .next u ∧ u.mem = s.mem ∧
      s.opEnds u o t (if dev = s.pkg.device then 0#32 else if dev ∉ s.fab.reach then 2#32 else if dev ∈ s.fab.suspects then 3#32 else 1#32))) ∧
  ∀ (s : State) (ak : Bool) (t a b c d : SReg) (x : Pair) (ps : PeerSel),
    (s.enGoes (some 5) t [.s a, .s b, .s c, .s d] = true → s.mcastOps s.g.ref < 4 →
      let off := (s.rd a).toNat
      let n := (s.rd b).toNat
      let e := s.group ((s.rd c).toNat % 1024)
      let u := s.begun (enUses t [.s a, .s b, .s c, .s d])
      let o := exec (.mcast ak t a b c d) s
      ((off % 16 ≠ 0 ∨ n % 16 ≠ 0) → o = .next (u.raise { FaultInfo.plain 0x17 with pointer := BitVec.ofNat 64 off })) ∧
      (off % 16 = 0 → n % 16 = 0 → (n = 0 ∨ s.myAlloc < off + n) → o = .next (u.raise { FaultInfo.plain 0x13 with pointer := BitVec.ofNat 64 off })) ∧
      (off % 16 = 0 → n % 16 = 0 → n ≠ 0 → off + n ≤ s.myAlloc →
        ((e.valid = false ∨ e.owner ≠ s.myIface) → s.starts o t (.value 0x12#32 .mcast)) ∧
        (e.valid = true → e.owner = s.myIface → s.poisonedByte ((Place.scratch s.myCore (s.myBase + off)).run n) = none → childTrees e.tree = [] →
          s.starts o t (.mcast ak off (s.rd d).toNat s.myIface e.tree [] [] true)))) ∧
    (s.enGoes (some 5) t [] = true → s.starts (exec (.rack t) s) t (.rack none)) ∧
    (s.enGoes (some 5) t [.s a] = true → s.starts (exec (.rackDev t a) s) t (.rack (some ((s.rd a).toNat % 4096))) ∧
      s.starts (exec (.peerq ps t a) s) t (.peerq ps ((s.rd a).toNat % 4096))) ∧
    (s.enGoes none t (pairRegs x) = true →
      let b := s.begun (enUses t (pairRegs x))
      (∀ v, b.locValue (b.request .read 1) (s.rdP x) = some v → s.starts (exec (.locq t x) s) t (.value v .other)) ∧
      (b.locValue (b.request .read 1) (s.rdP x) = none → ∃ t', exec (.locq t x) s = .next t' ∧ t'.mem = s.mem ∧
        t'.g.sc = s.g.sc ∧ t'.ops = s.ops ∧ t'.g.sch.run = .quiesce)) ∧
    (s.enGoes none t [] = true → s.starts (exec (.locqSelf t) s) t (.value (BitVec.ofNat 32 (s.myDie * 2 ^ 30)) .other))

/-! ## Events of the device and of its environment -/

/-- R192 to R194, R207, R213, R74, R93: issue selection and promotion, the return of a load's data, doorbells and the queue
port, and the dequeuing of a kernel launch from a queue and from a graph. -/
def Obligations.CommandEvents : Prop :=
  ∀ (s : State),
    (∀ core pipe h, s.issuing = false →
      let d := s.promoteDue core pipe
      firstToIssue (d.allGangs.filter (d.readyOn core pipe)) = some h →
      ((∃ k ∈ s.allGangs, s.readyOn core pipe k = true ∧ 64 ≤ k.sch.notIssued) → h.sch.promoted.isSome = true) ∧
      ∃ u : State, exec (.issueSelection core pipe) s = .next u ∧ u.issuing = true ∧ d.gang? h.ref = some u.g ∧ u.mem = s.mem ∧
        ∀ k ∈ s.allGangs, s.onPipe core pipe k = true → k.ref ≠ h.ref → k.ref ≠ noGang →
          ∃ j ∈ u.allGangs, j.ref = k.ref ∧ j.sc = k.sc ∧ j.sch.deferred = false ∧
            (if s.readyOn core pipe k then k.sch.notIssued < j.sch.notIssued ∧ j.sch.notIssued ≤ k.sch.notIssued + 3
             else j.sch.notIssued = k.sch.notIssued)) ∧
    (∀ g h, s.gang? g = some h → 64 ≤ h.sch.notIssued → h.sch.promoted = none →
      ∃ u : State, exec (.promotion g) s = .next u ∧ u.mem = s.mem ∧
        u.gang? g = some { h with sch := { h.sch with promoted := some s.nextId, deferred := false } }) ∧
    (∀ g h r, s.gang? g = some h → s.remotePending g r = false → s.lateOp? g r = none → s.noRelease →
      ∃ (u : State) (k : Gang), exec (.dataReturn g r) s = .next u ∧ u.gang? g = some k ∧ u.mem = s.mem ∧ k.sc = h.sc ∧ k.la = h.la ∧
        ∀ q, q ∈ k.bd.pending ↔ q ∈ h.bd.pending ∧ q ≠ r) ∧
    (∀ g h r o dst n rs items, s.gang? g = some h → s.remotePending g r = false → s.lateOp? g r = some o →
      o.kind = .localLoad dst n rs items → h.sch.run.isOver = false → s.noRelease →
      let now (i : LocalItem) : Nat := leValue (i.places.map s.homeByte)
      ∃ (u : State) (k : Gang) (v : LocalItem → Nat), exec (.dataReturn g r) s = .next u ∧ u.gang? g = some k ∧ u.mem = s.mem ∧
        u.ops = s.ops.filter (fun x => x.id != o.id) ∧ (∀ q, q ∈ k.bd.pending ↔ q ∈ h.bd.pending ∧ q ∉ rs) ∧
        (∀ i ∈ items, s.poisonedByte i.places = none → n ≤ 8 → v i = now i) ∧
        (∀ i ∈ items, s.poisonedByte i.places = none → (v i % 2 ^ 64 = now i % 2 ^ 64 ∨ v i % 2 ^ 64 = i.seen % 2 ^ 64) ∧
          (v i / 2 ^ 64 = now i / 2 ^ 64 ∨ v i / 2 ^ 64 = i.seen / 2 ^ 64)) ∧
        h.hasLoaded k dst n (items.map (fun i => (i.lane, v i)))) ∧
    (∀ i q v, s.pkg.boot = 0x80 → q < (s.ifc i).queues → (s.queue i q).enable = true → (s.queue i q).error = false →
      v ≠ (s.queue i q).tail →
      ∃ u : State, exec (.doorbell i q v) s = .next u ∧ u.mem = s.mem ∧ u.pw.woken = true ∧ (u.queue i q).head = (s.queue i q).head ∧
        (if (v - (s.queue i q).tail).toNat ≤ 2 ^ (s.queue i q).log2 - ((s.queue i q).tail - (s.queue i q).head).toNat then
          (u.queue i q).tail = v ∧ (u.queue i q).error = false
         else (u.queue i q).tail = (s.queue i q).tail ∧ (u.queue i q).error = true)) ∧
    (∀ i, s.qselReserved i = true →
      exec (.qcmdWrite i) s = .next (s.setReg i rQStat 0x10#64) ∧ exec (.qcmdRead i) s = .next (s.setReg i rQStat 0x10#64)) ∧
    (∀ i, s.qselReserved i = false → s.qsel i < (s.ifc i).queues →
      let d := s.qdata i
      let old := s.queue i (s.qsel i)
      d.extractLsb' 11 117 = 0#117 → d.extractLsb' 5 4 = 0#4 → 1 ≤ (d.extractLsb' 0 5).toNat → (d.extractLsb' 0 5).toNat ≤ 16 →
      d.extractLsb' 192 7 = 0#7 →
      ¬ (old.enable = true ∧ d.getLsbD 9 = true ∧ (d.extractLsb' 192 64 ≠ old.base ∨ (d.extractLsb' 0 5).toNat ≠ old.log2)) →
      ∃ u : State, exec (.qcmdWrite i) s = .next u ∧ u.reg i rQStat = 0#64 ∧ u.mem = s.mem ∧
        u.queue i (s.qsel i) =
          (if d.getLsbD 9 then
            { base := d.extractLsb' 192 64, tail := 0#32, head := 0#32, error := false, enable := true, log2 := (d.extractLsb' 0 5).toNat }
           else { old with base := d.extractLsb' 192 64, enable := false, log2 := (d.extractLsb' 0 5).toNat })) ∧
    (∀ i, s.qselReserved i = false → s.qsel i < (s.ifc i).queues →
      ∃ u : State, exec (.qcmdRead i) s = .next u ∧ u.reg i rQStat = 0#64 ∧ u.qdata i = (s.queue i (s.qsel i)).bits ∧
        (∀ q, u.queue i q = s.queue i q) ∧ u.mem = s.mem) ∧
    (∀ i q bs params bands stages, s.servable i q = true → s.cpRead i (s.queue i q).slotPtr 128 = .ok bs →
      let p := Packet.ofWords (packetWords bs)
      s.mayBegin i q p.overlap = true → s.checkPacket i false (packetWords bs) p = .ok (.kernel params bands stages) →
      ∃ u : State, exec (.dequeue i q) s = .next u ∧ u.admSeq = s.admSeq + 1 ∧ (u.queue i q).head = (s.queue i q).head + 1#32 ∧
        ∃ l ∈ u.launches, l.seq = s.admSeq + 1 ∧ l.iface = i ∧ l.queue = q ∧ l.packet = p ∧ l.phase = .running ∧ l.params = params ∧
          l.bandList = bands ∧ l.stageList = stages ∧ l.nextCrew = 0) ∧
    (∀ graph node r bs params bands stages, s.replays.find? (fun x => x.seq == graph) = some r → s.nodeReady r node = true →
      s.cpRead r.iface (r.nodePtr + BitVec.ofNat 64 (128 * node)) 128 = .ok bs →
      let p := Packet.ofWords (packetWords bs)
      s.checkPacket r.iface true (packetWords bs) p = .ok (.kernel params bands stages) →
      ∃ u : State, exec (.graphNodeDequeue graph node) s = .next u ∧
        (∀ x ∈ u.replays, x.seq = graph → (node, s.admSeq + 1) ∈ x.running) ∧
        ∃ l ∈ u.launches, l.seq = s.admSeq + 1 ∧ l.graph = some (graph, node) ∧ l.packet = p ∧ l.phase = .running ∧
          l.params = patched params (r.patches.filter (fun x => x.node == node)))

/-- R198, R203, R208, R214, R389, R391: the placement of a crew, a timed start, the watchdog, the end of a launch,
pre-emption, the end of a drain's bound, a save, and a saved crew's resumption. Placement and resumption are stated for one
crew of a launch that is neither COSCHED nor PLUMB: it takes the first range of scratchpad that is free (log entry 13), as zeros; a save
takes the scratchpad's bytes with the crew, and the resumption puts them back at their new place. -/
def Obligations.PlacementEvents : Prop :=
  ∀ (s : State),
    (∀ launch c l f i pipes base, s.reap.launch? launch = some l → s.reap.firstFor c = some f → f.seq = launch →
      s.reap.nextCrewOf l = some (i, false) → l.packet.cosched = false → l.packet.plumb = false → s.coreOn c = true →
      s.reap.pipes c l.packet = some pipes → s.reap.findBase c (allocBytes l.packet.scratch) = some base → s.pw.pstate = .active →
      ∃ u : State, exec (.crewPlacement launch [c]) s = .next u ∧
        (∃ k ∈ u.crews, k.ref = { launch := l.seq, crew := i, twin := false } ∧ k.site = .resident c base) ∧
        (∀ a, a < allocBytes l.packet.scratch → u.mem.get (scratchKey c base + a) = 0#8) ∧
        ∀ g, g < l.packet.gangs → ∃ h ∈ u.gangs, h.ref = { launch := l.seq, crew := i, gang := g, twin := false } ∧
          h.sch.run = .ready ∧ h.la.live = existingLanes l.packet g ∧ h.rd 4#6 = BitVec.ofNat 32 i ∧ h.rd 5#6 = BitVec.ofNat 32 g) ∧
    (∀ launch l, s.launch? launch = some l → l.packet.start.toNat ≤ (s.view l.iface).toNat →
      ∃ u : State, exec (.timedStart launch) s = .next u ∧ u.launch? launch = some { l with started := true } ∧ u.mem = s.mem) ∧
    (∀ launch l, s.launch? launch = some l → l.packet.watchdog ≠ 0#64 → l.packet.watchdog.toNat ≤ l.watch → l.phase = .running →
      l.halted = false → (∀ x ∈ s.records, x.follows l.iface (s.view l.iface).toNat (s.ifc l.iface).fqFrom { launch := launch, crew := 0, gang := 0, twin := false } = false) →
      ∃ (u : State) (r : FaultRec), exec (.watchdog launch) s = .next u ∧ u.records = s.records ++ [r] ∧ r.info = .plain 0x40 ∧
        r.iface = l.iface ∧ r.gang.launch = launch ∧ r.parked = false ∧ (u.launch? launch).map Launch.phase = some (.failing 0x40)) ∧
    (∀ launch l u, s.reap.fab.coalesced = [] → s.reap.launch? launch = some l → l.phase = .running → s.reap.crewsEnded l = true →
      s.reap.launchQuiet launch = true → s.reap.unconsumed launch = none →
      let r := s.reap.freeHeld launch
      (r.2.dropLaunch l).report l r.1 = some u →
      exec (.launchEnd launch) s = .next u ∧ (∀ x ∈ u.launches, x.seq ≠ launch) ∧ (∀ h ∈ u.gangs, h.ref.launch ≠ launch)) ∧
    (∀ c bound l k, s.launch? c.launch = some l → s.crew? c = some k → k.site.isResident = true → k.preempt = .no →
      s.crewEnded c = false →
      ∃ (u : State) (how : Preempt), exec (.preemption c bound) s = .next u ∧ how ≠ .no ∧ u.mem = s.mem ∧
        (∀ x ∈ u.crews, x.ref = c → x.preempt = how) ∧
        (how = .flush → l.packet.idempotent = true ∧ l.packet.cosched = false ∧ l.packet.isPopulation = false)) ∧
    (∀ c k d, s.crew? c = some k → k.preempt = .drain (some d) → d ≤ s.time →
      ∃ u : State, exec (.drainBoundExpiry c) s = .next u ∧ u.crew? c = some { k with preempt := .save } ∧ u.mem = s.mem) ∧
    (∀ c k l core base, s.crew? c = some k → s.launch? c.launch = some l → k.site = .resident core base → k.preempt = .save →
      s.preemptUnit c = [k] → s.crewStopped c = true → s.crewQuiet c = true → s.fab.coalesced = [] →
      (∀ w ∈ s.wq, s.isBuffered w = false → ∀ p ∈ w.places, s.inAllocation c p = false) →
      (∀ o ∈ s.ops, ∀ d n rs is, o.kind = .localLoad d n rs is → ∀ i ∈ is, ∀ p ∈ i.places, s.inAllocation c p = false) →
      s.bufferedInto c = false → s.noRelease →
      ∃ (u : State) (j : Crew), exec (.save c) s = .next u ∧ u.crew? c = some j ∧ j.site = .saved core base ∧ j.saves = k.saves + 1 ∧
        j.preempt = .no ∧ j.arrays = k.arrays ∧ u.mem = s.mem ∧
        ∀ a, a < allocBytes l.packet.scratch → Sparse.get 0#8 j.savedBytes a = s.mem.get (scratchKey core base + a)) ∧
    (∀ launch l f k core base pipes, s.reap.launch? launch = some l → s.reap.firstFor core = some f → f.seq = launch →
      s.reap.resumeUnit l = [k] → l.packet.cosched = false → s.coreOn core = true →
      s.reap.pipes core l.packet = some pipes → s.reap.rangeFree core base (allocBytes l.packet.scratch) = true →
      s.pw.pstate = .active → Sparse.wf 0#8 k.savedBytes = true →
      ∃ u : State, exec (.crewResumption launch [(core, base)]) s = .next u ∧
        (∀ x ∈ u.crews, x.ref = k.ref → x.site = .resident core base ∧ x.saves = k.saves ∧ x.arrays = k.arrays) ∧
        (∀ a, a < allocBytes l.packet.scratch → u.mem.get (scratchKey core base + a) = Sparse.get 0#8 k.savedBytes a) ∧
        ∀ h ∈ u.gangs, h.ref.crewRef = k.ref → h.sch.run ≠ .stopped)

/-- R380, R381, R383, R398, R400, R402: the write of a fault record after the tick of its fault (log entry 130), RESUME and FAIL, the registers of the fault queue, the
rollback of a launch whose self-test passes, and the commands on a persistent snapshot. -/
def Obligations.FaultEvents : Prop :=
  ∀ (s : State),
    (∀ i r t, s.nextRecord i = some r → s.fqOpen i = true → r.time ≠ (s.view i).toNat → s.reg i rFqNotify = 0#64 →
      s.cpWrite i (s.reg i rFqBase + BitVec.ofNat 64 (64 * (((s.reg i rFqTail).extractLsb' 0 32).toNat % s.fqSlots i))) r.bytes = .ok t →
      ∃ u : State, exec (.faultRecordWrite i) s = .next u ∧ u.mem = t.mem ∧
        u.reg i rFqTail = ((s.reg i rFqTail).extractLsb' 0 32 + 1#32).setWidth 64 ∧
        (∀ x ∈ u.records, x.id = r.id → x.written = true) ∧ u.records.length = s.records.length) ∧
    (∀ i first r l, first < 65536 → s.recordOf i first = some r → s.launch? r.gang.launch = some l →
      s.allGangs.any (fun h => h.sch.run == .parked r.id) = true →
      ∃ u : State, exec (.fqcmdResume i first 1) s = .next u ∧ (u.reg i rFqStat).extractLsb' 0 8 = 0#8 ∧
        (u.reg i rFqStat).extractLsb' 16 16 = 1#16 ∧ u.mem = s.mem ∧
        ∀ h ∈ s.allGangs, h.sch.run = .parked r.id → ∃ k ∈ u.allGangs, k.ref = h.ref ∧
          k.sch.run = (if l.halted then .stopped else .ready) ∧ k.sch.resumes = h.sch.resumes + 1 ∧ k.sc.regs = h.sc.regs ∧
          k.sc.pc = (if r.info.kind = 0x41 ∨ r.info.kind = 0x42 then h.sc.pc + 4#64 else h.sc.pc)) ∧
    (∀ i first r l, s.recordOf i first = some r → s.launch? r.gang.launch = some l → l.phase = .running →
      ∃ u : State, exec (.fqcmdFail i first) s = .next u ∧ (u.launch? r.gang.launch).map Launch.phase = some (.failing r.info.kind) ∧
        (u.reg i rFqStat).extractLsb' 0 8 = 0#8 ∧ (u.reg i rFqStat).extractLsb' 16 16 = 1#16) ∧
    (∀ i (v : DWord), v &&& ~~~ 0x21F#64 = 0#64 → 4 ≤ (v.extractLsb' 0 5).toNat → (v.extractLsb' 0 5).toNat ≤ 12 →
      ∃ u : State, exec (.fqctlWrite i v) s = .next u ∧ u.reg i rFqCtl = v ∧ u.mem = s.mem ∧
        (if v.getLsbD 9 then u.reg i rFqHead = 0#64 ∧ u.reg i rFqTail = 0#64 ∧ (u.ifc i).faultSeq = 0
         else u.reg i rFqHead = s.reg i rFqHead ∧ u.reg i rFqTail = s.reg i rFqTail ∧ (u.ifc i).faultSeq = (s.ifc i).faultSeq)) ∧
    (∀ i (v : DWord), v.extractLsb' 0 6 = 0#6 →
      ∃ u : State, exec (.fqbaseWrite i v) s = .next u ∧ u.reg i rFqBase = v ∧ (u.ifc i).fqStuck = false ∧ u.mem = s.mem) ∧
    (∀ i (v : DWord), ∃ u : State, exec (.fqnotifyWrite i v) s = .next u ∧ u.reg i rFqNotify = v ∧
      (u.reg i rFqStat).extractLsb' 8 8 = 0#8 ∧ (u.reg i rFqStat).extractLsb' 0 8 = (s.reg i rFqStat).extractLsb' 0 8 ∧
      (u.reg i rFqStat).extractLsb' 16 48 = (s.reg i rFqStat).extractLsb' 16 48 ∧ u.mem = s.mem) ∧
    (∀ launch l kind g home, s.launch? launch = some l → l.phase = .rolling kind g home → s.gangsOver launch = true →
      s.launchQuiet launch = true →
      ∃ u : State, exec (.rollback launch true) s = .next u ∧
        (match l.snapshot with
         | none => ∀ x ∈ u.launches, x.seq = launch → x.phase = .failing kind
         | some p =>
           if p.nonReplayable = true ∨ 3 ≤ p.replays then ∀ x ∈ u.launches, x.seq = launch → x.phase = .failing kind
           else (∀ x ∈ u.launches, x.seq = launch → x.phase = .running ∧ x.nextCrew = 0 ∧
               x.snapshot.map Snapshot.replays = some (p.replays + 1)) ∧
             (∀ h ∈ u.gangs, h.ref.launch ≠ launch) ∧
             (u.reg l.iface rRelCnt).extractLsb' 32 32 = (s.reg l.iface rRelCnt).extractLsb' 32 32 + 1#32)) ∧
    (∀ i name k, s.memoryOk → (s.ifc i).kept.find? (fun x => x.name == name) = some k →
      (s.inUse k.snap = true → exec (.snapcmdRestore i name) s = .next (s.setReg i rSnapStat 0x12#64)) ∧
      (s.inUse k.snap = false →
        ∃ u : State, exec (.snapcmdRestore i name) s = .next u ∧ u.reg i rSnapStat = 0#64 ∧
          (∀ a, a / 65536 ∉ k.snap.copied.map Prod.fst → u.mem.get a = s.mem.get a) ∧
          ((k.snap.copied.map Prod.fst).Nodup → (∀ c ∈ k.snap.copied, c.2 ∉ k.snap.copied.map Prod.fst) →
            ∀ c ∈ k.snap.copied, ∀ j < 65536, u.mem.get (c.1 * 65536 + j) = s.mem.get (c.2 * 65536 + j))) ∧
      ∃ u : State, exec (.snapcmdFree i name) s = .next u ∧ u.reg i rSnapStat = 0#64 ∧
        (∀ x, x ∈ (u.ifc i).kept ↔ x ∈ (s.ifc i).kept ∧ x.name ≠ name))

/-- R277 to R279, R197, R229, R230, R427, R446, R479, R480, R483: the table port and its quiesces, windows, interfaces and
allocations, the group table, the plain registers and the clearing of counters. A part that an allocation change or the removal
of an interface takes away goes behind the quiesces of the entries that reach it (log entry 70); a control write that would pass
the bound on queues leaves the interface as it was (log entry 96). -/
def Obligations.TableEvents : Prop :=
  ∀ (s : State),
    (∀ id q, s.quiesces.find? (fun x => x.id == id) = some q → s.drained q.what = true →
      ∃ u : State, exec (.quiesce id) s = .next u ∧ (∀ x ∈ u.quiesces, x.id ≠ id) ∧ (∀ h ∈ u.allGangs, h.sch.run ≠ .quiesce) ∧
        (∀ i, q.port = some i → u.reg i rLtStat = 0#64) ∧
        (∀ k e, q.what = .entry k e → u.entry k = { e with gen := (s.entry k).gen + 1#8 } ∧ u.mem = s.mem) ∧
        (∀ a m, q.what = .page a m → u.pageEntry a &&& ~~~ 2#128 = m &&& ~~~ 2#128 ∧ u.labels = s.labels)) ∧
    (∀ i k, s.ltKey i = some k →
      let e := LabelEntry.ofBits (s.reg i rLtData1 ++ s.reg i rLtData0)
      ((k.reserved = true ∨ (k.level = lvC ∧ e.action = .land)) →
        exec (.ltcmdWriteEntry i) s = .next (s.setReg i rLtStat 0x12#64)) ∧
      (k.reserved = false → ¬ (k.level = lvC ∧ e.action = .land) → e.defect k = false → (k.level = lvC ∨ s.allocated i e = true) →
        ∃ u : State, exec (.ltcmdWriteEntry i) s = .next u ∧ u.reg i rLtStat = 1#64 ∧ u.labels = s.labels ∧ u.mem = s.mem ∧
          u.quiesces = s.quiesces ++ [{ id := s.nextId, what := .entry k e, port := some i }]) ∧
      (k.reserved = false →
        ∃ u : State, exec (.ltcmdReadEntry i) s = .next u ∧ u.reg i rLtStat = 0#64 ∧
          u.reg i rLtData1 ++ u.reg i rLtData0 = (s.entry k).bits ∧ u.labels = s.labels ∧ u.mem = s.mem)) ∧
    (∀ i k, s.ltKey i = some k → k.reserved = false →
      let e := s.entry k
      let aux := s.reg i rLtAux
      let half := e.shadowed && (e.sel ^^ aux.getLsbD 32)
      let m := s.reg i rLtData1 ++ s.reg i rLtData0
      e.action = .land → e.paged = true → aux.extractLsb' 33 31 = 0#31 → (aux.extractLsb' 0 32).toNat < e.pageCount →
      (aux.getLsbD 32 = true → e.shadowed = true) → m.extractLsb' 16 35 = 0#35 → m.extractLsb' 3 5 = 0#5 →
      (s.ifc i).alloc.holdsPage e m = true →
      ∃ u : State, exec (.ltcmdWritePageMap i) s = .next u ∧ u.reg i rLtStat = 1#64 ∧ u.mem = s.mem ∧
        u.quiesces = s.quiesces ++ [{ id := s.nextId, port := some i, what := .page ((e.base.extractLsb' 0 40).toNat +
          16 * ((if half then e.pageCount else 0) + (aux.extractLsb' 0 32).toNat)) m }]) ∧
    (∀ i d first count, s.pkg.dieMask.getLsbD d = true → first + count ≤ 64 →
      (∀ ki ∈ s.ifaces, ∀ n, first ≤ n → n < first + count → (d, n) ∉ ki.2.windows) →
      ∃ u : State, exec (.windowCarve i d first count) s = .next u ∧
        (∀ x, x ∈ (u.ifc i).windows ↔ x ∈ (s.ifc i).windows ∨ (x.1 = d ∧ first ≤ x.2 ∧ x.2 < first + count)) ∧
        ∀ n b, first ≤ n → n < first + count → b < 2 ^ 20 → u.mem.get (windowKey d (n * 2 ^ 20 + b)) = 0#8) ∧
    (let waits (u : State) (i : Nat) (p : Option AllocPart) : Prop :=
      u.ifc i = s.ifc i ∧ u.mem = s.mem ∧ u.labels = s.labels ∧ { iface := i, part := p } ∈ u.withdrawals ∧
        (∀ x ∈ s.reaching i p, ∃ q ∈ u.quiesces, q.what = x) ∧ ∀ q ∈ u.quiesces, q ∈ s.quiesces ∨ q.what ∈ s.reaching i p
    let reached (i : Nat) (p : Option AllocPart) : Prop := s.reaching i p ≠ [] ∨ s.reachedSoon i p = true
    (∀ i d first count, ∃ u : State, exec (.windowReturn i d first count) s = .next u ∧
      (reached i (some (.windows d first count)) → waits u i (some (.windows d first count))) ∧
      (¬ reached i (some (.windows d first count)) →
        (∀ x, x ∈ (u.ifc i).windows ↔ x ∈ (s.ifc i).windows ∧ ¬ (x.1 = d ∧ first ≤ x.2 ∧ x.2 < first + count)) ∧
        ∀ n b, first ≤ n → n < first + count → (d, n) ∈ (s.ifc i).windows → b < 2 ^ 20 →
          u.mem.get (windowKey d (n * 2 ^ 20 + b)) = 0#8)) ∧
    (∀ i (ctl : BitVec 128), i < 64 → ∃ u : State, exec (.interfaceControlWrite i false ctl) s = .next u ∧
      (reached i none → waits u i none) ∧
      (¬ reached i none → u.ifc i = .reset ∧ (∀ q, q < 1024 → u.queue i q = .reset) ∧
        (∀ off, off < 2 ^ 17 → u.reg i off = if off = rLostLast ∨ off = rLostCount then s.reg i off else 0#64) ∧
        ∀ k : EntryKey, k.dev = 0 → k.iface = i → u.entry k = .reset)) ∧
    (∀ i f n,
      let has (a : Alloc) (x : Nat) : Prop := ∃ r ∈ a.granules, r.1 ≤ x ∧ x < r.1 + r.2
      (∃ u : State, exec (.allocationChange i true (.granules f n)) s = .next u ∧ u.mem = s.mem ∧
        (∀ x, has (u.ifc i).alloc x ↔ has (s.ifc i).alloc x ∨ (f ≤ x ∧ x < f + n)) ∧
        (u.ifc i).alloc.pools = (s.ifc i).alloc.pools ∧ (u.ifc i).alloc.hosts = (s.ifc i).alloc.hosts) ∧
      ∃ u : State, exec (.allocationChange i false (.granules f n)) s = .next u ∧ u.mem = s.mem ∧ u.labels = s.labels ∧
        (reached i (some (.granules f n)) → waits u i (some (.granules f n))) ∧
        (¬ reached i (some (.granules f n)) →
          u.quiesces = s.quiesces ∧ ∀ x, has (u.ifc i).alloc x ↔ has (s.ifc i).alloc x ∧ ¬ (f ≤ x ∧ x < f + n)))) ∧
    (∀ i (ctl : BitVec 128), i < 64 →
      (s.queuesFit i (ctl.extractLsb' 21 11).toNat = false → exec (.interfaceControlWrite i true ctl) s = .next s) ∧
      (s.queuesFit i (ctl.extractLsb' 21 11).toNat = true → ∃ u : State, exec (.interfaceControlWrite i true ctl) s = .next u ∧ u.mem = s.mem ∧
        u.ifc i = { s.ifc i with
          exist := true, timeOfs := ctl.extractLsb' 64 64, crewMax := (ctl.extractLsb' 32 16).toNat
          queues := (ctl.extractLsb' 21 11).toNat, maxPrio := (ctl.extractLsb' 0 3).toNat })) ∧
    (∀ n e, n < 1024 → e.owner < 64 → (e.valid = true → e.tree.length ≤ 112 ∧ oneTree e.tree = true) →
      ∃ u : State, exec (.groupTableWrite n e) s = .next u ∧ u.group n = e ∧ (∀ m, m ≠ n → u.group m = s.group m) ∧ u.mem = s.mem) ∧
    (∀ i off v, i < 64 → off ∈ plainRegs →
      ∃ u : State, exec (.registerWrite i off v) s = .next u ∧ u.reg i off = v ∧ (∀ o, o ≠ off → u.reg i o = s.reg i o) ∧ u.mem = s.mem) ∧
    (∀ i (v : DWord), v.getLsbD 0 = true →
      ∃ u : State, exec (.ctrclr i v) s = .next u ∧ (∀ off, 0x500 ≤ off → off < 0x600 → u.reg i off = 0#64) ∧
        (∀ off, off < 0x500 ∨ 0x600 ≤ off → u.reg i off = s.reg i off) ∧ u.mem = s.mem)

/-- R430 to R443, R445, R463, R464: slots and their guards, keys, colours, the sending of flits, the rate of a pool, and a peer that
becomes suspect. A peer's split comes with its calendar entry (log entry 47), and a flit takes 10 ticks on a colour (log entry 116); a
pool's request that its rate does not let out waits in the egress queue, which sends to a pool over any circuit (log entry 26). -/
def Obligations.PortEvents : Prop :=
  ∀ (s : State) (p : Nat) (c : Port), s.port? p = some c →
    (∀ (peer : Word), 256 * p ≤ s.time →
      let n := (s.time - 256 * p) / 4096
      let mine : Word := if c.calendar = [] then 0#32 else c.calendar.getD (n % c.calendar.length) 0#32
      ∃ (u : State) (d : Port), exec (.slotBoundary p peer) s = .next u ∧ u.port? p = some d ∧ d.slot = n ∧ d.inGuard = false ∧
        d.busy = false ∧ d.keys = c.keys ∧
        (∀ x, d.circuit = some x ↔ mine.getLsbD 16 = true ∧ peer.getLsbD 16 = true ∧ (peer.extractLsb' 4 12).toNat = s.pkg.device ∧
          (mine.extractLsb' 0 4).toNat = p ∧ (peer.extractLsb' 0 4).toNat = p ∧ c.tx + peerTx peer = 16 ∧
          x = (mine.extractLsb' 4 12).toNat) ∧
        (if s.inLastSlot p n then u.rc.phase = .draining ∧ u.rc.stat = 0x02#8 else u.rc = s.rc)) ∧
    (slotStart p c.slot + 3840 ≤ s.time → c.inGuard = false →
      ∃ (u : State) (d : Port), exec (.slotGuard p) s = .next u ∧ u.port? p = some d ∧ d.inGuard = true ∧
        (∀ x, c.circuit = some x → c.state = .up → c.colours s.pkg.device x ≠ 0 →
          (c.key? x = none → (x, 1, 0) ∈ d.keys ∧ (x, 1) ∈ d.rxKeys) ∧
          (∀ k, c.key? x = some k → (x, s.time) ∈ d.litWhole ∧
            (s.inLastSlot p c.slot = true → (p, x) ∈ u.fab.drained ∧ ∃ r ∈ u.fab.retry, r.port = p ∧ r.dev = x ∧
              r.out.flit.type = .drain ∧ r.out.flit.payload = seqBytes (c.lastSeqOf x false) ++ seqBytes (c.lastSeqOf x true)) ∧
            (s.inLastSlot p c.slot = false → c.busy = true → d.keys = c.keys) ∧
            (s.inLastSlot p c.slot = false → c.busy = false → d.key? x = some (k.1, k.2.1, k.2.2 + 1))))) ∧
    (∀ x k, (c.state = .up ∨ c.state = .stopped) → c.circuitAt p s.time = some x → c.key? x = some k → 2 ^ 48 - 2 ^ 32 ≤ k.2.2 →
      ∃ (u : State) (d : Port), exec (.rekey p) s = .next u ∧ u.port? p = some d ∧ (x, k.2.1 + 1, 0) ∈ d.keys ∧
        (d.state = .stopped → ∃ y ∈ d.keys, 2 ^ 48 - 1 ≤ y.2.2 + 1)) ∧
    (∀ n, n < 16 →
      (c.lit.getLsbD n = true → ∃ (u : State) (d : Port), exec (.heaterEndOfRange p n) s = .next u ∧ u.port? p = some d ∧
        (∀ k < 16, d.lit.getLsbD k = (c.lit.getLsbD k && k != n)) ∧ (n, s.time) ∈ d.lost ∧ d.relocks = c.relocks ∧
        ∀ r ∈ s.fab.retry, r ∈ u.fab.retry ∨ r.out ∈ u.fab.egress ∨ r.out ∈ u.fab.transit) ∧
      (c.lit.getLsbD n = false → ∃ (u : State) (d : Port), exec (.colourRelock p n) s = .next u ∧ u.port? p = some d ∧
        (∀ k < 16, d.lit.getLsbD k = (c.lit.getLsbD k || k == n)) ∧ d.relocks = c.relocks + 1#8 ∧ ∀ x ∈ d.lost, x.1 ≠ n)) ∧
    (∀ f, (c.state = .up ∨ c.state = .stopped →
        ∃ u : State, exec (.flitDiscarded p f) s = .next u ∧ u.port? p = some { c with linkErrors := c.linkErrors + 1 } ∧
          u.fab.transit = s.fab.transit ∧ u.mem = s.mem) ∧
      (c.state ≠ .up → c.state ≠ .stopped → exec (.flitDiscarded p f) s = .next s)) ∧
    (∀ core, ∃ u : State, exec (.coalescerTimeout core) s = .next u ∧
      ∀ h ∈ u.fab.coalesced, h.core = core → h.since + 1024 ≤ s.time → s.lineHeld h = true ∨ u.heldRoom h = false) ∧
    (let left (o : OutFlit) (d : Nat) (u : State) : Prop :=
      u.mem = s.mem ∧ ∃ r ∈ u.fab.retry, r.port = p ∧ r.dev = d ∧ r.out.flit.payload = o.flit.payload ∧ r.out.flit.tag = o.flit.tag ∧
        (o.again = true → r.out.flit.seq = o.flit.seq) ∧
        (o.again = false → o.flit.src = s.pkg.device → r.out.flit.seq = s.seqOf o.flit.dst o.flit.relay ∧
          u.seqOf o.flit.dst o.flit.relay = (s.seqOf o.flit.dst o.flit.relay + o.count) % 65536)
    (∀ n o d, s.fab.transit[n]? = some o →
      (s.poolOpen o.flit = true → s.relayPort o.flit = some (p, d) → s.mayLeave p d o = true →
        (c.hasNonces d o.count = true → ∃ u : State, exec (.relayFlitForward n) s = .next u ∧
          u.fab.transit = s.fab.transit.eraseIdx n ∧ left o d u) ∧
        (c.hasNonces d o.count = false → ∃ u : State, exec (.relayFlitForward n) s = .next u ∧ u.fab.transit = s.fab.transit ∧
          u.port? p = some { c with state := .stopped })) ∧
      (s.poolOpen o.flit = false → s.egressNoRoom o.flit.dst 1 = false → ∃ u : State, exec (.relayFlitForward n) s = .next u ∧
        u.fab.transit = s.fab.transit.eraseIdx n ∧ u.fab.egress = s.fab.egress ++ [o] ∧ u.mem = s.mem)) ∧
    ∀ dev d n o, s.fab.egress.findIdx? (fun o => o.flit.dst == dev) = some n → s.fab.egress[n]? = some o → s.faces p = some d →
      (d = dev ∨ 4096 ≤ dev) → s.poolOpen o.flit = true → s.mayLeave p d o = true → c.hasNonces d o.count = true →
      ∃ u : State, exec (.egressQueueSend dev p) s = .next u ∧ u.fab.egress = s.fab.egress.eraseIdx n ∧ left o d u) ∧
    (∀ g h, s.gang? g = some h → h.sch.run = .egress →
      ∃ (u : State) (k : Gang), exec (.egressSpaceFreed g) s = .next u ∧ u.gang? g = some k ∧ k.sch.run = .ready ∧ k.sc = h.sc) ∧
    (∀ pool seen, s.fab.poolSeen.find? (fun r => r.1 == pool) = some (pool, seen) →
      let limit := Config.poolLimit pool
      let rate := s.poolRate pool
      let next := if seen = 0 then rate + limit / 64 else if seen = 1 then rate else if seen = 2 then rate - rate / 8 else rate / 2
      (1024 ≤ s.poolTick pool → ∃ u : State, exec (.poolRateWindow pool) s = .next u ∧
        u.poolRate pool = max (limit / 16) (min limit next) ∧ u.poolUsed pool = 0) ∧
      (s.poolTick pool < 1024 → exec (.poolRateWindow pool) s = .next s)) ∧
    (∃ u : State, exec .timeBaseLost s = .next u ∧ u.fab.slew = 0 ∧ u.fab.timeLocked = false ∧ u.time = s.time) ∧
    (∀ d, s.silent d = true → d ∉ s.fab.suspects → (∀ i < 64, s.reg i rLostNotify = 0#64 ∨ (s.ifc i).exist = false) →
      ∃ u : State, exec (.peerSuspect d) s = .next u ∧ u.fab.suspects = s.fab.suspects ++ [d] ∧ u.mem = s.mem ∧
        ∀ i < 64, (u.reg i rLostLast).extractLsb' 0 12 = BitVec.ofNat 12 d ∧
          (u.reg i rLostLast).extractLsb' 12 52 = (BitVec.ofNat 64 s.time).extractLsb' 12 52 ∧
          (u.reg i rLostCount).toNat = min ((s.reg i rLostCount).toNat + 1) 0xFFFFFFFF)

/-- R242, R252, R435, R436, R439 to R441, R445, R447, R449, R450, R457: the flits that arrive from a reachable device. A direct flit
whose turn has not come waits (log entry 52); the other clauses are of flits whose turn it is. Requests are stated for homes on this
device that are no registers, and where the reserve has room for the answer. The payload of an atomic is its operand, then the expected
value (log entry 25), of a T6 element its position and value (log entry 82), of a SEAL the new bit (log entry 38); the PTR of a multicast
names the group (log entry 24), and the acknowledgement of a drain marker the last SEQ of each path (log entry 117). -/
def Obligations.FlitEvents : Prop :=
  ∀ (s : State) (f : Flit), s.accepts f.src = true →
    let early (i : Instr) (x : FlitStep) : Prop :=
      exec i s = .next { s with fab := { s.fab with early := s.fab.early ++ [{ flit := f, step := x }] } }
    (s.tooEarly f = true → early (.readrespFlit f) .readresp ∧ early (.atomrespFlit f) .atomresp ∧
      early (.ackFlit f 0#8) (.ack 0#8) ∧ (s.egressFull 1 = false → s.fab.stalled = [] → early (.writeFlit f) .write ∧
        early (.readFlit f) .read)) ∧
    (f.dst ≠ s.pkg.device → s.relayLoad < s.transitFlits →
      ∃ u : State, exec (.relayTransit f) s = .next u ∧
        u.fab.transit = s.fab.transit ++ [{ flit := f, owner := none, mcast := none }] ∧ u.mem = s.mem) ∧
    (s.tooEarly f = false →
    let answered (u : State) (type : FlitType) (payload : List Byte) : Prop :=
      ∃ o : OutFlit, u.fab.transit = s.fab.transit ++ [o] ∧ o.flit.dst = f.src ∧ o.flit.type = type ∧ o.flit.payload = payload ∧
        o.flit.tag = f.tag
    let t := (s.hear f.src).takeTurn f
    (f.relay = false → t.nextRx f.src = some ((f.seq + packetCount f) % 65536)) ∧
    (s.egressFull 1 = false →
      (∀ l,
        let n := match f.offs.getLast? with | some k => k + 1 | none => f.payload.length
        let ps := if f.offs = [] then l.bytes else f.offs.filterMap (fun k => l.bytes[k]?)
        s.fab.stalled = [] → t.ingress f .write .store n 1 = .ok l → l.here = true → f.offs.Nodup → ps.length = f.payload.length →
        ∃ u : State, exec (.writeFlit f) s = .next u ∧ s.stored u { l with bytes := ps } (leValue f.payload) ∧ answered u .ack [0#8] ∧
          (∀ i k, f.poison.contains i = true → (ps[i]?).bind Place.key = some k → u.mem.poisoned k = true)) ∧
      (∀ l, t.ingress f .read .load f.payload.length 1 = .ok l → l.here = true →
        ∃ u : State, exec (.readFlit f) s = .next u ∧ u.mem = s.mem ∧ answered u .readResp (l.bytes.map s.homeByte)) ∧
      (∀ op size l, size = .w ∨ size = .d → t.ingress f .atomic .atomic (MemSize.bytes size) size.bytes = .ok l → l.here = true →
        l.bytes.length = size.bytes →
        let old := leValue (l.bytes.map s.homeByte)
        ∃ u : State, exec (.atomicFlit f op size) s = .next u ∧ answered u .atomResp (leBytes size.bytes old) ∧
          (match atomicNew op size.bytes old (leValue (f.payload.take size.bytes)) (leValue (f.payload.drop size.bytes)) with
           | none => u.mem = s.mem
           | some v => s.stored u l v)) ∧
      (∀ op l, t.ingress f .write .element 3 1 = .ok l → l.here = true → l.bytes.length = 3 →
        let old := leValue (l.bytes.map s.homeByte)
        ∃ (u : State) (v : Nat), exec (.atomicFlit f op .b) s = .next u ∧ answered u .atomResp [] ∧ s.stored u l v ∧
          ∀ i < 4, v / 2 ^ (6 * i) % 64 = if i = (f.payload.getD 0 0#8).toNat % 4 then (f.payload.getD 1 0#8).toNat % 64
            else old / 2 ^ (6 * i) % 64) ∧
      (∀ op l k, t.ingress f .seal .sealing 1 1 = .ok l → l.bytes.head?.bind Place.key = some k → s.wq = [] →
        ∃ u : State, exec (.atomicFlit f op .h) s = .next u ∧ u.mem.cells = s.mem.cells ∧
          (∀ g, g ∈ u.mem.seals ↔ if g = k / 65536 then f.payload.getD 0 0#8 ≠ 0#8 else g ∈ s.mem.seals) ∧
          answered u .atomResp [if s.mem.seals.contains (k / 65536) = (f.payload.getD 0 0#8 != 0#8) then 0#8 else 1#8]) ∧
      (∀ unit offset, unitDevice unit = s.pkg.device →
        let r := s.group (f.ptr.toNat % 1024)
        let o := exec (.mcastFlit f [unit] offset) s
        let len := f.payload.length
        let dest := t.checkTarget (cpReq r.owner .write len) .store 1 (r.dest + BitVec.ofNat 64 offset)
        (r.valid = false ∨ r.owner ≠ f.iface ∨ r.limit < offset + len →
          ∃ u : State, o = .next u ∧ u.mem = s.mem ∧ answered u .ack [0x12#8]) ∧
        (r.valid = true → r.owner = f.iface → offset + len ≤ r.limit →
          (∀ x, dest = .error (.fault x) → ∃ u : State, o = .next u ∧ u.mem = s.mem ∧ answered u .ack [BitVec.ofNat 8 x.kind]) ∧
          (∀ l, dest = .ok l → l.here = true → l.bytes.length = len → r.flag = 0#64 →
            ∃ u : State, o = .next u ∧ s.stored u l (leValue f.payload) ∧ answered u .ack [0#8]) ∧
          (∀ v b, r.flag ≠ 0#64 → t.cpWrite r.owner (r.dest + BitVec.ofNat 64 offset) f.payload = .ok v →
            v.cpBinder r.owner r.flag = .ok b → v.poisonedByte b.bytes = none → b.here = true → b.bytes.length = 32 →
            ∃ u : State, o = .next u ∧ answered u .ack [0#8] ∧
              ((∀ k, b.names k → ¬ b.marks k ∧ ¬ v.tookCopy u k) →
                (u.binderAt b.bytes).count = min ((v.binderAt b.bytes).count + 1) 0xFFFFFFFF) ∧
              ∀ k, ¬ b.names k → ¬ b.marks k → ¬ v.tookCopy u k → u.mem.get k = v.mem.get k)))) ∧
    (∀ o dst op n items dev p place, s.op? f.tag = some o → o.kind = .remoteLoad dst op n items dev p place → s.noRelease →
      (op = none ∨ s.fab.unacked.any (fun x => x.id == o.id) = true) →
      ∃ u : State, exec (if op.isSome then .atomrespFlit f else .readrespFlit f) s = .next u ∧ (∀ x ∈ u.ops, x.id ≠ o.id) ∧
        (∀ x ∈ u.fab.unacked, x.id ≠ o.id) ∧ (∀ x ∈ s.ops, x.id ≠ o.id → x ∈ u.ops) ∧
        ∀ h, s.gang? o.owner = some h → h.sch.run.isOver = false → o.owner.twin = false → h.txn = none → s.wq = [] →
          let value (i : RemoteItem) : Nat := leValue ((i.place.run n).map (fun q =>
            f.payload.getD (q.key.getD 0 - place.key.getD 0) 0#8))
          ∃ k : Gang, u.gang? o.owner = some k ∧ (op = none → h.hasLoaded k dst n (items.map (fun i => (i.lane, value i)))) ∧
            ∀ i, items = [i] → h.hasLoaded k dst n [(i.lane, value i)]) ∧
    (∀ w h, s.fab.unacked.find? (fun x => x.id == f.tag) = some w → w.bytes ≠ [] → s.op? f.tag = none → s.gang? w.owner = some h →
      (∀ b ∈ w.bytes, b.1.remote ≠ none) → s.noRelease → (∀ e ∈ s.fab.engine, e.id ≠ f.tag) →
      ∃ (u : State) (k : Gang), exec (.ackFlit f 0#8) s = .next u ∧ (∀ x ∈ u.fab.unacked, x.id ≠ f.tag) ∧ u.gang? w.owner = some k ∧
        k.unacked = h.unacked.filter (fun x => x.id != f.tag) ∧ k.discarded = h.discarded ∧
        ∀ a, (∀ m ∈ w.pages, ¬ (m ≤ a ∧ a < m + 16)) → u.mem.get a = s.mem.get a) ∧
    (∀ port c, s.port? port = some c →
      (s.receiving port = true →
        (s.egressFull 1 = false → ∃ u : State, exec (.drainFlit f port) s = .next u ∧ u.mem = s.mem ∧ answered u .ack
          (0#8 :: seqBytes (lastArrived t.fab.rxSeq f.src) ++ seqBytes (lastArrived t.fab.rxRelay f.src))) ∧
        ∃ (u : State) (d : Port), exec (.keyFlit f port) s = .next u ∧ u.port? port = some d ∧
          d.rxKeys = c.rxKeys.map (fun k => if k.1 = f.src then (k.1, k.2 + 1) else k) ∧ d.keys = c.keys) ∧
      (s.receiving port = false → exec (.drainFlit f port) s = .next s ∧ exec (.keyFlit f port) s = .next s)) ∧
    ∀ slew, ∃ u : State, exec (.timesyncFlit f slew) s = .next u ∧ u.fab.timeLocked = true ∧ -1 ≤ u.fab.slew ∧ u.fab.slew ≤ 1 ∧
      (-1 ≤ slew → slew ≤ 1 → u.fab.slew = slew))

/-- R408, R417, R418, R455, R456, R459, R461, R466, R467: links and dies that are lost, a failed path of a transaction, and the
steps of a reconfiguration, whose staged registers stand in the private space (log entry 28). -/
def Obligations.ReachEvents : Prop :=
  ∀ (s : State),
    (∀ k, s.pkg.linkUp.getLsbD k = true →
      (∃ u : State, exec (.linkError k) s = .next u ∧ (k, s.time) ∈ u.pkg.retries ∧ u.pkg.linkUp = s.pkg.linkUp ∧ u.mem = s.mem) ∧
      (s.pkg.retries.any (fun r => r.1 == k && r.2 + 100000 ≤ s.time) = true →
        ∃ u : State, exec (.linkLost k) s = .next u ∧ u.pkg.linkUp.getLsbD k = false ∧ u.pkg.epoch = s.pkg.epoch + 1#8 ∧
          ∀ l ∈ u.launches, l.phase = .ended ∨ l.phase = .failing 0x90)) ∧
    (∀ d, s.pkg.dieMask.getLsbD d = true →
      ∃ u : State, exec (.dieFailure d) s = .next u ∧ u.pkg.dieMask.getLsbD d = false ∧ u.pkg.epoch = s.pkg.epoch + 1#8 ∧
        (∀ k ∈ dieLinks d, u.pkg.linkUp.getLsbD k = false) ∧ ∀ l ∈ u.launches, l.phase = .ended ∨ l.phase = .failing 0x90) ∧
    (∀ d, ∃ u : State, exec (.fabricPathFailure d) s = .next u ∧ u.mem = s.mem ∧
      ∀ h ∈ u.allGangs, (∀ t, h.sch.run ≠ .commit t) → ∀ x, h.txn = some x → (∃ g ∈ x.granules, granuleDevice g = d + 1) →
        x.mark ≠ none) ∧
    (∀ v : DWord, s.rc.phase = .idle → s.armField v = false → s.time + 1000000 ≤ (s.priv rRcTime).toNat →
      ∃ u : State, exec (.rcctlArm v) s = .next u ∧ u.mem = s.mem ∧
        u.rc = {
          t := (s.priv rRcTime).toNat, portMask := v.extractLsb' 32 16, darkSlots := (v.extractLsb' 24 8).toNat
          txCols := (v.extractLsb' 20 4).toNat, splitOnly := v.getLsbD 16, stat := 0x01#8, phase := .armed, taken := false,
          switched := 0#16 }) ∧
    (s.rc.phase = .armed → s.time + 65536 < s.rc.t →
      exec .rcctlCancel s = .next { s with rc := { s.rc with phase := .idle, stat := 0#8 } }) ∧
    (s.rc.phase ≠ .idle → s.rc.taken = false → s.rc.t ≤ s.time →
      ∃ u : State, exec .reconfigurationT s = .next u ∧ u.rc.taken = true ∧ (s.rc.splitOnly = true → u.fab = s.fab) ∧
        (s.rc.splitOnly = false → (∀ d, d ∈ u.fab.reach ↔ d < 4096 ∧ s.stagedReach d = true) ∧
          ∀ x ∈ u.fab.unacked, x.dev ∈ s.fab.reach → x.dev ∈ u.fab.reach)) ∧
    (∀ p c, s.port? p = some c →
      (s.rc.phase ≠ .idle → s.rc.taken = true → s.rc.portMask.getLsbD p = true → s.rc.switched.getLsbD p = false →
        s.rc.t + 256 * p ≤ s.time →
        ∃ (u : State) (d : Port), exec (.switchBoundary p) s = .next u ∧ u.port? p = some d ∧ u.rc.switched.getLsbD p = true ∧
          (if s.rc.splitOnly then d = { c with state := .relock }
           else d = { c with state := .dark, circuit := none, calendar := s.stagedCalendar p })) ∧
      (c.state = .dark → s.rc.t + 256 * p + 4096 * s.rc.darkSlots ≤ s.time →
        ∃ u : State, exec (.darkEnd p) s = .next u ∧ u.port? p = some { c with state := .relock }) ∧
      (c.state = .relock → c.lost = [] → s.time ≤ s.relockBy p →
        ∃ (u : State) (d : Port), exec (.relockComplete p) s = .next u ∧ u.port? p = some d ∧ d.lit = 0xFFFF#16 ∧ d.circuit = none ∧
          ((∀ k ∈ c.keys, k.2.2 + 1 < 2 ^ 48 - 1) → d.state = .up) ∧ ((∃ k ∈ c.keys, 2 ^ 48 - 1 ≤ k.2.2 + 1) → d.state = .stopped) ∧
          d.tx = (if s.rc.txCols = 0 then c.tx else s.rc.txCols) ∧ d.calendar = c.calendar ∧ d.keys = c.keys) ∧
      (c.state = .relock → s.relockBy p < s.time →
        ∃ u : State, exec (.relockTimeout p) s = .next u ∧ u.port? p = some { c with state := .down }))

/-- R421, R468 to R474, R476 to R478: reset, power states, capping, temperature and the debugger's halt and run. That a trip's
entry in the log depends on a free value, and that HALT writes free bytes once the crews have stopped, are the model's (log entries 30,
128). -/
def Obligations.PowerEvents : Prop :=
  ∀ (s : State),
    (∀ b : BootInfo, ∃ u : State, exec (.packageReset b) s = .next u ∧ u.mem = Memory.reset ∧ u.launches = [] ∧ u.labels = [] ∧
      u.regs = [] ∧ u.nvm.journal = s.nvm.journal ∧ u.pkg.device = b.device ∧ u.pw.clock = 64 ∧ u.time = b.time ∧
      (b.badDies = 0#4 → b.badLinks = 0#4 → u.nvm.log = s.nvm.log) ∧
      u.pw.capw = (if b.ordering = 2 then 3600 else 3300) ∧ (u.pkg.boot = 0x80 ∨ u.pkg.boot = 0xFF) ∧
      (b.tables = false ∨ u.pkg.dieMask = 0#4 → u.pkg.boot = 0xFF) ∧
      (∀ d, u.pkg.dieMask.getLsbD d = true → b.dieOk.getLsbD d = true ∧ b.badDies.getLsbD d = false) ∧
      (∀ d < 4, u.nvm.keyBlocks.getD d 0 =
        min (2 ^ 24) (s.nvm.keyBlocks.getD d 0 + if b.dieOk.getLsbD d && !b.badDies.getLsbD d then 1 else 0)) ∧
      ∀ p, p < 16 → (u.port? p).map Port.state = some (if u.pkg.boot = 0x80 ∧ b.ports.getLsbD p = true then .up else .down)) ∧
    (∃ u : State, exec .packagePowerLoss s = .next u ∧ u.pw.pstate = .off ∧ u.nvm = s.nvm ∧ u.mem = Memory.reset ∧ u.launches = []) ∧
    (s.pw.pstate = .active → s.pkg.boot = 0x80 → s.isIdle = true → s.pw.idleSince + 1000000 ≤ s.time →
      exec .idleEntry s = .next { s with pw := { s.pw with pstate := .idle, woken := false } }) ∧
    (s.pw.pstate = .idle → exec .parkedRequest s = .next { s with pw := { s.pw with pstate := .parked } }) ∧
    ((s.pw.pstate = .idle ∨ s.pw.pstate = .parked) →
      (s.pw.woken = true →
        exec .activeWake s = .next { s with pw := { s.pw with pstate := .active, idleSince := s.time, woken := false } }) ∧
      (s.pw.woken = false → exec .activeWake s = .next s)) ∧
    (∀ watts, s.time < s.pw.lastWindow + 1000000 → exec (.powerCapWindow watts) s = .next s) ∧
    (∀ watts, s.pw.lastWindow + 1000000 ≤ s.time → ∃ u : State, exec (.powerCapWindow watts) s = .next u ∧ u.pw.watts = watts ∧ u.pw.lastWindow = s.time ∧ u.mem = s.mem ∧
      (s.pw.capw < watts → u.pw.clock = max 16 (s.pw.clock - 1) ∧ u.pw.holdCap = true) ∧
      (watts ≤ s.pw.capw → 97 * s.pw.capw ≤ 100 * watts → u.pw.clock = s.pw.clock) ∧
      (100 * watts < 97 * s.pw.capw → s.pw.hot = false → u.pw.clock = min 64 (s.pw.clock + 1)) ∧
      (100 * watts < 97 * s.pw.capw → s.pw.hot = true → u.pw.clock = s.pw.clock)) ∧
    (∀ die hbm reading, die < 4 → hotAt hbm ≤ reading →
      ∃ u : State, exec (.thermalStepDown die hbm reading) s = .next u ∧ u.pw.hot = true ∧ u.mem = s.mem ∧
        u.pw.clock = (if s.pw.hot = true ∧ s.time < s.pw.lastStep + 100000 then s.pw.clock else max 16 (s.pw.clock - 1))) ∧
    (∀ die hbm reading, die < 4 → reading + 5 ≤ hotAt hbm →
      ∃ u : State, exec (.thermalRelease die hbm reading) s = .next u ∧ u.pw.clock = s.pw.clock ∧ u.mem = s.mem ∧
        (if hbm then u.pw.holdHbm.getLsbD die else u.pw.holdDie.getLsbD die) = false) ∧
    (∀ die hbm reading, tripAt hbm ≤ reading →
      ∃ u : State, exec (.thermtrip die hbm reading) s = .next u ∧ u.pw.pstate = .off ∧ u.nvm.journal = s.nvm.journal ∧
        u.nvm.keyBlocks = s.nvm.keyBlocks ∧ u.mem = Memory.reset) ∧
    (∀ i lid l, s.ofLid i lid = some l → l.halted = false →
      ∃ u : State, exec (.dbgctlHalt i lid) s = .next u ∧ (∀ x ∈ u.launches, x.seq = l.seq → x.halted = true) ∧
        ((s.reg i rDbgCtx).extractLsb' 0 8 ≠ 0#8 → u.mem = s.mem) ∧
        ∀ h ∈ s.allGangs, ∃ k ∈ u.allGangs, k.ref = h.ref ∧ k.sc = h.sc ∧ (h.sch.run = .ready → k.sch.run = .ready) ∧
          (h.ref.launch = l.seq → ∀ rs, h.sch.run = .board rs → k.sch.run = .stopped)) ∧
    (∀ i lid l, s.ofLid i lid = some l →
      ∃ u : State, exec (.dbgctlRun i lid) s = .next u ∧ (∀ x ∈ u.launches, x.seq = l.seq → x.halted = false) ∧ u.mem = s.mem ∧
        ∀ h ∈ s.allGangs, h.ref.launch = l.seq → h.sch.run = .stopped → s.leaving h.ref.crewRef = false →
          ∃ k ∈ u.allGangs, k.ref = h.ref ∧ k.sch.run = .ready ∧ k.sc = h.sc)

/-! ## Values, frames, encodings and the whole machine -/

/-- R119 to R121, R139: what the floating-point operations give, for each format: NaNs and infinities, a value of the format
comes back from rounding unchanged and without a flag, and each rounding direction gives the count that it names. A sum, a
product and a fused product of numbers is the exact result rounded once; the rounded result is the count of its own unit, with
OF, UF and NX where R120 raises them. R122 to R124: the order of floating-point values. A compare of numbers has its
mathematical meaning; with a NaN only NE and UN hold, and LT, LE, GT and GE raise NV; FMIN and FMAX take the number that is not
a NaN, and −0 below +0. R126: the special values of the eight special functions; FRCP, FSQRT and FRSQ within half a unit of
the last place; FEX2 of integers and FLG2 of powers of two exact. R141, R142, R149 to R155: what the conversions give. -/
def Obligations.FloatRules : Prop :=
  (∀ f ∈ [f32, f16, bf16], ∀ (r : Rnd),
    (∀ (s : Bool) (m : Nat) (e : Int), m ≠ 0 →
      let p : Int := Nat.log2 m + e
      let free := roundAt r s m e (p - f.fbits)
      let big := if (match r with | .rn => true | .rz => false | .rd => s | .ru => !s) then f.inf else f.maxFinite
      if 2 ^ (f.bias + 1 - (p - f.fbits)).toNat ≤ free.1 then f.round r s m e = (f.sign s + big, 0x14#5)
      else ∃ (c : Nat) (q : Int), f.decode (f.round r s m e).1 = .fin s c q ∧ c = (roundAt r s m e q).1 ∧
        (f.round r s m e).2 = (if (roundAt r s m e q).2 = false then 0#5
          else if free.1 < 2 ^ (f.emin - (p - f.fbits)).toNat then 0x18#5 else 0x10#5)) ∧
    (∀ (x y z : Nat) (s : Bool) (m : Nat) (e : Int) (t : Bool) (n : Nat) (d : Int) (b : Bool) (k : Nat) (h : Int),
      f.decode x = .fin s m e → f.decode y = .fin t n d → f.decode z = .fin b k h →
      let at' (neg : Bool) (j : Nat) (up : Int) : Int := (if neg then -1 else 1) * ((j * 2 ^ up.toNat : Nat) : Int)
      let rounds (out : Nat × BitVec 5) (a1 a2 : Bool) (zero : Bool) (v g : Int) : Prop :=
        (v ≠ 0 → out = f.round r (decide (v < 0)) v.natAbs g) ∧
        (v = 0 → out = (f.sign (if zero && a1 == a2 then a1 else r == .rd), 0#5))
      let g := min e d
      let w := min (e + d) h
      f.mul r x y = f.round r (s != t) (m * n) (e + d) ∧
      rounds (f.add r x y) s t (m == 0 && n == 0) (at' s m (e - g) + at' t n (d - g)) g ∧
      rounds (f.sub r x y) s (!t) (m == 0 && n == 0) (at' s m (e - g) + at' (!t) n (d - g)) g ∧
      ∀ np nc, rounds (f.fma r np nc x y z) ((s != t) != np) (b != nc) (m * n == 0 && k == 0)
        (at' ((s != t) != np) (m * n) (e + d - w) + at' (b != nc) k (h - w)) w)) ∧
  (∀ x < 2 ^ 32,
    let z := f32.decode x
    let nan : BitVec 5 → Nat × BitVec 5 := fun fl => (0x7FC00000, fl)
    let sgn : Nat := if z.sign then 0x80000000 else 0
    (z.isNan = true → ∀ g ∈ [frcpF, frsqF, fsqrtF, fex2F, flg2F, fsinF, fcosF, ftanhF],
      g x = nan (if z.signalling then 0x01#5 else 0#5)) ∧
    (z.isZero = true →
      frcpF x = (sgn + 0x7F800000, 0x02#5) ∧ frsqF x = (sgn + 0x7F800000, 0x02#5) ∧ fsqrtF x = (x, 0#5) ∧
      fex2F x = (0x3F800000, 0#5) ∧ flg2F x = (0xFF800000, 0x02#5) ∧ fsinF x = (x, 0#5) ∧ fcosF x = (0x3F800000, 0#5) ∧
      ftanhF x = (x, 0#5)) ∧
    (z.isInf = true →
      frcpF x = (sgn, 0#5) ∧ fsinF x = nan 0x01#5 ∧ fcosF x = nan 0x01#5 ∧ ftanhF x = (sgn + 0x3F800000, 0#5) ∧
      (z.sign = false → frsqF x = (0, 0#5) ∧ fsqrtF x = (0x7F800000, 0#5) ∧ fex2F x = (0x7F800000, 0#5) ∧
        flg2F x = (0x7F800000, 0#5)) ∧
      (z.sign = true → frsqF x = nan 0x01#5 ∧ fsqrtF x = nan 0x01#5 ∧ fex2F x = (0, 0#5) ∧ flg2F x = nan 0x01#5)) ∧
    ∀ (s : Bool) (m : Nat) (e : Int), z = .fin s m e → m ≠ 0 →
      (s = true → frsqF x = nan 0x01#5 ∧ fsqrtF x = nan 0x01#5 ∧ flg2F x = nan 0x01#5) ∧
      (frcpF x).2 = 0#5 ∧
      (match f32.decode (frcpF x).1 with
        | .fin t n d => t = s ∧ d + e ≤ 0 ∧ 2 * n * m ≤ 2 * 2 ^ (-(d + e)).toNat + m ∧ 2 * 2 ^ (-(d + e)).toNat ≤ 2 * n * m + m
        | .inf t => t = s ∧ (2 ^ 25 - 1) * m ≤ 2 ^ (-103 - e).toNat
        | .nan _ => False) ∧
      (s = false →
        (∃ (n : Nat) (d : Int), f32.decode (fsqrtF x).1 = .fin false n d ∧ (fsqrtF x).2 = 0#5 ∧ 0 ≤ e - 2 * d ∧
          (2 * n - 1) ^ 2 ≤ 4 * m * 2 ^ (e - 2 * d).toNat ∧ 4 * m * 2 ^ (e - 2 * d).toNat ≤ (2 * n + 1) ^ 2) ∧
        (∃ (n : Nat) (d : Int), f32.decode (frsqF x).1 = .fin false n d ∧ (frsqF x).2 = 0#5 ∧ 2 * d + e ≤ 0 ∧
          (2 * n - 1) ^ 2 * m ≤ 4 * 2 ^ (-(2 * d + e)).toNat ∧ 4 * 2 ^ (-(2 * d + e)).toNat ≤ (2 * n + 1) ^ 2 * m) ∧
        (∀ p : Nat, m = 2 ^ p →
          let v : Int := p + e
          if v = 0 then flg2F x = (0, 0#5)
          else ∃ (n : Nat) (d : Int), f32.decode (flg2F x).1 = .fin (decide (v < 0)) n d ∧ (flg2F x).2 = 0#5 ∧
            n * 2 ^ d.toNat = v.natAbs * 2 ^ (-d).toNat)) ∧
      (∀ k : Nat, m * 2 ^ e.toNat = k * 2 ^ (-e).toNat →
        (k ≤ (if s then 149 else 127) → ∃ j : Nat,
          f32.decode (fex2F x).1 = .fin false (2 ^ j) ((if s then -(k : Int) else k) - j) ∧ (fex2F x).2 = 0#5) ∧
        (s = false → 128 ≤ k → fex2F x = (0x7F800000, 0#5)))) ∧
  ((∀ b ∈ [8, 16, 32], ∀ (sg : Bool) (r : Rnd),
      let lo : Int := if sg then -(2 ^ (b - 1)) else 0
      let hi : Int := if sg then 2 ^ (b - 1) - 1 else 2 ^ b - 1
      let pat (z : Int) : Nat := (z % 2 ^ b).toNat
      (∀ b2 ∈ [8, 16, 32], ∀ (sg2 : Bool) (x : Nat),
        let v : Int := if sg2 then (BitVec.ofNat b2 x).toInt else ((x % 2 ^ b2 : Nat) : Int)
        convert (.int b sg) (.int b2 sg2) r x = (pat (max lo (min hi v)), 0#5)) ∧
      ∀ (src : TypeClass) (x : Nat), (∀ b2 sg2, src ≠ .int b2 sg2) →
        (match sourceValue src x with
        | .nan _ => convert (.int b sg) src r x = (0, 0x01#5)
        | .inf s => convert (.int b sg) src r x = (pat (if s then lo else hi), 0x01#5)
        | .fin s m e => ∃ c : Nat,
          let num := m * 2 ^ e.toNat
          let den := 2 ^ (-e).toNat
          let z : Int := if s then -(c : Int) else c
          let down := c * den ≤ num ∧ num < c * den + den
          let up := num ≤ c * den ∧ c * den < num + den
          (match r with
            | .rn => 2 * num ≤ 2 * c * den + den ∧ 2 * c * den ≤ 2 * num + den ∧
              (2 * num = 2 * c * den + den ∨ 2 * c * den = 2 * num + den → if b = 8 then num ≤ c * den else c % 2 = 0)
            | .rz => down
            | .rd => if s then up else down
            | .ru => if s then down else up) ∧
          convert (.int b sg) src r x = (if z < lo then (pat lo, 0x01#5) else if hi < z then (pat hi, 0x01#5)
            else (pat z, if c * den = num then 0#5 else 0x10#5)))) ∧
   (∀ f ∈ [f32, f16, bf16], ∀ (src : TypeClass) (r : Rnd) (x : Nat),
      convert (.float f) src r x = (match sourceValue src x with
        | .nan q => (f.nan, if q then 0x01#5 else 0#5)
        | .inf s => (f.sign s + f.inf, 0#5)
        | .fin s m e => if m = 0 then (f.sign s, 0#5) else f.round r s m e)) ∧
   (∀ f ∈ [t8, t6],
      (∀ src r x, (∀ g, src ≠ .taper g) → convert (.taper f) src r x = f.encode (sourceValue src x)) ∧
      (∀ r x, convert (.taper f) (.taper f) r x = (x % 2 ^ f.bits, 0#5)) ∧
      (∀ q, f.encode (.nan q) = (2 ^ (f.bits - 1), if q then 0x01#5 else 0#5)) ∧
      (∀ s, f.encode (.inf s) = (2 ^ (f.bits - 1), 0x01#5)) ∧
      (∀ s e, f.encode (.fin s 0 e) = (0, 0#5)) ∧
      ∀ (s : Bool) (m : Nat) (e : Int), m ≠ 0 → ∃ p : Nat, 0 < p ∧ p < 2 ^ (f.bits - 1) ∧
        let top := f.magnitude (2 ^ (f.bits - 1) - 1)
        let least := f.magnitude 1
        let a := f.magnitude p
        let at' (k : Nat) (d g : Int) : Int := ((k * 2 ^ (d - g).toNat : Nat) : Int)
        (f.encode (.fin s m e)).1 = (if s then 2 ^ f.bits - p else p) ∧
        (f.encode (.fin s m e)).2 = (
          if at' top.1 top.2 (min e top.2) < at' m e (min e top.2) then 0x14#5
          else if at' m e (min e least.2) < at' least.1 least.2 (min e least.2) then 0x18#5
          else if at' m e (min e a.2) = at' a.1 a.2 (min e a.2) then 0#5 else 0x10#5) ∧
        ∀ j, 0 < j → j < 2 ^ (f.bits - 1) →
          let b := f.magnitude j
          let g := min e (min a.2 b.2)
          let near := (at' m e g - at' a.1 a.2 g).natAbs
          let far := (at' m e g - at' b.1 b.2 g).natAbs
          near ≤ far ∧ (near = far → at' b.1 b.2 g ≤ at' a.1 a.2 g)) ∧
   ((t8.decode 0x40 = some (false, 16, -4) ∧ t8.magnitude 0x7F = (1, 12) ∧ t8.magnitude 0x01 = (1, -12) ∧
      t8.decode 0x80 = none ∧ t6.magnitude 0x1D = (3, 1) ∧ t6.magnitude 0x1F = (1, 4) ∧ t6.magnitude 0x01 = (1, -4) ∧
      t6.decode 0x20 = none)) ∧
   (∀ (dst src : CvtType) (r : Rnd) (e1 : Bool) (a b : Word),
      let lo (w : Word) : Nat := w.toNat % 65536
      let hi (w : Word) : Nat := w.toNat / 65536
      let one (x : Nat) : Nat × BitVec 5 := convert (classOf dst) (classOf src) r x
      let pair (x y : Nat) : DWord × BitVec 5 := (BitVec.ofNat 64 ((one y).1 % 65536 * 65536 + (one x).1 % 65536), (one x).2 ||| (one y).2)
      let wide (x : Nat × BitVec 5) : DWord × BitVec 5 := (match dst with
        | .s8 => ((BitVec.ofNat 8 x.1).signExtend 32).setWidth 64
        | .s16 => ((BitVec.ofNat 16 x.1).signExtend 32).setWidth 64
        | .s32 | .z8 | .z16 | .z32 | .f32 | .f16 | .bf16 | .f16x2 | .bf16x2 | .t8 | .t6 => (BitVec.ofNat 32 x.1).setWidth 64, x.2)
      cvtLane dst src r e1 a b =
        (if isPacked dst = true ∧ isPacked src = false then pair a.toNat b.toNat
        else if isPacked dst = true then pair (lo a) (hi a)
        else wide (one (if isPacked src = false then a.toNat else if e1 then hi a else lo a)))) ∧
   (∀ (dst src : CvtType) (r : Rnd) (a b : Word),
      let s := b.toNat % 256
      let times (k : Int) : FVal := match sourceValue (classOf src) a.toNat with
        | .fin n m e => .fin n m (e + k)
        | .inf n => .inf n
        | .nan q => .nan q
      (∀ f, classOf dst = .float f → cvtbLane dst src r a b =
        (if s = 255 then (BitVec.ofNat 64 f.nan, 0#5)
        else (BitVec.ofNat 64 (f.encode r (times (s - 127))).1, (f.encode r (times (s - 127))).2))) ∧
      ∀ f, classOf dst = .taper f →
        cvtbLane dst src r a b =
          (if s = 255 then (BitVec.ofNat 64 (2 ^ (f.bits - 1)), 0#5)
          else (BitVec.ofNat 64 (f.encode (times (127 - s))).1, (f.encode (times (127 - s))).2)) ∧
        (match f32.decode a.toNat with
        | .fin _ m e => ∃ k ≤ 254, cvtbScaleLane dst a = BitVec.ofNat 64 k ∧ ∀ j ≤ k,
          (m * 2 ^ (e + 127 - (j : Int)).toNat ≤
            2 ^ (if f.hasExp then 12 else 4) * 2 ^ (-(e + 127 - (j : Int))).toNat ↔ j = k)
        | .inf _ | .nan _ => cvtbScaleLane dst a = 255#64))) ∧
  (∀ f ∈ [f32, f16, bf16],
    (∀ (r : Rnd) (np nc : Bool) (x y z : Nat),
      let nv (q : Bool) : BitVec 5 := if q then 0x01#5 else 0#5
      (((f.decode x).isNan = true ∨ (f.decode y).isNan = true) →
        let out : Nat × BitVec 5 := (f.nan, nv ((f.decode x).signalling || (f.decode y).signalling))
        f.add r x y = out ∧ f.sub r x y = out ∧ f.mul r x y = out) ∧
      (∀ a b, f.decode x = .inf a → f.decode y = .inf b →
        f.add r x y = (if a = b then (f.sign a + f.inf, 0#5) else (f.nan, 0x01#5)) ∧
        f.sub r x y = (if a = b then (f.nan, 0x01#5) else (f.sign a + f.inf, 0#5)) ∧
        f.mul r x y = (f.sign (a != b) + f.inf, 0#5)) ∧
      ((f.decode x).isInf = true → (f.decode y).isZero = true → f.mul r x y = (f.nan, 0x01#5) ∧ f.mul r y x = (f.nan, 0x01#5) ∧
        f.fma r np nc x y z = (f.nan, 0x01#5)) ∧
      (∀ s m e, x < 2 ^ (f.ebits + f.fbits + 1) → f.decode x = .fin s m e → f.round r s m e = (x, 0#5))) ∧
    ∀ (neg : Bool) (m : Nat) (e q : Int), e < q →
      let d := 2 ^ (q - e).toNat
      let c (r : Rnd) : Nat := (roundAt r neg m e q).1
      (2 * m ≤ 2 * (c .rn * d) + d ∧ 2 * (c .rn * d) ≤ 2 * m + d ∧
        (2 * m = 2 * (c .rn * d) + d ∨ 2 * (c .rn * d) = 2 * m + d → c .rn % 2 = 0)) ∧
      (c .rz * d ≤ m ∧ m < c .rz * d + d) ∧
      (if neg then m ≤ c .rd * d ∧ c .rd * d < m + d else c .rd = c .rz) ∧
      (if neg then c .ru = c .rz else m ≤ c .ru * d ∧ c .ru * d < m + d)) ∧
  (∀ f ∈ [f32, f16, bf16], ∀ (x y : Nat) (k : FCond),
    let a := f.decode x
    let b := f.decode y
    let quiet : BitVec 5 := if a.signalling || b.signalling then 0x01#5 else 0#5
    (∀ s m e t n d, a = .fin s m e → b = .fin t n d →
      let g := min e d
      let v : Int := (if s then -1 else 1) * ((m * 2 ^ (e - g).toNat : Nat) : Int)
      let w : Int := (if t then -1 else 1) * ((n * 2 ^ (d - g).toNat : Nat) : Int)
      f.compare k x y = (match k with
        | .eq => (decide (v = w), 0#5)
        | .ne => (decide (v ≠ w), 0#5)
        | .lt => (decide (v < w), 0#5)
        | .le => (decide (v ≤ w), 0#5)
        | .gt => (decide (v > w), 0#5)
        | .ge => (decide (v ≥ w), 0#5)
        | .un => (false, 0#5)
        | .ord => (true, 0#5)) ∧
      (v < w → f.minMax false x y = (x, 0#5) ∧ f.minMax true x y = (y, 0#5) ∧ f.minMax false y x = (x, 0#5) ∧ f.minMax true y x = (y, 0#5)) ∧
      (m = 0 → n = 0 → s = true → t = false → f.minMax false x y = (x, 0#5) ∧ f.minMax false y x = (x, 0#5) ∧
        f.minMax true x y = (y, 0#5) ∧ f.minMax true y x = (y, 0#5))) ∧
    (a.isNan = true ∨ b.isNan = true →
      f.compare k x y = (match k with
        | .ne | .un => (true, quiet)
        | .eq | .ord => (false, quiet)
        | .lt | .le | .gt | .ge => (false, 0x01#5))) ∧
    (a.isNan = true → b.isNan = false → f.minMax false x y = (y, quiet) ∧ f.minMax true x y = (y, quiet) ∧
      f.minMax false y x = (y, quiet) ∧ f.minMax true y x = (y, quiet)) ∧
    (a.isNan = true → b.isNan = true → f.minMax false x y = (f.nan, quiet) ∧ f.minMax true x y = (f.nan, quiet)))

/-- The frame of the scalar instructions that only write registers (R54 to R63): every register but those written, the
condition bits, the sticky flags but a division's DIVZERO, the special and exception registers, the lane state, every byte of
memory and every other gang, crew and launch are as they were. The frame of an LA instruction's effect (R89 to R92, R105):
scalar registers, condition bits, special and exception registers, the live mask, the other operand registers, latches and
predicates, every byte of memory and every other gang, crew and launch are as they were. Of GSTATUS only LATCHLOST may be set
(R95). -/
def Obligations.RegisterFrame : Prop :=
  (∀ (s t : State) (d a b c : SReg) (p q r : Pair) (k : CReg) (i : BitVec 13) (j : BitVec 19) (n : BitVec 6) (z : BitVec 3),
    let two (x : Instr) : Instr × Uses := (x, .plain [.s a, .s b] [.s d])
    let one (x : Instr) : Instr × Uses := (x, .plain [.s a] [.s d])
    let three (x : Instr) : Instr × Uses := (x, .plain [.s a, .s b, .s c] [.s d])
    let four (x : Instr) : Instr × Uses := (x, .plain [.s d, .s a, .s b, .s c] [.s d])
    let divs := [two (.divS d a b), two (.divZ d a b), two (.remS d a b), two (.remZ d a b)]
    let forms :=
      [two (.add d a b), two (.sub d a b), two (.mul d a b), two (.mulhS d a b), two (.mulhZ d a b), two (.minS d a b),
       two (.minZ d a b), two (.maxS d a b), two (.maxZ d a b), two (.addsS d a b), two (.addsZ d a b), two (.subsS d a b),
       two (.and d a b), two (.or d a b), two (.xor d a b), two (.andn d a b), two (.orn d a b), two (.xnor d a b),
       two (.shl d a b), two (.shr d a b), two (.sra d a b), two (.rol d a b), two (.ror d a b), two (.sel d k a b),
       one (.clz d a), one (.ctz d a), one (.popc d a), one (.brev d a), one (.bswap d a),
       one (.addi d a i), one (.andi d a i), one (.ori d a i), one (.xori d a i), one (.muli d a i),
       one (.shli d a n), one (.shri d a n), one (.srai d a n),
       three (.bext d a b c), three (.bextS d a b c), four (.bins d a b c), four (.fshL d a b c), four (.fshR d a b c),
       (.ldhi d j, .plain [] [.s d]), (.ctos d, .plain [] [.s d]), (.addpc p j, .plain [] (pairRegs p)),
       (.addD p q r, .plain (pairRegs q ++ pairRegs r) (pairRegs p)), (.subD p q r, .plain (pairRegs q ++ pairRegs r) (pairRegs p)),
       (.addiD p q i, .plain (pairRegs q) (pairRegs p)), (.shlD p q b, .plain (pairRegs q ++ [.s b]) (pairRegs p)),
       (.shrD p q b, .plain (pairRegs q ++ [.s b]) (pairRegs p)), (.sraD p q b, .plain (pairRegs q ++ [.s b]) (pairRegs p)),
       (.leaD p q b z, .plain (pairRegs q ++ [.s b]) (pairRegs p)), (.mulwS p a b, .plain [.s a, .s b] (pairRegs p)),
       (.mulwZ p a b, .plain [.s a, .s b] (pairRegs p))]
    (∀ x ∈ forms ++ divs, s.goes x.2 = true → exec x.1 s = .next t →
      (∀ y, RegRef.s y ∉ x.2.writes → t.rd y = s.rd y) ∧
      t.g.sc = { s.g.sc with regs := t.g.sc.regs, pc := t.g.sc.pc, divZero := t.g.sc.divZero } ∧
      (x ∈ forms → t.g.sc.divZero = s.g.sc.divZero) ∧
      t.g.la.v = s.g.la.v ∧ t.g.la.o = s.g.la.o ∧ t.g.la.l = s.g.la.l ∧ t.g.la.preds = s.g.la.preds ∧ t.g.la.live = s.g.la.live ∧
      t.mem = s.mem ∧ t.wq = s.wq ∧ t.gangs = s.gangs ∧ t.crews = s.crews ∧ t.launches = s.launches ∧ t.ops = s.ops)) ∧
  (∀ (s : State) (h : LaHdr) (u : LaSrcs) (words : Nat) (f : Nat → Nat → DWord × BitVec 5), words = 1 ∨ words = 2 →
    let t := s.laEnd h u words f
    t.g.sc = { s.g.sc with pc := s.g.sc.pc + 12#64, fpFlags := t.g.sc.fpFlags, latchLost := t.g.sc.latchLost } ∧
    (s.g.sc.latchLost = true → t.g.sc.latchLost = true) ∧
    t.g.la.live = s.g.la.live ∧ t.g.la.present = s.g.la.present ∧ t.g.la.lineage = s.g.la.lineage ∧
    (∀ q, h.dst ≠ .p q → t.g.pred q = s.g.pred q) ∧
    (∀ i, i < 8 → (∀ j r, h.dst = .o j → r < h.rpt.count - 1 + words → i ≠ j.toNat + r) → t.g.la.oreg i = s.g.la.oreg i) ∧
    (∀ i, i < 256 → (∀ j r, h.dst = .v j → r < h.rpt.count - 1 + words → i ≠ j.toNat + r) → t.g.la.vreg i = s.g.la.vreg i) ∧
    (∀ k, k ≠ h.lt → t.g.la.latch k = s.g.la.latch k) ∧
    t.mem = s.mem ∧ t.wq = s.wq ∧ t.gangs = s.gangs ∧ t.crews = s.crews ∧ t.launches = s.launches ∧ t.ops = s.ops)

/-- The frame of the storing instructions (R69, R71, R237, R244): for the address that the meaning computes, a byte outside
the access, which is no byte of a page-map entry that it used (R268) nor of an earlier write that still waits in the queue and may have to
come first (R77) nor of a page of an Undercoat reserve that takes a copy (16 R395), is as it was; so are every scalar register but SATOM's
destination, the condition bits, the special and exception registers and the lane state. -/
def Obligations.StoreFrame : Prop :=
  (∀ (s t : State) (r d : SReg) (q b : Pair) (f : AtomOp) (i : BitVec 14) (l : Landing), s.packet.plumb = false → s.g.txn = none →
    l.here = true →
    let st (x : Instr) (n : Nat) (src : List RegRef) : Instr × Uses × Req × TargetOp × DWord × List SReg :=
      (x, .loading (src ++ pairRegs b) [], (s.begun (.loading (src ++ pairRegs b) [])).request .write n, .store,
        s.rdP b + i.signExtend 64, [])
    let at' : Uses := .comparing (pairRegs b ++ [.s r] ++ (if f = .cas then [.s d] else [])) [.s d]
    let forms := [st (.sstB r b i) 1 [.s r], st (.sstH r b i) 2 [.s r], st (.sstW r b i) 4 [.s r], st (.sstD q b i) 8 (pairRegs q),
      (.satom f d b r, at', (s.begun at').request .atomic 4, .atomic, s.rdP b, [d])]
    ∀ x ∈ forms, (x.1 = .satom f d b r → s.wq = [] ∧ f ≠ .fadd) → s.goes x.2.1 = true →
      (s.begun x.2.1).check x.2.2.1 x.2.2.2.1 x.2.2.1.size x.2.2.2.2.1 = .ok l → exec x.1 s = .next t →
      (∀ k, ¬ l.names k → ¬ l.marks k → ¬ s.queued k → ¬ s.tookCopy t k → t.mem.get k = s.mem.get k) ∧ (∀ y, y ∉ x.2.2.2.2.2 → t.rd y = s.rd y) ∧
      t.g.sc = { s.g.sc with regs := t.g.sc.regs, pc := t.g.sc.pc } ∧ t.g.la.v = s.g.la.v ∧ t.g.la.o = s.g.la.o ∧ t.g.la.l = s.g.la.l ∧
      t.labels = s.labels ∧ t.crews = s.crews) ∧
  (∀ (s t : State) (h : LmHdr) (z : MemSize) (src : Src) (ls : List (Nat × Landing)) (offset : Bool), s.packet.plumb = false →
    s.g.txn = none → (∀ x ∈ ls, x.2.here = true) →
    let u := lmUses h false (dataRegs src z) []
    s.lmFits h [(src, z.words)] .nw 0 = true → s.goes u = true →
    let v := s.begun u
    checkLanes (v.g.part h.guard) (fun n => v.lmCheck offset .write .store z.bytes (v.laneAddress h.addr n)) = .ok ls →
    exec (if offset then .stl h z src else .st h z src) s = .next t →
    (∀ k, (∀ x ∈ ls, ¬ x.2.names k ∧ ¬ x.2.marks k) → ¬ s.queued k → ¬ s.tookCopy t k → t.mem.get k = s.mem.get k) ∧
      t.g.sc = { s.g.sc with pc := t.g.sc.pc, latchLost := t.g.sc.latchLost } ∧ t.g.la = v.g.la ∧ t.labels = s.labels ∧ t.crews = s.crews)

/-- R12, R15, R19 to R32: words of every format, written out from their fields (those of ADDI, BC, IADD and LD are the worked
encodings of chapter 01), decode to the instructions they stand for. -/
def Obligations.DecodeWords : Prop :=
  let p2 : Guard := { neg := false, p := 2#3 }
  let p0 : Guard := { neg := false, p := 0#3 }
  decode [0x00182100#32] = .ok (.add 3#6 1#6 2#6) ∧ decode [0x10289FFD#32] = .ok (.addi 5#6 4#6 0x1FFD#13) ∧
  decode [0x0E182104#32] = .ok (.sel 3#6 4#3 1#6 2#6) ∧ decode [0x3037FFFC#32] = .ok (.bc 3#3 0x7FFFC#19) ∧
  decode [0x80020000#32, 0x00C80200#32, 0x00800000#32] =
    .ok (.iadd { guard := p2, rpt := .x1, dst := .v 3#8, lt := 1#2 } (.v 1#8) (.reg (.v 2#8))) ∧
  decode [0x80020000#32, 0x00280200#32, 0x00800000#32] =
    .ok (.iadd { guard := p2, rpt := .x1, dst := .nw, lt := 1#2 } (.v 1#8) (.reg (.v 2#8))) ∧
  decode [0x80000000#32, 0x40420000#32, 0xD0000000#32] =
    .ok (.iadd { guard := p0, rpt := .x1, dst := .o 1#3, lt := 0#2 } (.o 0#3) (.reg .lane)) ∧
  decode [0xA0002200#32, 0x02800400#32, 0x10000010#32] =
    .ok (.ld { guard := p0, hint := .dflt, addr := .base 2#5 (.v 2#8) .x4 16#17 } .w false (.v 10#8) 0#2) ∧
  decode [0xE0200000#32, 0x25400000#32, 0#32] = .ok (.acq 9#6 10#5 none) ∧
  decode [0xE1000000#32, 0x25400000#32, 0#32] = .ok (.arrive 9#6 10#5) ∧
  decode [0xE2300000#32, 0#32, 0#32] = .ok .haltg ∧ decode [0xE0400002#32, 0#32, 0#32] = .ok (.fence .device) ∧
  decode [0xE2A00000#32, 0x24000000#32, 0#32] = .ok (.txc 9#6) ∧
  decode [0xE2800000#32, 0x24A00000#32, 0#32] = .ok (.snap 9#6 10#6)

/-- R12, R15, R17: the decoder gives back every instruction that is well formed, with every operand, from the words that the
encoder writes. Device steps have no words. -/
def Obligations.DecodeEncode : Prop :=
  ∀ i : Instr, i.wf = true → encode i ≠ [] → decode (encode i) = .ok i

/-- R11 to R13, R39: a step with an instruction selected runs exec of the instruction that the words at the PC decode to, on
the state in which it has been counted as issued; words that decode to none run the kill of R39. The words are those that the
landing's bytes hold, or that they held before a store of the gang's own (R79). Before that a step takes what the environment's
agenda holds (log entry 41). -/
def Obligations.StepRunsDecoded : Prop :=
  ∀ (s : State), s.acts = [] → s.pw.pstate ≠ .off →
    (∀ ws i, s.agenda = [] → s.issuing = true → s.fetch = .ok ws → decode ws = .ok i → step s = exec i s.startIssue) ∧
    (∀ ws e, s.agenda = [] → s.issuing = true → s.fetch = .ok ws → decode ws = .error e →
      step s = exec (.illegalInstruction .encoding) s.startIssue) ∧
    (∀ i r, s.agenda = i :: r → step s = exec i { s.tick with agenda := r }) ∧
    (∀ p l, p.toNat % 4 = 0 → s.translate { s.request .fetch 4 with half := s.g.fetchHalf } p = .ok l → l.type ≠ tMmio →
      s.poisonedByte l.bytes = none →
      let now := BitVec.ofNat 32 (leValue (l.bytes.map s.homeByte))
      ∃ w, s.fetchWord p = .ok w ∧ (w = now ∨ ∃ k, l.bytes.head?.bind Place.key = some k ∧ (k, w) ∈ s.g.oldWords)) ∧
    (∀ w, s.fetchWord s.g.sc.pc = .ok w → isLong w = false → s.fetch = .ok [w]) ∧
    (∀ w x y, s.fetchWord s.g.sc.pc = .ok w → isLong w = true → s.fetchWord (s.g.sc.pc + 4#64) = .ok x →
      s.fetchWord (s.g.sc.pc + 8#64) = .ok y → s.fetch = .ok [w, x, y]) ∧
    s.startIssue.g.sc = s.g.sc ∧ s.startIssue.g.la = s.g.la ∧ s.startIssue.mem = s.mem ∧ s.startIssue.issuing = false ∧
    (s.g.sch.reissue = false → s.startIssue.g.sch.issued = s.g.sch.issued + 1)

/-- R44, R46, R86, R88, R258, R469, R475, R191: what reset leaves, and the registers in which a gang enters: s2.d the
parameter pointer, s4 to s7 the crew, gang and their counts, s56 to s58 the live lanes, s60.d the crew window, every other one
zero. That memory which nothing has written reads as zero is the model's choice (log entry 3). -/
def Obligations.ResetRule : Prop :=
  State.reset.memoryOk ∧ State.reset.pkg.boot = 0x01 ∧ State.reset.pw.clock = 64 ∧ State.reset.pw.capw = 3300 ∧
  State.reset.pw.pstate = .active ∧ (∀ k : EntryKey, (State.reset.entry k).action = .invalid) ∧
  (∀ i q, (State.reset.queue i q).enable = false) ∧ (∀ k, State.reset.mem.get k = 0#8) ∧
  ∀ (l : Launch) (r : GangRef) (counts : List Nat) (age pipe : Nat),
    let g := entryGang l r counts age pipe
    let lanes := if r.gang + 1 = l.packet.gangs then min 96 l.packet.lastLanes else 96
    g.rdP 1#5 = 0x7FF8000000000000#64 ∧ g.rd 4#6 = BitVec.ofNat 32 r.crew ∧ g.rd 5#6 = BitVec.ofNat 32 r.gang ∧
    g.rd 6#6 = BitVec.ofNat 32 l.packet.crews ∧ g.rd 7#6 = BitVec.ofNat 32 l.packet.gangs ∧ g.rdP 30#5 = 0x7FFC000000000000#64 ∧
    (∀ n, n < 96 → g.exec.getLsbD n = decide (n < lanes)) ∧ g.la.live = g.exec ∧ g.sc.conds = 0#8 ∧ g.la.latchValid = 0#4 ∧
    (∀ x : SReg, x.toNat ∉ [2, 3, 4, 5, 6, 7, 56, 57, 58, 60, 61] → g.rd x = 0#32) ∧ g.sch.run = .ready

/-- Every instruction and every step of the device, in every state, answers a next state: exec never stops the machine. -/
def Obligations.ExecAlwaysNext : Prop :=
  ∀ (i : Instr) (s : State), ∃ t : State, exec i s = .next t

/-- Every step keeps memory in its canonical form, whatever instruction or event it takes. -/
def Obligations.StepMemoryOk : Prop :=
  ∀ (s t : State), s.memoryOk → step s = .next t → t.memoryOk
end

