-- ==== Sys2Proof/Laws/Memory.lean ====
section
/-! SUPPORT. Sparse maps and memory: the canonical form is kept by every operation, and a read after a write (08 R223). -/

namespace Sys2Proof.Machine

/-! ### Sparse maps -/

theorem Sparse.wfFrom_mono {α : Type} [DecidableEq α] {d : α} {l : List (Nat × α)} {lo hi : Nat} (h : lo ≤ hi)
    (w : Sparse.wfFrom d hi l = true) : Sparse.wfFrom d lo l = true := by
  cases l with
  | nil => rfl
  | cons x r =>
    obtain ⟨k, v⟩ := x
    simp only [Sparse.wfFrom, Bool.and_eq_true, decide_eq_true_eq] at w ⊢
    exact ⟨⟨Nat.le_trans h w.1.1, w.1.2⟩, w.2⟩

/-- Taking entries away keeps the canonical form. -/
theorem Sparse.filter_wfFrom {α : Type} [DecidableEq α] {d : α} {p : Nat × α → Bool} {l : List (Nat × α)} {lo : Nat}
    (w : Sparse.wfFrom d lo l = true) : Sparse.wfFrom d lo (l.filter p) = true := by
  induction l generalizing lo with
  | nil => rfl
  | cons x r ih =>
    obtain ⟨k, y⟩ := x
    simp only [Sparse.wfFrom, Bool.and_eq_true, decide_eq_true_eq] at w
    obtain ⟨⟨hk, hy⟩, hr⟩ := w
    rw [List.filter_cons]
    split
    · simp only [Sparse.wfFrom, Bool.and_eq_true, decide_eq_true_eq]
      exact ⟨⟨hk, hy⟩, ih hr⟩
    · exact Sparse.wfFrom_mono (Nat.le_succ_of_le hk) (ih hr)

theorem Sparse.insert_wfFrom {α : Type} [DecidableEq α] {d : α} {l : List (Nat × α)} {lo a : Nat} {v : α} (h : lo ≤ a)
    (hv : v ≠ d) (hn : ∀ x ∈ l, x.1 ≠ a) (w : Sparse.wfFrom d lo l = true) :
    Sparse.wfFrom d lo (Sparse.insert a v l) = true := by
  induction l generalizing lo with
  | nil => simp [Sparse.insert, Sparse.wfFrom, hv, h]
  | cons x r ih =>
    obtain ⟨k, y⟩ := x
    have hka : k ≠ a := hn (k, y) (List.mem_cons_self ..)
    simp only [Sparse.wfFrom, Bool.and_eq_true, decide_eq_true_eq] at w
    obtain ⟨⟨hk, hy⟩, hr⟩ := w
    simp only [Sparse.insert]
    split
    · simp only [Sparse.wfFrom, Bool.and_eq_true, decide_eq_true_eq]
      exact ⟨⟨h, by simpa using hv⟩, ⟨⟨by omega, hy⟩, hr⟩⟩
    · simp only [Sparse.wfFrom, Bool.and_eq_true, decide_eq_true_eq]
      exact ⟨⟨hk, hy⟩, ih (by omega) (fun z hz => hn z (List.mem_cons_of_mem _ hz)) hr⟩

/-- A write keeps the canonical form. -/
theorem Sparse.put_wf {α : Type} [DecidableEq α] {d : α} {l : List (Nat × α)} {a : Nat} {v : α}
    (w : Sparse.wf d l = true) : Sparse.wf d (Sparse.put d l a v) = true := by
  have hf : Sparse.wf d (l.filter (fun x => x.1 != a)) = true := Sparse.filter_wfFrom w
  unfold Sparse.put
  dsimp only
  split
  · exact hf
  · rename_i hv
    refine Sparse.insert_wfFrom (Nat.zero_le _) hv (fun x hx => ?_) hf
    simpa using (List.mem_filter.mp hx).2

theorem Sparse.get_filter {α : Type} (d : α) (l : List (Nat × α)) (a b : Nat) :
    Sparse.get d (l.filter (fun x => x.1 != a)) b = if b = a then d else Sparse.get d l b := by
  induction l with
  | nil => simp [Sparse.get]
  | cons x r ih =>
    obtain ⟨k, y⟩ := x
    by_cases hk : k = a
    · subst hk
      simp only [List.filter_cons, bne_self_eq_false, Bool.false_eq_true, if_false, ih, Sparse.get]
      by_cases hb : b = k
      · simp [hb]
      · simp [hb, Ne.symm hb]
    · simp only [List.filter_cons, bne_iff_ne, ne_eq, hk, not_false_eq_true, if_true, Sparse.get, ih]
      by_cases hb : k = b
      · subst hb; simp [hk]
      · simp [hb]

theorem Sparse.get_insert {α : Type} (d : α) (l : List (Nat × α)) (a b : Nat) (v : α) (hn : ∀ x ∈ l, x.1 ≠ a) :
    Sparse.get d (Sparse.insert a v l) b = if b = a then v else Sparse.get d l b := by
  induction l with
  | nil => simp [Sparse.insert, Sparse.get, eq_comm]
  | cons x r ih =>
    obtain ⟨k, y⟩ := x
    have hka : k ≠ a := hn (k, y) (List.mem_cons_self ..)
    simp only [Sparse.insert]
    split
    · simp only [Sparse.get, eq_comm]
    · simp only [Sparse.get, ih (fun z hz => hn z (List.mem_cons_of_mem _ hz))]
      by_cases hb : k = b
      · subst hb; simp [hka]
      · simp [hb]

/-- A read after a write, at the same key and at every other. -/
theorem Sparse.get_put {α : Type} [DecidableEq α] (d : α) (l : List (Nat × α)) (a b : Nat) (v : α) :
    Sparse.get d (Sparse.put d l a v) b = if b = a then v else Sparse.get d l b := by
  unfold Sparse.put
  dsimp only
  split
  · rename_i hv; rw [Sparse.get_filter, hv]
  · rw [Sparse.get_insert _ _ _ _ _ (fun x hx => by simpa using (List.mem_filter.mp hx).2), Sparse.get_filter]
    by_cases hb : b = a <;> simp [hb]

/-! ### Memory -/

theorem Memory.put_wf {m : Memory} {k : Nat} {b : Byte} (w : m.wf = true) : (m.put k b).wf = true := Sparse.put_wf w

theorem Memory.get_put (m : Memory) (a k : Nat) (b : Byte) :
    (m.put a b).get k = if k = a then b else m.get k := Sparse.get_put ..

@[simp] theorem Memory.taint_wf (m : Memory) (k : Nat) : (m.taint k).wf = m.wf := rfl
@[simp] theorem Memory.taint_get (m : Memory) (a k : Nat) : (m.taint a).get k = m.get k := rfl
@[simp] theorem Memory.cleanSector_wf (m : Memory) (t : Nat) : (m.cleanSector t).wf = m.wf := rfl
@[simp] theorem Memory.cleanSector_get (m : Memory) (t k : Nat) : (m.cleanSector t).get k = m.get k := rfl
@[simp] theorem Memory.setSeal_wf (m : Memory) (g : Nat) (v : Bool) : (m.setSeal g v).wf = m.wf := rfl
@[simp] theorem Memory.setSeal_get (m : Memory) (g : Nat) (v : Bool) (k : Nat) : (m.setSeal g v).get k = m.get k := rfl

theorem Memory.putBytes_wf {m : Memory} {k : Nat} {bs : List Byte} (w : m.wf = true) : (m.putBytes k bs).wf = true := by
  induction bs generalizing m k with
  | nil => exact w
  | cons b r ih => exact ih (Memory.put_wf w)

/-- A run of bytes written: each key of the run holds its byte, every other key keeps its own. -/
theorem Memory.get_putBytes (m : Memory) (a k : Nat) (bs : List Byte) :
    (m.putBytes a bs).get k = if a ≤ k then (bs[k - a]?).getD (m.get k) else m.get k := by
  induction bs generalizing m a with
  | nil => simp [Memory.putBytes]
  | cons b r ih =>
    simp only [Memory.putBytes]
    rw [ih, Memory.get_put]
    rcases Nat.lt_trichotomy k a with h | h | h
    · simp [show ¬ a + 1 ≤ k by omega, show ¬ k = a by omega, show ¬ a ≤ k by omega]
    · subst h; simp [show ¬ k + 1 ≤ k by omega]
    · have e : k - a = (k - (a + 1)) + 1 := by omega
      simp [show a + 1 ≤ k by omega, show a ≤ k by omega, show ¬ k = a by omega, e]

theorem Memory.foldPut_wf {m : Memory} {kbs : List (Nat × Byte)} (w : m.wf = true) :
    (kbs.foldl (fun m kb => m.put kb.1 kb.2) m).wf = true := by
  induction kbs generalizing m with
  | nil => exact w
  | cons b r ih => exact ih (Memory.put_wf w)

theorem Memory.foldPut_get {m : Memory} {kbs : List (Nat × Byte)} {k : Nat}
    (h : kbs.all (fun b => b.1 != k) = true) : (kbs.foldl (fun m kb => m.put kb.1 kb.2) m).get k = m.get k := by
  induction kbs generalizing m with
  | nil => rfl
  | cons b r ih =>
    simp only [List.all_cons, Bool.and_eq_true, bne_iff_ne, ne_eq] at h
    simp only [List.foldl_cons]
    rw [ih (by simpa using h.2), Memory.get_put, if_neg (fun e => h.1 e.symm)]

theorem Memory.writeAccess_cells (m : Memory) (kbs : List (Nat × Byte)) :
    (m.writeAccess kbs).cells = (kbs.foldl (fun m kb => m.put kb.1 kb.2) m).cells := by
  have aux : ∀ (ts : List Nat) (n : Memory),
      (ts.foldl (fun m t => if (List.range 32).all (fun i => kbs.any (fun kb => kb.1 == t * 32 + i)) then m.cleanSector t else m)
        n).cells = n.cells := by
    intro ts
    induction ts with
    | nil => intro n; rfl
    | cons t r ih =>
      intro n
      simp only [List.foldl_cons]
      rw [ih]
      split <;> rfl
  exact aux _ _

theorem Memory.writeAccess_wf {m : Memory} {kbs : List (Nat × Byte)} (w : m.wf = true) : (m.writeAccess kbs).wf = true := by
  have h : (m.writeAccess kbs).wf = (kbs.foldl (fun m kb => m.put kb.1 kb.2) m).wf := by
    simp only [Memory.wf, Memory.writeAccess_cells]
  rw [h]; exact Memory.foldPut_wf w

/-- An access changes no byte whose key it does not name. -/
theorem Memory.writeAccess_get {m : Memory} {kbs : List (Nat × Byte)} {k : Nat}
    (h : kbs.all (fun b => b.1 != k) = true) : (m.writeAccess kbs).get k = m.get k := by
  have e : (m.writeAccess kbs).get k = (kbs.foldl (fun m kb => m.put kb.1 kb.2) m).get k := by
    simp only [Memory.get, Memory.writeAccess_cells]
  rw [e]; exact Memory.foldPut_get h

theorem Memory.zero_wf {m : Memory} {lo n : Nat} (w : m.wf = true) : (m.zero lo n).wf = true := Sparse.filter_wfFrom w

theorem Memory.paste_wf {m : Memory} {lo n : Nat} {cs : List Host.Cell} (w : m.wf = true) : (m.paste lo n cs).wf = true := by
  unfold Memory.paste
  exact Memory.foldPut_wf (m := { m with cells := m.cells.filter (fun c => c.1 < lo || lo + n ≤ c.1) })
    (Sparse.filter_wfFrom w)

theorem Memory.copyTo_wf {m : Memory} {g h : Nat} (w : m.wf = true) : (m.copyTo g h).wf = true := Memory.paste_wf (m := m) w

theorem Sparse.get_keep {α : Type} (d : α) (p : Nat → Bool) (l : List (Nat × α)) (b : Nat) (hb : p b = true) :
    Sparse.get d (l.filter (fun x => p x.1)) b = Sparse.get d l b := by
  induction l with
  | nil => rfl
  | cons x r ih =>
    obtain ⟨k, y⟩ := x
    by_cases hk : p k = true
    · simp only [List.filter_cons, hk, if_true, Sparse.get, ih]
    · have : k ≠ b := fun e => hk (by rw [e]; exact hb)
      simp [hk, Sparse.get, ih, this]

/-- A copy of a granule changes no byte outside the granule that takes it. -/
theorem Memory.copyTo_get {m : Memory} {g h k : Nat} (hk : k / 65536 ≠ h) : (m.copyTo g h).get k = m.get k := by
  change (m.paste (h * 65536) 65536 _).get k = _
  unfold Memory.paste
  rw [Memory.foldPut_get]
  · exact Sparse.get_keep 0#8 (fun a => decide (a < h * 65536) || decide (h * 65536 + 65536 ≤ a)) _ _ (by
      simp only [Bool.or_eq_true, decide_eq_true_eq]; omega)
  · rw [List.all_eq_true]
    intro x hx
    obtain ⟨c, -, rfl⟩ := List.mem_map.mp hx
    simp only [bne_iff_ne, ne_eq]
    omega

theorem Memory.reset_wf : Memory.reset.wf = true := rfl

end Sys2Proof.Machine
end

