-- ==== Sys2Proof/Laws/State.lean ====
section
/-! SUPPORT. One lemma per field per update of the state: what an update does not name stays (all by `rfl`), and how a read of
a register sees a write. -/

namespace Sys2Proof.Machine

/-! ### modG -/

@[simp] theorem State.modG_gangs (s : State) (f : Gang → Gang) : (s.modG f).gangs = s.gangs := rfl
@[simp] theorem State.modG_crews (s : State) (f : Gang → Gang) : (s.modG f).crews = s.crews := rfl
@[simp] theorem State.modG_launches (s : State) (f : Gang → Gang) : (s.modG f).launches = s.launches := rfl
@[simp] theorem State.modG_replays (s : State) (f : Gang → Gang) : (s.modG f).replays = s.replays := rfl
@[simp] theorem State.modG_mem (s : State) (f : Gang → Gang) : (s.modG f).mem = s.mem := rfl
@[simp] theorem State.modG_labels (s : State) (f : Gang → Gang) : (s.modG f).labels = s.labels := rfl
@[simp] theorem State.modG_labelPoison (s : State) (f : Gang → Gang) : (s.modG f).labelPoison = s.labelPoison := rfl
@[simp] theorem State.modG_quiesces (s : State) (f : Gang → Gang) : (s.modG f).quiesces = s.quiesces := rfl
@[simp] theorem State.modG_withdrawals (s : State) (f : Gang → Gang) : (s.modG f).withdrawals = s.withdrawals := rfl
@[simp] theorem State.modG_ops (s : State) (f : Gang → Gang) : (s.modG f).ops = s.ops := rfl
@[simp] theorem State.modG_wq (s : State) (f : Gang → Gang) : (s.modG f).wq = s.wq := rfl
@[simp] theorem State.modG_records (s : State) (f : Gang → Gang) : (s.modG f).records = s.records := rfl
@[simp] theorem State.modG_ifaces (s : State) (f : Gang → Gang) : (s.modG f).ifaces = s.ifaces := rfl
@[simp] theorem State.modG_queues (s : State) (f : Gang → Gang) : (s.modG f).queues = s.queues := rfl
@[simp] theorem State.modG_regs (s : State) (f : Gang → Gang) : (s.modG f).regs = s.regs := rfl
@[simp] theorem State.modG_pkg (s : State) (f : Gang → Gang) : (s.modG f).pkg = s.pkg := rfl
@[simp] theorem State.modG_fab (s : State) (f : Gang → Gang) : (s.modG f).fab = s.fab := rfl
@[simp] theorem State.modG_rc (s : State) (f : Gang → Gang) : (s.modG f).rc = s.rc := rfl
@[simp] theorem State.modG_pw (s : State) (f : Gang → Gang) : (s.modG f).pw = s.pw := rfl
@[simp] theorem State.modG_nvm (s : State) (f : Gang → Gang) : (s.modG f).nvm = s.nvm := rfl
@[simp] theorem State.modG_time (s : State) (f : Gang → Gang) : (s.modG f).time = s.time := rfl
@[simp] theorem State.modG_admSeq (s : State) (f : Gang → Gang) : (s.modG f).admSeq = s.admSeq := rfl
@[simp] theorem State.modG_issuing (s : State) (f : Gang → Gang) : (s.modG f).issuing = s.issuing := rfl
@[simp] theorem State.modG_picks (s : State) (f : Gang → Gang) : (s.modG f).picks = s.picks := rfl
@[simp] theorem State.modG_agenda (s : State) (f : Gang → Gang) : (s.modG f).agenda = s.agenda := rfl
@[simp] theorem State.modG_acts (s : State) (f : Gang → Gang) : (s.modG f).acts = s.acts := rfl
@[simp] theorem State.modG_defer (s : State) (f : Gang → Gang) : (s.modG f).defer = s.defer := rfl
@[simp] theorem State.modG_late (s : State) (f : Gang → Gang) : (s.modG f).late = s.late := rfl
@[simp] theorem State.modG_nextId (s : State) (f : Gang → Gang) : (s.modG f).nextId = s.nextId := rfl
@[simp] theorem State.modG_freeCtr (s : State) (f : Gang → Gang) : (s.modG f).freeCtr = s.freeCtr := rfl

/-! ### wr -/

@[simp] theorem State.wr_gangs (s : State) (r : SReg) (w : Word) : (s.wr r w).gangs = s.gangs := rfl
@[simp] theorem State.wr_crews (s : State) (r : SReg) (w : Word) : (s.wr r w).crews = s.crews := rfl
@[simp] theorem State.wr_launches (s : State) (r : SReg) (w : Word) : (s.wr r w).launches = s.launches := rfl
@[simp] theorem State.wr_replays (s : State) (r : SReg) (w : Word) : (s.wr r w).replays = s.replays := rfl
@[simp] theorem State.wr_mem (s : State) (r : SReg) (w : Word) : (s.wr r w).mem = s.mem := rfl
@[simp] theorem State.wr_labels (s : State) (r : SReg) (w : Word) : (s.wr r w).labels = s.labels := rfl
@[simp] theorem State.wr_labelPoison (s : State) (r : SReg) (w : Word) : (s.wr r w).labelPoison = s.labelPoison := rfl
@[simp] theorem State.wr_quiesces (s : State) (r : SReg) (w : Word) : (s.wr r w).quiesces = s.quiesces := rfl
@[simp] theorem State.wr_withdrawals (s : State) (r : SReg) (w : Word) : (s.wr r w).withdrawals = s.withdrawals := rfl
@[simp] theorem State.wr_ops (s : State) (r : SReg) (w : Word) : (s.wr r w).ops = s.ops := rfl
@[simp] theorem State.wr_wq (s : State) (r : SReg) (w : Word) : (s.wr r w).wq = s.wq := rfl
@[simp] theorem State.wr_records (s : State) (r : SReg) (w : Word) : (s.wr r w).records = s.records := rfl
@[simp] theorem State.wr_ifaces (s : State) (r : SReg) (w : Word) : (s.wr r w).ifaces = s.ifaces := rfl
@[simp] theorem State.wr_queues (s : State) (r : SReg) (w : Word) : (s.wr r w).queues = s.queues := rfl
@[simp] theorem State.wr_regs (s : State) (r : SReg) (w : Word) : (s.wr r w).regs = s.regs := rfl
@[simp] theorem State.wr_pkg (s : State) (r : SReg) (w : Word) : (s.wr r w).pkg = s.pkg := rfl
@[simp] theorem State.wr_fab (s : State) (r : SReg) (w : Word) : (s.wr r w).fab = s.fab := rfl
@[simp] theorem State.wr_rc (s : State) (r : SReg) (w : Word) : (s.wr r w).rc = s.rc := rfl
@[simp] theorem State.wr_pw (s : State) (r : SReg) (w : Word) : (s.wr r w).pw = s.pw := rfl
@[simp] theorem State.wr_nvm (s : State) (r : SReg) (w : Word) : (s.wr r w).nvm = s.nvm := rfl
@[simp] theorem State.wr_time (s : State) (r : SReg) (w : Word) : (s.wr r w).time = s.time := rfl
@[simp] theorem State.wr_admSeq (s : State) (r : SReg) (w : Word) : (s.wr r w).admSeq = s.admSeq := rfl
@[simp] theorem State.wr_issuing (s : State) (r : SReg) (w : Word) : (s.wr r w).issuing = s.issuing := rfl
@[simp] theorem State.wr_picks (s : State) (r : SReg) (w : Word) : (s.wr r w).picks = s.picks := rfl
@[simp] theorem State.wr_agenda (s : State) (r : SReg) (w : Word) : (s.wr r w).agenda = s.agenda := rfl
@[simp] theorem State.wr_acts (s : State) (r : SReg) (w : Word) : (s.wr r w).acts = s.acts := rfl
@[simp] theorem State.wr_defer (s : State) (r : SReg) (w : Word) : (s.wr r w).defer = s.defer := rfl
@[simp] theorem State.wr_late (s : State) (r : SReg) (w : Word) : (s.wr r w).late = s.late := rfl
@[simp] theorem State.wr_nextId (s : State) (r : SReg) (w : Word) : (s.wr r w).nextId = s.nextId := rfl
@[simp] theorem State.wr_freeCtr (s : State) (r : SReg) (w : Word) : (s.wr r w).freeCtr = s.freeCtr := rfl

/-! ### wrP -/

@[simp] theorem State.wrP_gangs (s : State) (p : Pair) (v : DWord) : (s.wrP p v).gangs = s.gangs := rfl
@[simp] theorem State.wrP_crews (s : State) (p : Pair) (v : DWord) : (s.wrP p v).crews = s.crews := rfl
@[simp] theorem State.wrP_launches (s : State) (p : Pair) (v : DWord) : (s.wrP p v).launches = s.launches := rfl
@[simp] theorem State.wrP_replays (s : State) (p : Pair) (v : DWord) : (s.wrP p v).replays = s.replays := rfl
@[simp] theorem State.wrP_mem (s : State) (p : Pair) (v : DWord) : (s.wrP p v).mem = s.mem := rfl
@[simp] theorem State.wrP_labels (s : State) (p : Pair) (v : DWord) : (s.wrP p v).labels = s.labels := rfl
@[simp] theorem State.wrP_labelPoison (s : State) (p : Pair) (v : DWord) : (s.wrP p v).labelPoison = s.labelPoison := rfl
@[simp] theorem State.wrP_quiesces (s : State) (p : Pair) (v : DWord) : (s.wrP p v).quiesces = s.quiesces := rfl
@[simp] theorem State.wrP_withdrawals (s : State) (p : Pair) (v : DWord) : (s.wrP p v).withdrawals = s.withdrawals := rfl
@[simp] theorem State.wrP_ops (s : State) (p : Pair) (v : DWord) : (s.wrP p v).ops = s.ops := rfl
@[simp] theorem State.wrP_wq (s : State) (p : Pair) (v : DWord) : (s.wrP p v).wq = s.wq := rfl
@[simp] theorem State.wrP_records (s : State) (p : Pair) (v : DWord) : (s.wrP p v).records = s.records := rfl
@[simp] theorem State.wrP_ifaces (s : State) (p : Pair) (v : DWord) : (s.wrP p v).ifaces = s.ifaces := rfl
@[simp] theorem State.wrP_queues (s : State) (p : Pair) (v : DWord) : (s.wrP p v).queues = s.queues := rfl
@[simp] theorem State.wrP_regs (s : State) (p : Pair) (v : DWord) : (s.wrP p v).regs = s.regs := rfl
@[simp] theorem State.wrP_pkg (s : State) (p : Pair) (v : DWord) : (s.wrP p v).pkg = s.pkg := rfl
@[simp] theorem State.wrP_fab (s : State) (p : Pair) (v : DWord) : (s.wrP p v).fab = s.fab := rfl
@[simp] theorem State.wrP_rc (s : State) (p : Pair) (v : DWord) : (s.wrP p v).rc = s.rc := rfl
@[simp] theorem State.wrP_pw (s : State) (p : Pair) (v : DWord) : (s.wrP p v).pw = s.pw := rfl
@[simp] theorem State.wrP_nvm (s : State) (p : Pair) (v : DWord) : (s.wrP p v).nvm = s.nvm := rfl
@[simp] theorem State.wrP_time (s : State) (p : Pair) (v : DWord) : (s.wrP p v).time = s.time := rfl
@[simp] theorem State.wrP_admSeq (s : State) (p : Pair) (v : DWord) : (s.wrP p v).admSeq = s.admSeq := rfl
@[simp] theorem State.wrP_issuing (s : State) (p : Pair) (v : DWord) : (s.wrP p v).issuing = s.issuing := rfl
@[simp] theorem State.wrP_picks (s : State) (p : Pair) (v : DWord) : (s.wrP p v).picks = s.picks := rfl
@[simp] theorem State.wrP_agenda (s : State) (p : Pair) (v : DWord) : (s.wrP p v).agenda = s.agenda := rfl
@[simp] theorem State.wrP_acts (s : State) (p : Pair) (v : DWord) : (s.wrP p v).acts = s.acts := rfl
@[simp] theorem State.wrP_defer (s : State) (p : Pair) (v : DWord) : (s.wrP p v).defer = s.defer := rfl
@[simp] theorem State.wrP_late (s : State) (p : Pair) (v : DWord) : (s.wrP p v).late = s.late := rfl
@[simp] theorem State.wrP_nextId (s : State) (p : Pair) (v : DWord) : (s.wrP p v).nextId = s.nextId := rfl
@[simp] theorem State.wrP_freeCtr (s : State) (p : Pair) (v : DWord) : (s.wrP p v).freeCtr = s.freeCtr := rfl

/-! ### advance -/

@[simp] theorem State.advance_gangs (s : State) (n : Nat) : (s.advance n).gangs = s.gangs := rfl
@[simp] theorem State.advance_crews (s : State) (n : Nat) : (s.advance n).crews = s.crews := rfl
@[simp] theorem State.advance_launches (s : State) (n : Nat) : (s.advance n).launches = s.launches := rfl
@[simp] theorem State.advance_replays (s : State) (n : Nat) : (s.advance n).replays = s.replays := rfl
@[simp] theorem State.advance_mem (s : State) (n : Nat) : (s.advance n).mem = s.mem := rfl
@[simp] theorem State.advance_labels (s : State) (n : Nat) : (s.advance n).labels = s.labels := rfl
@[simp] theorem State.advance_labelPoison (s : State) (n : Nat) : (s.advance n).labelPoison = s.labelPoison := rfl
@[simp] theorem State.advance_quiesces (s : State) (n : Nat) : (s.advance n).quiesces = s.quiesces := rfl
@[simp] theorem State.advance_withdrawals (s : State) (n : Nat) : (s.advance n).withdrawals = s.withdrawals := rfl
@[simp] theorem State.advance_ops (s : State) (n : Nat) : (s.advance n).ops = s.ops := rfl
@[simp] theorem State.advance_wq (s : State) (n : Nat) : (s.advance n).wq = s.wq := rfl
@[simp] theorem State.advance_records (s : State) (n : Nat) : (s.advance n).records = s.records := rfl
@[simp] theorem State.advance_ifaces (s : State) (n : Nat) : (s.advance n).ifaces = s.ifaces := rfl
@[simp] theorem State.advance_queues (s : State) (n : Nat) : (s.advance n).queues = s.queues := rfl
@[simp] theorem State.advance_regs (s : State) (n : Nat) : (s.advance n).regs = s.regs := rfl
@[simp] theorem State.advance_pkg (s : State) (n : Nat) : (s.advance n).pkg = s.pkg := rfl
@[simp] theorem State.advance_fab (s : State) (n : Nat) : (s.advance n).fab = s.fab := rfl
@[simp] theorem State.advance_rc (s : State) (n : Nat) : (s.advance n).rc = s.rc := rfl
@[simp] theorem State.advance_pw (s : State) (n : Nat) : (s.advance n).pw = s.pw := rfl
@[simp] theorem State.advance_nvm (s : State) (n : Nat) : (s.advance n).nvm = s.nvm := rfl
@[simp] theorem State.advance_time (s : State) (n : Nat) : (s.advance n).time = s.time := rfl
@[simp] theorem State.advance_admSeq (s : State) (n : Nat) : (s.advance n).admSeq = s.admSeq := rfl
@[simp] theorem State.advance_issuing (s : State) (n : Nat) : (s.advance n).issuing = s.issuing := rfl
@[simp] theorem State.advance_picks (s : State) (n : Nat) : (s.advance n).picks = s.picks := rfl
@[simp] theorem State.advance_agenda (s : State) (n : Nat) : (s.advance n).agenda = s.agenda := rfl
@[simp] theorem State.advance_acts (s : State) (n : Nat) : (s.advance n).acts = s.acts := rfl
@[simp] theorem State.advance_defer (s : State) (n : Nat) : (s.advance n).defer = s.defer := rfl
@[simp] theorem State.advance_late (s : State) (n : Nat) : (s.advance n).late = s.late := rfl
@[simp] theorem State.advance_nextId (s : State) (n : Nat) : (s.advance n).nextId = s.nextId := rfl
@[simp] theorem State.advance_freeCtr (s : State) (n : Nat) : (s.advance n).freeCtr = s.freeCtr := rfl

/-! ### setPc -/

@[simp] theorem State.setPc_gangs (s : State) (v : DWord) : (s.setPc v).gangs = s.gangs := rfl
@[simp] theorem State.setPc_crews (s : State) (v : DWord) : (s.setPc v).crews = s.crews := rfl
@[simp] theorem State.setPc_launches (s : State) (v : DWord) : (s.setPc v).launches = s.launches := rfl
@[simp] theorem State.setPc_replays (s : State) (v : DWord) : (s.setPc v).replays = s.replays := rfl
@[simp] theorem State.setPc_mem (s : State) (v : DWord) : (s.setPc v).mem = s.mem := rfl
@[simp] theorem State.setPc_labels (s : State) (v : DWord) : (s.setPc v).labels = s.labels := rfl
@[simp] theorem State.setPc_labelPoison (s : State) (v : DWord) : (s.setPc v).labelPoison = s.labelPoison := rfl
@[simp] theorem State.setPc_quiesces (s : State) (v : DWord) : (s.setPc v).quiesces = s.quiesces := rfl
@[simp] theorem State.setPc_withdrawals (s : State) (v : DWord) : (s.setPc v).withdrawals = s.withdrawals := rfl
@[simp] theorem State.setPc_ops (s : State) (v : DWord) : (s.setPc v).ops = s.ops := rfl
@[simp] theorem State.setPc_wq (s : State) (v : DWord) : (s.setPc v).wq = s.wq := rfl
@[simp] theorem State.setPc_records (s : State) (v : DWord) : (s.setPc v).records = s.records := rfl
@[simp] theorem State.setPc_ifaces (s : State) (v : DWord) : (s.setPc v).ifaces = s.ifaces := rfl
@[simp] theorem State.setPc_queues (s : State) (v : DWord) : (s.setPc v).queues = s.queues := rfl
@[simp] theorem State.setPc_regs (s : State) (v : DWord) : (s.setPc v).regs = s.regs := rfl
@[simp] theorem State.setPc_pkg (s : State) (v : DWord) : (s.setPc v).pkg = s.pkg := rfl
@[simp] theorem State.setPc_fab (s : State) (v : DWord) : (s.setPc v).fab = s.fab := rfl
@[simp] theorem State.setPc_rc (s : State) (v : DWord) : (s.setPc v).rc = s.rc := rfl
@[simp] theorem State.setPc_pw (s : State) (v : DWord) : (s.setPc v).pw = s.pw := rfl
@[simp] theorem State.setPc_nvm (s : State) (v : DWord) : (s.setPc v).nvm = s.nvm := rfl
@[simp] theorem State.setPc_time (s : State) (v : DWord) : (s.setPc v).time = s.time := rfl
@[simp] theorem State.setPc_admSeq (s : State) (v : DWord) : (s.setPc v).admSeq = s.admSeq := rfl
@[simp] theorem State.setPc_issuing (s : State) (v : DWord) : (s.setPc v).issuing = s.issuing := rfl
@[simp] theorem State.setPc_picks (s : State) (v : DWord) : (s.setPc v).picks = s.picks := rfl
@[simp] theorem State.setPc_agenda (s : State) (v : DWord) : (s.setPc v).agenda = s.agenda := rfl
@[simp] theorem State.setPc_acts (s : State) (v : DWord) : (s.setPc v).acts = s.acts := rfl
@[simp] theorem State.setPc_defer (s : State) (v : DWord) : (s.setPc v).defer = s.defer := rfl
@[simp] theorem State.setPc_late (s : State) (v : DWord) : (s.setPc v).late = s.late := rfl
@[simp] theorem State.setPc_nextId (s : State) (v : DWord) : (s.setPc v).nextId = s.nextId := rfl
@[simp] theorem State.setPc_freeCtr (s : State) (v : DWord) : (s.setPc v).freeCtr = s.freeCtr := rfl

/-! ### setRun -/

@[simp] theorem State.setRun_gangs (s : State) (r : Run) : (s.setRun r).gangs = s.gangs := rfl
@[simp] theorem State.setRun_crews (s : State) (r : Run) : (s.setRun r).crews = s.crews := rfl
@[simp] theorem State.setRun_launches (s : State) (r : Run) : (s.setRun r).launches = s.launches := rfl
@[simp] theorem State.setRun_replays (s : State) (r : Run) : (s.setRun r).replays = s.replays := rfl
@[simp] theorem State.setRun_mem (s : State) (r : Run) : (s.setRun r).mem = s.mem := rfl
@[simp] theorem State.setRun_labels (s : State) (r : Run) : (s.setRun r).labels = s.labels := rfl
@[simp] theorem State.setRun_labelPoison (s : State) (r : Run) : (s.setRun r).labelPoison = s.labelPoison := rfl
@[simp] theorem State.setRun_quiesces (s : State) (r : Run) : (s.setRun r).quiesces = s.quiesces := rfl
@[simp] theorem State.setRun_withdrawals (s : State) (r : Run) : (s.setRun r).withdrawals = s.withdrawals := rfl
@[simp] theorem State.setRun_ops (s : State) (r : Run) : (s.setRun r).ops = s.ops := rfl
@[simp] theorem State.setRun_wq (s : State) (r : Run) : (s.setRun r).wq = s.wq := rfl
@[simp] theorem State.setRun_records (s : State) (r : Run) : (s.setRun r).records = s.records := rfl
@[simp] theorem State.setRun_ifaces (s : State) (r : Run) : (s.setRun r).ifaces = s.ifaces := rfl
@[simp] theorem State.setRun_queues (s : State) (r : Run) : (s.setRun r).queues = s.queues := rfl
@[simp] theorem State.setRun_regs (s : State) (r : Run) : (s.setRun r).regs = s.regs := rfl
@[simp] theorem State.setRun_pkg (s : State) (r : Run) : (s.setRun r).pkg = s.pkg := rfl
@[simp] theorem State.setRun_fab (s : State) (r : Run) : (s.setRun r).fab = s.fab := rfl
@[simp] theorem State.setRun_rc (s : State) (r : Run) : (s.setRun r).rc = s.rc := rfl
@[simp] theorem State.setRun_pw (s : State) (r : Run) : (s.setRun r).pw = s.pw := rfl
@[simp] theorem State.setRun_nvm (s : State) (r : Run) : (s.setRun r).nvm = s.nvm := rfl
@[simp] theorem State.setRun_time (s : State) (r : Run) : (s.setRun r).time = s.time := rfl
@[simp] theorem State.setRun_admSeq (s : State) (r : Run) : (s.setRun r).admSeq = s.admSeq := rfl
@[simp] theorem State.setRun_issuing (s : State) (r : Run) : (s.setRun r).issuing = s.issuing := rfl
@[simp] theorem State.setRun_picks (s : State) (r : Run) : (s.setRun r).picks = s.picks := rfl
@[simp] theorem State.setRun_agenda (s : State) (r : Run) : (s.setRun r).agenda = s.agenda := rfl
@[simp] theorem State.setRun_acts (s : State) (r : Run) : (s.setRun r).acts = s.acts := rfl
@[simp] theorem State.setRun_defer (s : State) (r : Run) : (s.setRun r).defer = s.defer := rfl
@[simp] theorem State.setRun_late (s : State) (r : Run) : (s.setRun r).late = s.late := rfl
@[simp] theorem State.setRun_nextId (s : State) (r : Run) : (s.setRun r).nextId = s.nextId := rfl
@[simp] theorem State.setRun_freeCtr (s : State) (r : Run) : (s.setRun r).freeCtr = s.freeCtr := rfl

/-! ### again -/

@[simp] theorem State.again_gangs (s : State) (r : Run) : (s.again r).gangs = s.gangs := rfl
@[simp] theorem State.again_crews (s : State) (r : Run) : (s.again r).crews = s.crews := rfl
@[simp] theorem State.again_launches (s : State) (r : Run) : (s.again r).launches = s.launches := rfl
@[simp] theorem State.again_replays (s : State) (r : Run) : (s.again r).replays = s.replays := rfl
@[simp] theorem State.again_mem (s : State) (r : Run) : (s.again r).mem = s.mem := rfl
@[simp] theorem State.again_labels (s : State) (r : Run) : (s.again r).labels = s.labels := rfl
@[simp] theorem State.again_labelPoison (s : State) (r : Run) : (s.again r).labelPoison = s.labelPoison := rfl
@[simp] theorem State.again_quiesces (s : State) (r : Run) : (s.again r).quiesces = s.quiesces := rfl
@[simp] theorem State.again_withdrawals (s : State) (r : Run) : (s.again r).withdrawals = s.withdrawals := rfl
@[simp] theorem State.again_ops (s : State) (r : Run) : (s.again r).ops = s.ops := rfl
@[simp] theorem State.again_wq (s : State) (r : Run) : (s.again r).wq = s.wq := rfl
@[simp] theorem State.again_records (s : State) (r : Run) : (s.again r).records = s.records := rfl
@[simp] theorem State.again_ifaces (s : State) (r : Run) : (s.again r).ifaces = s.ifaces := rfl
@[simp] theorem State.again_queues (s : State) (r : Run) : (s.again r).queues = s.queues := rfl
@[simp] theorem State.again_regs (s : State) (r : Run) : (s.again r).regs = s.regs := rfl
@[simp] theorem State.again_pkg (s : State) (r : Run) : (s.again r).pkg = s.pkg := rfl
@[simp] theorem State.again_fab (s : State) (r : Run) : (s.again r).fab = s.fab := rfl
@[simp] theorem State.again_rc (s : State) (r : Run) : (s.again r).rc = s.rc := rfl
@[simp] theorem State.again_pw (s : State) (r : Run) : (s.again r).pw = s.pw := rfl
@[simp] theorem State.again_nvm (s : State) (r : Run) : (s.again r).nvm = s.nvm := rfl
@[simp] theorem State.again_time (s : State) (r : Run) : (s.again r).time = s.time := rfl
@[simp] theorem State.again_admSeq (s : State) (r : Run) : (s.again r).admSeq = s.admSeq := rfl
@[simp] theorem State.again_issuing (s : State) (r : Run) : (s.again r).issuing = s.issuing := rfl
@[simp] theorem State.again_picks (s : State) (r : Run) : (s.again r).picks = s.picks := rfl
@[simp] theorem State.again_agenda (s : State) (r : Run) : (s.again r).agenda = s.agenda := rfl
@[simp] theorem State.again_acts (s : State) (r : Run) : (s.again r).acts = s.acts := rfl
@[simp] theorem State.again_defer (s : State) (r : Run) : (s.again r).defer = s.defer := rfl
@[simp] theorem State.again_late (s : State) (r : Run) : (s.again r).late = s.late := rfl
@[simp] theorem State.again_nextId (s : State) (r : Run) : (s.again r).nextId = s.nextId := rfl
@[simp] theorem State.again_freeCtr (s : State) (r : Run) : (s.again r).freeCtr = s.freeCtr := rfl

/-! ### modBoard -/

@[simp] theorem State.modBoard_gangs (s : State) (f : Board → Board) : (s.modBoard f).gangs = s.gangs := rfl
@[simp] theorem State.modBoard_crews (s : State) (f : Board → Board) : (s.modBoard f).crews = s.crews := rfl
@[simp] theorem State.modBoard_launches (s : State) (f : Board → Board) : (s.modBoard f).launches = s.launches := rfl
@[simp] theorem State.modBoard_replays (s : State) (f : Board → Board) : (s.modBoard f).replays = s.replays := rfl
@[simp] theorem State.modBoard_mem (s : State) (f : Board → Board) : (s.modBoard f).mem = s.mem := rfl
@[simp] theorem State.modBoard_labels (s : State) (f : Board → Board) : (s.modBoard f).labels = s.labels := rfl
@[simp] theorem State.modBoard_labelPoison (s : State) (f : Board → Board) : (s.modBoard f).labelPoison = s.labelPoison := rfl
@[simp] theorem State.modBoard_quiesces (s : State) (f : Board → Board) : (s.modBoard f).quiesces = s.quiesces := rfl
@[simp] theorem State.modBoard_withdrawals (s : State) (f : Board → Board) : (s.modBoard f).withdrawals = s.withdrawals := rfl
@[simp] theorem State.modBoard_ops (s : State) (f : Board → Board) : (s.modBoard f).ops = s.ops := rfl
@[simp] theorem State.modBoard_wq (s : State) (f : Board → Board) : (s.modBoard f).wq = s.wq := rfl
@[simp] theorem State.modBoard_records (s : State) (f : Board → Board) : (s.modBoard f).records = s.records := rfl
@[simp] theorem State.modBoard_ifaces (s : State) (f : Board → Board) : (s.modBoard f).ifaces = s.ifaces := rfl
@[simp] theorem State.modBoard_queues (s : State) (f : Board → Board) : (s.modBoard f).queues = s.queues := rfl
@[simp] theorem State.modBoard_regs (s : State) (f : Board → Board) : (s.modBoard f).regs = s.regs := rfl
@[simp] theorem State.modBoard_pkg (s : State) (f : Board → Board) : (s.modBoard f).pkg = s.pkg := rfl
@[simp] theorem State.modBoard_fab (s : State) (f : Board → Board) : (s.modBoard f).fab = s.fab := rfl
@[simp] theorem State.modBoard_rc (s : State) (f : Board → Board) : (s.modBoard f).rc = s.rc := rfl
@[simp] theorem State.modBoard_pw (s : State) (f : Board → Board) : (s.modBoard f).pw = s.pw := rfl
@[simp] theorem State.modBoard_nvm (s : State) (f : Board → Board) : (s.modBoard f).nvm = s.nvm := rfl
@[simp] theorem State.modBoard_time (s : State) (f : Board → Board) : (s.modBoard f).time = s.time := rfl
@[simp] theorem State.modBoard_admSeq (s : State) (f : Board → Board) : (s.modBoard f).admSeq = s.admSeq := rfl
@[simp] theorem State.modBoard_issuing (s : State) (f : Board → Board) : (s.modBoard f).issuing = s.issuing := rfl
@[simp] theorem State.modBoard_picks (s : State) (f : Board → Board) : (s.modBoard f).picks = s.picks := rfl
@[simp] theorem State.modBoard_agenda (s : State) (f : Board → Board) : (s.modBoard f).agenda = s.agenda := rfl
@[simp] theorem State.modBoard_acts (s : State) (f : Board → Board) : (s.modBoard f).acts = s.acts := rfl
@[simp] theorem State.modBoard_defer (s : State) (f : Board → Board) : (s.modBoard f).defer = s.defer := rfl
@[simp] theorem State.modBoard_late (s : State) (f : Board → Board) : (s.modBoard f).late = s.late := rfl
@[simp] theorem State.modBoard_nextId (s : State) (f : Board → Board) : (s.modBoard f).nextId = s.nextId := rfl
@[simp] theorem State.modBoard_freeCtr (s : State) (f : Board → Board) : (s.modBoard f).freeCtr = s.freeCtr := rfl

/-! ### setCond -/

@[simp] theorem State.setCond_gangs (s : State) (c : CReg) (v : Bool) : (s.setCond c v).gangs = s.gangs := rfl
@[simp] theorem State.setCond_crews (s : State) (c : CReg) (v : Bool) : (s.setCond c v).crews = s.crews := rfl
@[simp] theorem State.setCond_launches (s : State) (c : CReg) (v : Bool) : (s.setCond c v).launches = s.launches := rfl
@[simp] theorem State.setCond_replays (s : State) (c : CReg) (v : Bool) : (s.setCond c v).replays = s.replays := rfl
@[simp] theorem State.setCond_mem (s : State) (c : CReg) (v : Bool) : (s.setCond c v).mem = s.mem := rfl
@[simp] theorem State.setCond_labels (s : State) (c : CReg) (v : Bool) : (s.setCond c v).labels = s.labels := rfl
@[simp] theorem State.setCond_labelPoison (s : State) (c : CReg) (v : Bool) : (s.setCond c v).labelPoison = s.labelPoison := rfl
@[simp] theorem State.setCond_quiesces (s : State) (c : CReg) (v : Bool) : (s.setCond c v).quiesces = s.quiesces := rfl
@[simp] theorem State.setCond_withdrawals (s : State) (c : CReg) (v : Bool) : (s.setCond c v).withdrawals = s.withdrawals := rfl
@[simp] theorem State.setCond_ops (s : State) (c : CReg) (v : Bool) : (s.setCond c v).ops = s.ops := rfl
@[simp] theorem State.setCond_wq (s : State) (c : CReg) (v : Bool) : (s.setCond c v).wq = s.wq := rfl
@[simp] theorem State.setCond_records (s : State) (c : CReg) (v : Bool) : (s.setCond c v).records = s.records := rfl
@[simp] theorem State.setCond_ifaces (s : State) (c : CReg) (v : Bool) : (s.setCond c v).ifaces = s.ifaces := rfl
@[simp] theorem State.setCond_queues (s : State) (c : CReg) (v : Bool) : (s.setCond c v).queues = s.queues := rfl
@[simp] theorem State.setCond_regs (s : State) (c : CReg) (v : Bool) : (s.setCond c v).regs = s.regs := rfl
@[simp] theorem State.setCond_pkg (s : State) (c : CReg) (v : Bool) : (s.setCond c v).pkg = s.pkg := rfl
@[simp] theorem State.setCond_fab (s : State) (c : CReg) (v : Bool) : (s.setCond c v).fab = s.fab := rfl
@[simp] theorem State.setCond_rc (s : State) (c : CReg) (v : Bool) : (s.setCond c v).rc = s.rc := rfl
@[simp] theorem State.setCond_pw (s : State) (c : CReg) (v : Bool) : (s.setCond c v).pw = s.pw := rfl
@[simp] theorem State.setCond_nvm (s : State) (c : CReg) (v : Bool) : (s.setCond c v).nvm = s.nvm := rfl
@[simp] theorem State.setCond_time (s : State) (c : CReg) (v : Bool) : (s.setCond c v).time = s.time := rfl
@[simp] theorem State.setCond_admSeq (s : State) (c : CReg) (v : Bool) : (s.setCond c v).admSeq = s.admSeq := rfl
@[simp] theorem State.setCond_issuing (s : State) (c : CReg) (v : Bool) : (s.setCond c v).issuing = s.issuing := rfl
@[simp] theorem State.setCond_picks (s : State) (c : CReg) (v : Bool) : (s.setCond c v).picks = s.picks := rfl
@[simp] theorem State.setCond_agenda (s : State) (c : CReg) (v : Bool) : (s.setCond c v).agenda = s.agenda := rfl
@[simp] theorem State.setCond_acts (s : State) (c : CReg) (v : Bool) : (s.setCond c v).acts = s.acts := rfl
@[simp] theorem State.setCond_defer (s : State) (c : CReg) (v : Bool) : (s.setCond c v).defer = s.defer := rfl
@[simp] theorem State.setCond_late (s : State) (c : CReg) (v : Bool) : (s.setCond c v).late = s.late := rfl
@[simp] theorem State.setCond_nextId (s : State) (c : CReg) (v : Bool) : (s.setCond c v).nextId = s.nextId := rfl
@[simp] theorem State.setCond_freeCtr (s : State) (c : CReg) (v : Bool) : (s.setCond c v).freeCtr = s.freeCtr := rfl

/-! ### setDivZero -/

@[simp] theorem State.setDivZero_gangs (s : State) : (s.setDivZero).gangs = s.gangs := rfl
@[simp] theorem State.setDivZero_crews (s : State) : (s.setDivZero).crews = s.crews := rfl
@[simp] theorem State.setDivZero_launches (s : State) : (s.setDivZero).launches = s.launches := rfl
@[simp] theorem State.setDivZero_replays (s : State) : (s.setDivZero).replays = s.replays := rfl
@[simp] theorem State.setDivZero_mem (s : State) : (s.setDivZero).mem = s.mem := rfl
@[simp] theorem State.setDivZero_labels (s : State) : (s.setDivZero).labels = s.labels := rfl
@[simp] theorem State.setDivZero_labelPoison (s : State) : (s.setDivZero).labelPoison = s.labelPoison := rfl
@[simp] theorem State.setDivZero_quiesces (s : State) : (s.setDivZero).quiesces = s.quiesces := rfl
@[simp] theorem State.setDivZero_withdrawals (s : State) : (s.setDivZero).withdrawals = s.withdrawals := rfl
@[simp] theorem State.setDivZero_ops (s : State) : (s.setDivZero).ops = s.ops := rfl
@[simp] theorem State.setDivZero_wq (s : State) : (s.setDivZero).wq = s.wq := rfl
@[simp] theorem State.setDivZero_records (s : State) : (s.setDivZero).records = s.records := rfl
@[simp] theorem State.setDivZero_ifaces (s : State) : (s.setDivZero).ifaces = s.ifaces := rfl
@[simp] theorem State.setDivZero_queues (s : State) : (s.setDivZero).queues = s.queues := rfl
@[simp] theorem State.setDivZero_regs (s : State) : (s.setDivZero).regs = s.regs := rfl
@[simp] theorem State.setDivZero_pkg (s : State) : (s.setDivZero).pkg = s.pkg := rfl
@[simp] theorem State.setDivZero_fab (s : State) : (s.setDivZero).fab = s.fab := rfl
@[simp] theorem State.setDivZero_rc (s : State) : (s.setDivZero).rc = s.rc := rfl
@[simp] theorem State.setDivZero_pw (s : State) : (s.setDivZero).pw = s.pw := rfl
@[simp] theorem State.setDivZero_nvm (s : State) : (s.setDivZero).nvm = s.nvm := rfl
@[simp] theorem State.setDivZero_time (s : State) : (s.setDivZero).time = s.time := rfl
@[simp] theorem State.setDivZero_admSeq (s : State) : (s.setDivZero).admSeq = s.admSeq := rfl
@[simp] theorem State.setDivZero_issuing (s : State) : (s.setDivZero).issuing = s.issuing := rfl
@[simp] theorem State.setDivZero_picks (s : State) : (s.setDivZero).picks = s.picks := rfl
@[simp] theorem State.setDivZero_agenda (s : State) : (s.setDivZero).agenda = s.agenda := rfl
@[simp] theorem State.setDivZero_acts (s : State) : (s.setDivZero).acts = s.acts := rfl
@[simp] theorem State.setDivZero_defer (s : State) : (s.setDivZero).defer = s.defer := rfl
@[simp] theorem State.setDivZero_late (s : State) : (s.setDivZero).late = s.late := rfl
@[simp] theorem State.setDivZero_nextId (s : State) : (s.setDivZero).nextId = s.nextId := rfl
@[simp] theorem State.setDivZero_freeCtr (s : State) : (s.setDivZero).freeCtr = s.freeCtr := rfl

/-! ### setLatchLost -/

@[simp] theorem State.setLatchLost_gangs (s : State) : (s.setLatchLost).gangs = s.gangs := rfl
@[simp] theorem State.setLatchLost_crews (s : State) : (s.setLatchLost).crews = s.crews := rfl
@[simp] theorem State.setLatchLost_launches (s : State) : (s.setLatchLost).launches = s.launches := rfl
@[simp] theorem State.setLatchLost_replays (s : State) : (s.setLatchLost).replays = s.replays := rfl
@[simp] theorem State.setLatchLost_mem (s : State) : (s.setLatchLost).mem = s.mem := rfl
@[simp] theorem State.setLatchLost_labels (s : State) : (s.setLatchLost).labels = s.labels := rfl
@[simp] theorem State.setLatchLost_labelPoison (s : State) : (s.setLatchLost).labelPoison = s.labelPoison := rfl
@[simp] theorem State.setLatchLost_quiesces (s : State) : (s.setLatchLost).quiesces = s.quiesces := rfl
@[simp] theorem State.setLatchLost_withdrawals (s : State) : (s.setLatchLost).withdrawals = s.withdrawals := rfl
@[simp] theorem State.setLatchLost_ops (s : State) : (s.setLatchLost).ops = s.ops := rfl
@[simp] theorem State.setLatchLost_wq (s : State) : (s.setLatchLost).wq = s.wq := rfl
@[simp] theorem State.setLatchLost_records (s : State) : (s.setLatchLost).records = s.records := rfl
@[simp] theorem State.setLatchLost_ifaces (s : State) : (s.setLatchLost).ifaces = s.ifaces := rfl
@[simp] theorem State.setLatchLost_queues (s : State) : (s.setLatchLost).queues = s.queues := rfl
@[simp] theorem State.setLatchLost_regs (s : State) : (s.setLatchLost).regs = s.regs := rfl
@[simp] theorem State.setLatchLost_pkg (s : State) : (s.setLatchLost).pkg = s.pkg := rfl
@[simp] theorem State.setLatchLost_fab (s : State) : (s.setLatchLost).fab = s.fab := rfl
@[simp] theorem State.setLatchLost_rc (s : State) : (s.setLatchLost).rc = s.rc := rfl
@[simp] theorem State.setLatchLost_pw (s : State) : (s.setLatchLost).pw = s.pw := rfl
@[simp] theorem State.setLatchLost_nvm (s : State) : (s.setLatchLost).nvm = s.nvm := rfl
@[simp] theorem State.setLatchLost_time (s : State) : (s.setLatchLost).time = s.time := rfl
@[simp] theorem State.setLatchLost_admSeq (s : State) : (s.setLatchLost).admSeq = s.admSeq := rfl
@[simp] theorem State.setLatchLost_issuing (s : State) : (s.setLatchLost).issuing = s.issuing := rfl
@[simp] theorem State.setLatchLost_picks (s : State) : (s.setLatchLost).picks = s.picks := rfl
@[simp] theorem State.setLatchLost_agenda (s : State) : (s.setLatchLost).agenda = s.agenda := rfl
@[simp] theorem State.setLatchLost_acts (s : State) : (s.setLatchLost).acts = s.acts := rfl
@[simp] theorem State.setLatchLost_defer (s : State) : (s.setLatchLost).defer = s.defer := rfl
@[simp] theorem State.setLatchLost_late (s : State) : (s.setLatchLost).late = s.late := rfl
@[simp] theorem State.setLatchLost_nextId (s : State) : (s.setLatchLost).nextId = s.nextId := rfl
@[simp] theorem State.setLatchLost_freeCtr (s : State) : (s.setLatchLost).freeCtr = s.freeCtr := rfl

/-! ### raiseFp -/

@[simp] theorem State.raiseFp_gangs (s : State) (f : BitVec 5) : (s.raiseFp f).gangs = s.gangs := rfl
@[simp] theorem State.raiseFp_crews (s : State) (f : BitVec 5) : (s.raiseFp f).crews = s.crews := rfl
@[simp] theorem State.raiseFp_launches (s : State) (f : BitVec 5) : (s.raiseFp f).launches = s.launches := rfl
@[simp] theorem State.raiseFp_replays (s : State) (f : BitVec 5) : (s.raiseFp f).replays = s.replays := rfl
@[simp] theorem State.raiseFp_mem (s : State) (f : BitVec 5) : (s.raiseFp f).mem = s.mem := rfl
@[simp] theorem State.raiseFp_labels (s : State) (f : BitVec 5) : (s.raiseFp f).labels = s.labels := rfl
@[simp] theorem State.raiseFp_labelPoison (s : State) (f : BitVec 5) : (s.raiseFp f).labelPoison = s.labelPoison := rfl
@[simp] theorem State.raiseFp_quiesces (s : State) (f : BitVec 5) : (s.raiseFp f).quiesces = s.quiesces := rfl
@[simp] theorem State.raiseFp_withdrawals (s : State) (f : BitVec 5) : (s.raiseFp f).withdrawals = s.withdrawals := rfl
@[simp] theorem State.raiseFp_ops (s : State) (f : BitVec 5) : (s.raiseFp f).ops = s.ops := rfl
@[simp] theorem State.raiseFp_wq (s : State) (f : BitVec 5) : (s.raiseFp f).wq = s.wq := rfl
@[simp] theorem State.raiseFp_records (s : State) (f : BitVec 5) : (s.raiseFp f).records = s.records := rfl
@[simp] theorem State.raiseFp_ifaces (s : State) (f : BitVec 5) : (s.raiseFp f).ifaces = s.ifaces := rfl
@[simp] theorem State.raiseFp_queues (s : State) (f : BitVec 5) : (s.raiseFp f).queues = s.queues := rfl
@[simp] theorem State.raiseFp_regs (s : State) (f : BitVec 5) : (s.raiseFp f).regs = s.regs := rfl
@[simp] theorem State.raiseFp_pkg (s : State) (f : BitVec 5) : (s.raiseFp f).pkg = s.pkg := rfl
@[simp] theorem State.raiseFp_fab (s : State) (f : BitVec 5) : (s.raiseFp f).fab = s.fab := rfl
@[simp] theorem State.raiseFp_rc (s : State) (f : BitVec 5) : (s.raiseFp f).rc = s.rc := rfl
@[simp] theorem State.raiseFp_pw (s : State) (f : BitVec 5) : (s.raiseFp f).pw = s.pw := rfl
@[simp] theorem State.raiseFp_nvm (s : State) (f : BitVec 5) : (s.raiseFp f).nvm = s.nvm := rfl
@[simp] theorem State.raiseFp_time (s : State) (f : BitVec 5) : (s.raiseFp f).time = s.time := rfl
@[simp] theorem State.raiseFp_admSeq (s : State) (f : BitVec 5) : (s.raiseFp f).admSeq = s.admSeq := rfl
@[simp] theorem State.raiseFp_issuing (s : State) (f : BitVec 5) : (s.raiseFp f).issuing = s.issuing := rfl
@[simp] theorem State.raiseFp_picks (s : State) (f : BitVec 5) : (s.raiseFp f).picks = s.picks := rfl
@[simp] theorem State.raiseFp_agenda (s : State) (f : BitVec 5) : (s.raiseFp f).agenda = s.agenda := rfl
@[simp] theorem State.raiseFp_acts (s : State) (f : BitVec 5) : (s.raiseFp f).acts = s.acts := rfl
@[simp] theorem State.raiseFp_defer (s : State) (f : BitVec 5) : (s.raiseFp f).defer = s.defer := rfl
@[simp] theorem State.raiseFp_late (s : State) (f : BitVec 5) : (s.raiseFp f).late = s.late := rfl
@[simp] theorem State.raiseFp_nextId (s : State) (f : BitVec 5) : (s.raiseFp f).nextId = s.nextId := rfl
@[simp] theorem State.raiseFp_freeCtr (s : State) (f : BitVec 5) : (s.raiseFp f).freeCtr = s.freeCtr := rfl

/-! ### setCapture -/

@[simp] theorem State.setCapture_gangs (s : State) (t : DWord) : (s.setCapture t).gangs = s.gangs := rfl
@[simp] theorem State.setCapture_crews (s : State) (t : DWord) : (s.setCapture t).crews = s.crews := rfl
@[simp] theorem State.setCapture_launches (s : State) (t : DWord) : (s.setCapture t).launches = s.launches := rfl
@[simp] theorem State.setCapture_replays (s : State) (t : DWord) : (s.setCapture t).replays = s.replays := rfl
@[simp] theorem State.setCapture_mem (s : State) (t : DWord) : (s.setCapture t).mem = s.mem := rfl
@[simp] theorem State.setCapture_labels (s : State) (t : DWord) : (s.setCapture t).labels = s.labels := rfl
@[simp] theorem State.setCapture_labelPoison (s : State) (t : DWord) : (s.setCapture t).labelPoison = s.labelPoison := rfl
@[simp] theorem State.setCapture_quiesces (s : State) (t : DWord) : (s.setCapture t).quiesces = s.quiesces := rfl
@[simp] theorem State.setCapture_withdrawals (s : State) (t : DWord) : (s.setCapture t).withdrawals = s.withdrawals := rfl
@[simp] theorem State.setCapture_ops (s : State) (t : DWord) : (s.setCapture t).ops = s.ops := rfl
@[simp] theorem State.setCapture_wq (s : State) (t : DWord) : (s.setCapture t).wq = s.wq := rfl
@[simp] theorem State.setCapture_records (s : State) (t : DWord) : (s.setCapture t).records = s.records := rfl
@[simp] theorem State.setCapture_ifaces (s : State) (t : DWord) : (s.setCapture t).ifaces = s.ifaces := rfl
@[simp] theorem State.setCapture_queues (s : State) (t : DWord) : (s.setCapture t).queues = s.queues := rfl
@[simp] theorem State.setCapture_regs (s : State) (t : DWord) : (s.setCapture t).regs = s.regs := rfl
@[simp] theorem State.setCapture_pkg (s : State) (t : DWord) : (s.setCapture t).pkg = s.pkg := rfl
@[simp] theorem State.setCapture_fab (s : State) (t : DWord) : (s.setCapture t).fab = s.fab := rfl
@[simp] theorem State.setCapture_rc (s : State) (t : DWord) : (s.setCapture t).rc = s.rc := rfl
@[simp] theorem State.setCapture_pw (s : State) (t : DWord) : (s.setCapture t).pw = s.pw := rfl
@[simp] theorem State.setCapture_nvm (s : State) (t : DWord) : (s.setCapture t).nvm = s.nvm := rfl
@[simp] theorem State.setCapture_time (s : State) (t : DWord) : (s.setCapture t).time = s.time := rfl
@[simp] theorem State.setCapture_admSeq (s : State) (t : DWord) : (s.setCapture t).admSeq = s.admSeq := rfl
@[simp] theorem State.setCapture_issuing (s : State) (t : DWord) : (s.setCapture t).issuing = s.issuing := rfl
@[simp] theorem State.setCapture_picks (s : State) (t : DWord) : (s.setCapture t).picks = s.picks := rfl
@[simp] theorem State.setCapture_agenda (s : State) (t : DWord) : (s.setCapture t).agenda = s.agenda := rfl
@[simp] theorem State.setCapture_acts (s : State) (t : DWord) : (s.setCapture t).acts = s.acts := rfl
@[simp] theorem State.setCapture_defer (s : State) (t : DWord) : (s.setCapture t).defer = s.defer := rfl
@[simp] theorem State.setCapture_late (s : State) (t : DWord) : (s.setCapture t).late = s.late := rfl
@[simp] theorem State.setCapture_nextId (s : State) (t : DWord) : (s.setCapture t).nextId = s.nextId := rfl
@[simp] theorem State.setCapture_freeCtr (s : State) (t : DWord) : (s.setCapture t).freeCtr = s.freeCtr := rfl

/-! ### atSwitch -/

@[simp] theorem State.atSwitch_gangs (s : State) : (s.atSwitch).gangs = s.gangs := rfl
@[simp] theorem State.atSwitch_crews (s : State) : (s.atSwitch).crews = s.crews := rfl
@[simp] theorem State.atSwitch_launches (s : State) : (s.atSwitch).launches = s.launches := rfl
@[simp] theorem State.atSwitch_replays (s : State) : (s.atSwitch).replays = s.replays := rfl
@[simp] theorem State.atSwitch_mem (s : State) : (s.atSwitch).mem = s.mem := rfl
@[simp] theorem State.atSwitch_labels (s : State) : (s.atSwitch).labels = s.labels := rfl
@[simp] theorem State.atSwitch_labelPoison (s : State) : (s.atSwitch).labelPoison = s.labelPoison := rfl
@[simp] theorem State.atSwitch_quiesces (s : State) : (s.atSwitch).quiesces = s.quiesces := rfl
@[simp] theorem State.atSwitch_withdrawals (s : State) : (s.atSwitch).withdrawals = s.withdrawals := rfl
@[simp] theorem State.atSwitch_ops (s : State) : (s.atSwitch).ops = s.ops := rfl
@[simp] theorem State.atSwitch_wq (s : State) : (s.atSwitch).wq = s.wq := rfl
@[simp] theorem State.atSwitch_records (s : State) : (s.atSwitch).records = s.records := rfl
@[simp] theorem State.atSwitch_ifaces (s : State) : (s.atSwitch).ifaces = s.ifaces := rfl
@[simp] theorem State.atSwitch_queues (s : State) : (s.atSwitch).queues = s.queues := rfl
@[simp] theorem State.atSwitch_regs (s : State) : (s.atSwitch).regs = s.regs := rfl
@[simp] theorem State.atSwitch_pkg (s : State) : (s.atSwitch).pkg = s.pkg := rfl
@[simp] theorem State.atSwitch_fab (s : State) : (s.atSwitch).fab = s.fab := rfl
@[simp] theorem State.atSwitch_rc (s : State) : (s.atSwitch).rc = s.rc := rfl
@[simp] theorem State.atSwitch_pw (s : State) : (s.atSwitch).pw = s.pw := rfl
@[simp] theorem State.atSwitch_nvm (s : State) : (s.atSwitch).nvm = s.nvm := rfl
@[simp] theorem State.atSwitch_time (s : State) : (s.atSwitch).time = s.time := rfl
@[simp] theorem State.atSwitch_admSeq (s : State) : (s.atSwitch).admSeq = s.admSeq := rfl
@[simp] theorem State.atSwitch_issuing (s : State) : (s.atSwitch).issuing = s.issuing := rfl
@[simp] theorem State.atSwitch_picks (s : State) : (s.atSwitch).picks = s.picks := rfl
@[simp] theorem State.atSwitch_agenda (s : State) : (s.atSwitch).agenda = s.agenda := rfl
@[simp] theorem State.atSwitch_acts (s : State) : (s.atSwitch).acts = s.acts := rfl
@[simp] theorem State.atSwitch_defer (s : State) : (s.atSwitch).defer = s.defer := rfl
@[simp] theorem State.atSwitch_late (s : State) : (s.atSwitch).late = s.late := rfl
@[simp] theorem State.atSwitch_nextId (s : State) : (s.atSwitch).nextId = s.nextId := rfl
@[simp] theorem State.atSwitch_freeCtr (s : State) : (s.atSwitch).freeCtr = s.freeCtr := rfl

/-! ### modCrew -/

@[simp] theorem State.modCrew_g (s : State) (r : CrewRef) (f : Crew → Crew) : (s.modCrew r f).g = s.g := rfl
@[simp] theorem State.modCrew_gangs (s : State) (r : CrewRef) (f : Crew → Crew) : (s.modCrew r f).gangs = s.gangs := rfl
@[simp] theorem State.modCrew_launches (s : State) (r : CrewRef) (f : Crew → Crew) : (s.modCrew r f).launches = s.launches := rfl
@[simp] theorem State.modCrew_replays (s : State) (r : CrewRef) (f : Crew → Crew) : (s.modCrew r f).replays = s.replays := rfl
@[simp] theorem State.modCrew_mem (s : State) (r : CrewRef) (f : Crew → Crew) : (s.modCrew r f).mem = s.mem := rfl
@[simp] theorem State.modCrew_labels (s : State) (r : CrewRef) (f : Crew → Crew) : (s.modCrew r f).labels = s.labels := rfl
@[simp] theorem State.modCrew_labelPoison (s : State) (r : CrewRef) (f : Crew → Crew) : (s.modCrew r f).labelPoison = s.labelPoison := rfl
@[simp] theorem State.modCrew_quiesces (s : State) (r : CrewRef) (f : Crew → Crew) : (s.modCrew r f).quiesces = s.quiesces := rfl
@[simp] theorem State.modCrew_withdrawals (s : State) (r : CrewRef) (f : Crew → Crew) : (s.modCrew r f).withdrawals = s.withdrawals := rfl
@[simp] theorem State.modCrew_ops (s : State) (r : CrewRef) (f : Crew → Crew) : (s.modCrew r f).ops = s.ops := rfl
@[simp] theorem State.modCrew_wq (s : State) (r : CrewRef) (f : Crew → Crew) : (s.modCrew r f).wq = s.wq := rfl
@[simp] theorem State.modCrew_records (s : State) (r : CrewRef) (f : Crew → Crew) : (s.modCrew r f).records = s.records := rfl
@[simp] theorem State.modCrew_ifaces (s : State) (r : CrewRef) (f : Crew → Crew) : (s.modCrew r f).ifaces = s.ifaces := rfl
@[simp] theorem State.modCrew_queues (s : State) (r : CrewRef) (f : Crew → Crew) : (s.modCrew r f).queues = s.queues := rfl
@[simp] theorem State.modCrew_regs (s : State) (r : CrewRef) (f : Crew → Crew) : (s.modCrew r f).regs = s.regs := rfl
@[simp] theorem State.modCrew_pkg (s : State) (r : CrewRef) (f : Crew → Crew) : (s.modCrew r f).pkg = s.pkg := rfl
@[simp] theorem State.modCrew_fab (s : State) (r : CrewRef) (f : Crew → Crew) : (s.modCrew r f).fab = s.fab := rfl
@[simp] theorem State.modCrew_rc (s : State) (r : CrewRef) (f : Crew → Crew) : (s.modCrew r f).rc = s.rc := rfl
@[simp] theorem State.modCrew_pw (s : State) (r : CrewRef) (f : Crew → Crew) : (s.modCrew r f).pw = s.pw := rfl
@[simp] theorem State.modCrew_nvm (s : State) (r : CrewRef) (f : Crew → Crew) : (s.modCrew r f).nvm = s.nvm := rfl
@[simp] theorem State.modCrew_time (s : State) (r : CrewRef) (f : Crew → Crew) : (s.modCrew r f).time = s.time := rfl
@[simp] theorem State.modCrew_admSeq (s : State) (r : CrewRef) (f : Crew → Crew) : (s.modCrew r f).admSeq = s.admSeq := rfl
@[simp] theorem State.modCrew_issuing (s : State) (r : CrewRef) (f : Crew → Crew) : (s.modCrew r f).issuing = s.issuing := rfl
@[simp] theorem State.modCrew_picks (s : State) (r : CrewRef) (f : Crew → Crew) : (s.modCrew r f).picks = s.picks := rfl
@[simp] theorem State.modCrew_agenda (s : State) (r : CrewRef) (f : Crew → Crew) : (s.modCrew r f).agenda = s.agenda := rfl
@[simp] theorem State.modCrew_acts (s : State) (r : CrewRef) (f : Crew → Crew) : (s.modCrew r f).acts = s.acts := rfl
@[simp] theorem State.modCrew_defer (s : State) (r : CrewRef) (f : Crew → Crew) : (s.modCrew r f).defer = s.defer := rfl
@[simp] theorem State.modCrew_late (s : State) (r : CrewRef) (f : Crew → Crew) : (s.modCrew r f).late = s.late := rfl
@[simp] theorem State.modCrew_nextId (s : State) (r : CrewRef) (f : Crew → Crew) : (s.modCrew r f).nextId = s.nextId := rfl
@[simp] theorem State.modCrew_freeCtr (s : State) (r : CrewRef) (f : Crew → Crew) : (s.modCrew r f).freeCtr = s.freeCtr := rfl

/-! ### modLaunch -/

@[simp] theorem State.modLaunch_g (s : State) (n : Nat) (f : Launch → Launch) : (s.modLaunch n f).g = s.g := rfl
@[simp] theorem State.modLaunch_gangs (s : State) (n : Nat) (f : Launch → Launch) : (s.modLaunch n f).gangs = s.gangs := rfl
@[simp] theorem State.modLaunch_crews (s : State) (n : Nat) (f : Launch → Launch) : (s.modLaunch n f).crews = s.crews := rfl
@[simp] theorem State.modLaunch_replays (s : State) (n : Nat) (f : Launch → Launch) : (s.modLaunch n f).replays = s.replays := rfl
@[simp] theorem State.modLaunch_mem (s : State) (n : Nat) (f : Launch → Launch) : (s.modLaunch n f).mem = s.mem := rfl
@[simp] theorem State.modLaunch_labels (s : State) (n : Nat) (f : Launch → Launch) : (s.modLaunch n f).labels = s.labels := rfl
@[simp] theorem State.modLaunch_labelPoison (s : State) (n : Nat) (f : Launch → Launch) : (s.modLaunch n f).labelPoison = s.labelPoison := rfl
@[simp] theorem State.modLaunch_quiesces (s : State) (n : Nat) (f : Launch → Launch) : (s.modLaunch n f).quiesces = s.quiesces := rfl
@[simp] theorem State.modLaunch_withdrawals (s : State) (n : Nat) (f : Launch → Launch) : (s.modLaunch n f).withdrawals = s.withdrawals := rfl
@[simp] theorem State.modLaunch_ops (s : State) (n : Nat) (f : Launch → Launch) : (s.modLaunch n f).ops = s.ops := rfl
@[simp] theorem State.modLaunch_wq (s : State) (n : Nat) (f : Launch → Launch) : (s.modLaunch n f).wq = s.wq := rfl
@[simp] theorem State.modLaunch_records (s : State) (n : Nat) (f : Launch → Launch) : (s.modLaunch n f).records = s.records := rfl
@[simp] theorem State.modLaunch_ifaces (s : State) (n : Nat) (f : Launch → Launch) : (s.modLaunch n f).ifaces = s.ifaces := rfl
@[simp] theorem State.modLaunch_queues (s : State) (n : Nat) (f : Launch → Launch) : (s.modLaunch n f).queues = s.queues := rfl
@[simp] theorem State.modLaunch_regs (s : State) (n : Nat) (f : Launch → Launch) : (s.modLaunch n f).regs = s.regs := rfl
@[simp] theorem State.modLaunch_pkg (s : State) (n : Nat) (f : Launch → Launch) : (s.modLaunch n f).pkg = s.pkg := rfl
@[simp] theorem State.modLaunch_fab (s : State) (n : Nat) (f : Launch → Launch) : (s.modLaunch n f).fab = s.fab := rfl
@[simp] theorem State.modLaunch_rc (s : State) (n : Nat) (f : Launch → Launch) : (s.modLaunch n f).rc = s.rc := rfl
@[simp] theorem State.modLaunch_pw (s : State) (n : Nat) (f : Launch → Launch) : (s.modLaunch n f).pw = s.pw := rfl
@[simp] theorem State.modLaunch_nvm (s : State) (n : Nat) (f : Launch → Launch) : (s.modLaunch n f).nvm = s.nvm := rfl
@[simp] theorem State.modLaunch_time (s : State) (n : Nat) (f : Launch → Launch) : (s.modLaunch n f).time = s.time := rfl
@[simp] theorem State.modLaunch_admSeq (s : State) (n : Nat) (f : Launch → Launch) : (s.modLaunch n f).admSeq = s.admSeq := rfl
@[simp] theorem State.modLaunch_issuing (s : State) (n : Nat) (f : Launch → Launch) : (s.modLaunch n f).issuing = s.issuing := rfl
@[simp] theorem State.modLaunch_picks (s : State) (n : Nat) (f : Launch → Launch) : (s.modLaunch n f).picks = s.picks := rfl
@[simp] theorem State.modLaunch_agenda (s : State) (n : Nat) (f : Launch → Launch) : (s.modLaunch n f).agenda = s.agenda := rfl
@[simp] theorem State.modLaunch_acts (s : State) (n : Nat) (f : Launch → Launch) : (s.modLaunch n f).acts = s.acts := rfl
@[simp] theorem State.modLaunch_defer (s : State) (n : Nat) (f : Launch → Launch) : (s.modLaunch n f).defer = s.defer := rfl
@[simp] theorem State.modLaunch_late (s : State) (n : Nat) (f : Launch → Launch) : (s.modLaunch n f).late = s.late := rfl
@[simp] theorem State.modLaunch_nextId (s : State) (n : Nat) (f : Launch → Launch) : (s.modLaunch n f).nextId = s.nextId := rfl
@[simp] theorem State.modLaunch_freeCtr (s : State) (n : Nat) (f : Launch → Launch) : (s.modLaunch n f).freeCtr = s.freeCtr := rfl

/-! ### setIfc -/

@[simp] theorem State.setIfc_g (s : State) (n : Nat) (i : Iface) : (s.setIfc n i).g = s.g := rfl
@[simp] theorem State.setIfc_gangs (s : State) (n : Nat) (i : Iface) : (s.setIfc n i).gangs = s.gangs := rfl
@[simp] theorem State.setIfc_crews (s : State) (n : Nat) (i : Iface) : (s.setIfc n i).crews = s.crews := rfl
@[simp] theorem State.setIfc_launches (s : State) (n : Nat) (i : Iface) : (s.setIfc n i).launches = s.launches := rfl
@[simp] theorem State.setIfc_replays (s : State) (n : Nat) (i : Iface) : (s.setIfc n i).replays = s.replays := rfl
@[simp] theorem State.setIfc_mem (s : State) (n : Nat) (i : Iface) : (s.setIfc n i).mem = s.mem := rfl
@[simp] theorem State.setIfc_labels (s : State) (n : Nat) (i : Iface) : (s.setIfc n i).labels = s.labels := rfl
@[simp] theorem State.setIfc_labelPoison (s : State) (n : Nat) (i : Iface) : (s.setIfc n i).labelPoison = s.labelPoison := rfl
@[simp] theorem State.setIfc_quiesces (s : State) (n : Nat) (i : Iface) : (s.setIfc n i).quiesces = s.quiesces := rfl
@[simp] theorem State.setIfc_withdrawals (s : State) (n : Nat) (i : Iface) : (s.setIfc n i).withdrawals = s.withdrawals := rfl
@[simp] theorem State.setIfc_ops (s : State) (n : Nat) (i : Iface) : (s.setIfc n i).ops = s.ops := rfl
@[simp] theorem State.setIfc_wq (s : State) (n : Nat) (i : Iface) : (s.setIfc n i).wq = s.wq := rfl
@[simp] theorem State.setIfc_records (s : State) (n : Nat) (i : Iface) : (s.setIfc n i).records = s.records := rfl
@[simp] theorem State.setIfc_queues (s : State) (n : Nat) (i : Iface) : (s.setIfc n i).queues = s.queues := rfl
@[simp] theorem State.setIfc_regs (s : State) (n : Nat) (i : Iface) : (s.setIfc n i).regs = s.regs := rfl
@[simp] theorem State.setIfc_pkg (s : State) (n : Nat) (i : Iface) : (s.setIfc n i).pkg = s.pkg := rfl
@[simp] theorem State.setIfc_fab (s : State) (n : Nat) (i : Iface) : (s.setIfc n i).fab = s.fab := rfl
@[simp] theorem State.setIfc_rc (s : State) (n : Nat) (i : Iface) : (s.setIfc n i).rc = s.rc := rfl
@[simp] theorem State.setIfc_pw (s : State) (n : Nat) (i : Iface) : (s.setIfc n i).pw = s.pw := rfl
@[simp] theorem State.setIfc_nvm (s : State) (n : Nat) (i : Iface) : (s.setIfc n i).nvm = s.nvm := rfl
@[simp] theorem State.setIfc_time (s : State) (n : Nat) (i : Iface) : (s.setIfc n i).time = s.time := rfl
@[simp] theorem State.setIfc_admSeq (s : State) (n : Nat) (i : Iface) : (s.setIfc n i).admSeq = s.admSeq := rfl
@[simp] theorem State.setIfc_issuing (s : State) (n : Nat) (i : Iface) : (s.setIfc n i).issuing = s.issuing := rfl
@[simp] theorem State.setIfc_picks (s : State) (n : Nat) (i : Iface) : (s.setIfc n i).picks = s.picks := rfl
@[simp] theorem State.setIfc_agenda (s : State) (n : Nat) (i : Iface) : (s.setIfc n i).agenda = s.agenda := rfl
@[simp] theorem State.setIfc_acts (s : State) (n : Nat) (i : Iface) : (s.setIfc n i).acts = s.acts := rfl
@[simp] theorem State.setIfc_defer (s : State) (n : Nat) (i : Iface) : (s.setIfc n i).defer = s.defer := rfl
@[simp] theorem State.setIfc_late (s : State) (n : Nat) (i : Iface) : (s.setIfc n i).late = s.late := rfl
@[simp] theorem State.setIfc_nextId (s : State) (n : Nat) (i : Iface) : (s.setIfc n i).nextId = s.nextId := rfl
@[simp] theorem State.setIfc_freeCtr (s : State) (n : Nat) (i : Iface) : (s.setIfc n i).freeCtr = s.freeCtr := rfl

/-! ### setReg -/

@[simp] theorem State.setReg_g (s : State) (i o : Nat) (v : DWord) : (s.setReg i o v).g = s.g := rfl
@[simp] theorem State.setReg_gangs (s : State) (i o : Nat) (v : DWord) : (s.setReg i o v).gangs = s.gangs := rfl
@[simp] theorem State.setReg_crews (s : State) (i o : Nat) (v : DWord) : (s.setReg i o v).crews = s.crews := rfl
@[simp] theorem State.setReg_launches (s : State) (i o : Nat) (v : DWord) : (s.setReg i o v).launches = s.launches := rfl
@[simp] theorem State.setReg_replays (s : State) (i o : Nat) (v : DWord) : (s.setReg i o v).replays = s.replays := rfl
@[simp] theorem State.setReg_mem (s : State) (i o : Nat) (v : DWord) : (s.setReg i o v).mem = s.mem := rfl
@[simp] theorem State.setReg_labels (s : State) (i o : Nat) (v : DWord) : (s.setReg i o v).labels = s.labels := rfl
@[simp] theorem State.setReg_labelPoison (s : State) (i o : Nat) (v : DWord) : (s.setReg i o v).labelPoison = s.labelPoison := rfl
@[simp] theorem State.setReg_quiesces (s : State) (i o : Nat) (v : DWord) : (s.setReg i o v).quiesces = s.quiesces := rfl
@[simp] theorem State.setReg_withdrawals (s : State) (i o : Nat) (v : DWord) : (s.setReg i o v).withdrawals = s.withdrawals := rfl
@[simp] theorem State.setReg_ops (s : State) (i o : Nat) (v : DWord) : (s.setReg i o v).ops = s.ops := rfl
@[simp] theorem State.setReg_wq (s : State) (i o : Nat) (v : DWord) : (s.setReg i o v).wq = s.wq := rfl
@[simp] theorem State.setReg_records (s : State) (i o : Nat) (v : DWord) : (s.setReg i o v).records = s.records := rfl
@[simp] theorem State.setReg_ifaces (s : State) (i o : Nat) (v : DWord) : (s.setReg i o v).ifaces = s.ifaces := rfl
@[simp] theorem State.setReg_queues (s : State) (i o : Nat) (v : DWord) : (s.setReg i o v).queues = s.queues := rfl
@[simp] theorem State.setReg_pkg (s : State) (i o : Nat) (v : DWord) : (s.setReg i o v).pkg = s.pkg := rfl
@[simp] theorem State.setReg_fab (s : State) (i o : Nat) (v : DWord) : (s.setReg i o v).fab = s.fab := rfl
@[simp] theorem State.setReg_rc (s : State) (i o : Nat) (v : DWord) : (s.setReg i o v).rc = s.rc := rfl
@[simp] theorem State.setReg_pw (s : State) (i o : Nat) (v : DWord) : (s.setReg i o v).pw = s.pw := rfl
@[simp] theorem State.setReg_nvm (s : State) (i o : Nat) (v : DWord) : (s.setReg i o v).nvm = s.nvm := rfl
@[simp] theorem State.setReg_time (s : State) (i o : Nat) (v : DWord) : (s.setReg i o v).time = s.time := rfl
@[simp] theorem State.setReg_admSeq (s : State) (i o : Nat) (v : DWord) : (s.setReg i o v).admSeq = s.admSeq := rfl
@[simp] theorem State.setReg_issuing (s : State) (i o : Nat) (v : DWord) : (s.setReg i o v).issuing = s.issuing := rfl
@[simp] theorem State.setReg_picks (s : State) (i o : Nat) (v : DWord) : (s.setReg i o v).picks = s.picks := rfl
@[simp] theorem State.setReg_agenda (s : State) (i o : Nat) (v : DWord) : (s.setReg i o v).agenda = s.agenda := rfl
@[simp] theorem State.setReg_acts (s : State) (i o : Nat) (v : DWord) : (s.setReg i o v).acts = s.acts := rfl
@[simp] theorem State.setReg_defer (s : State) (i o : Nat) (v : DWord) : (s.setReg i o v).defer = s.defer := rfl
@[simp] theorem State.setReg_late (s : State) (i o : Nat) (v : DWord) : (s.setReg i o v).late = s.late := rfl
@[simp] theorem State.setReg_nextId (s : State) (i o : Nat) (v : DWord) : (s.setReg i o v).nextId = s.nextId := rfl
@[simp] theorem State.setReg_freeCtr (s : State) (i o : Nat) (v : DWord) : (s.setReg i o v).freeCtr = s.freeCtr := rfl

/-! ### setQueue -/

@[simp] theorem State.setQueue_g (s : State) (i q : Nat) (v : Queue) : (s.setQueue i q v).g = s.g := rfl
@[simp] theorem State.setQueue_gangs (s : State) (i q : Nat) (v : Queue) : (s.setQueue i q v).gangs = s.gangs := rfl
@[simp] theorem State.setQueue_crews (s : State) (i q : Nat) (v : Queue) : (s.setQueue i q v).crews = s.crews := rfl
@[simp] theorem State.setQueue_launches (s : State) (i q : Nat) (v : Queue) : (s.setQueue i q v).launches = s.launches := rfl
@[simp] theorem State.setQueue_replays (s : State) (i q : Nat) (v : Queue) : (s.setQueue i q v).replays = s.replays := rfl
@[simp] theorem State.setQueue_mem (s : State) (i q : Nat) (v : Queue) : (s.setQueue i q v).mem = s.mem := rfl
@[simp] theorem State.setQueue_labels (s : State) (i q : Nat) (v : Queue) : (s.setQueue i q v).labels = s.labels := rfl
@[simp] theorem State.setQueue_labelPoison (s : State) (i q : Nat) (v : Queue) : (s.setQueue i q v).labelPoison = s.labelPoison := rfl
@[simp] theorem State.setQueue_quiesces (s : State) (i q : Nat) (v : Queue) : (s.setQueue i q v).quiesces = s.quiesces := rfl
@[simp] theorem State.setQueue_withdrawals (s : State) (i q : Nat) (v : Queue) : (s.setQueue i q v).withdrawals = s.withdrawals := rfl
@[simp] theorem State.setQueue_ops (s : State) (i q : Nat) (v : Queue) : (s.setQueue i q v).ops = s.ops := rfl
@[simp] theorem State.setQueue_wq (s : State) (i q : Nat) (v : Queue) : (s.setQueue i q v).wq = s.wq := rfl
@[simp] theorem State.setQueue_records (s : State) (i q : Nat) (v : Queue) : (s.setQueue i q v).records = s.records := rfl
@[simp] theorem State.setQueue_ifaces (s : State) (i q : Nat) (v : Queue) : (s.setQueue i q v).ifaces = s.ifaces := rfl
@[simp] theorem State.setQueue_regs (s : State) (i q : Nat) (v : Queue) : (s.setQueue i q v).regs = s.regs := rfl
@[simp] theorem State.setQueue_pkg (s : State) (i q : Nat) (v : Queue) : (s.setQueue i q v).pkg = s.pkg := rfl
@[simp] theorem State.setQueue_fab (s : State) (i q : Nat) (v : Queue) : (s.setQueue i q v).fab = s.fab := rfl
@[simp] theorem State.setQueue_rc (s : State) (i q : Nat) (v : Queue) : (s.setQueue i q v).rc = s.rc := rfl
@[simp] theorem State.setQueue_pw (s : State) (i q : Nat) (v : Queue) : (s.setQueue i q v).pw = s.pw := rfl
@[simp] theorem State.setQueue_nvm (s : State) (i q : Nat) (v : Queue) : (s.setQueue i q v).nvm = s.nvm := rfl
@[simp] theorem State.setQueue_time (s : State) (i q : Nat) (v : Queue) : (s.setQueue i q v).time = s.time := rfl
@[simp] theorem State.setQueue_admSeq (s : State) (i q : Nat) (v : Queue) : (s.setQueue i q v).admSeq = s.admSeq := rfl
@[simp] theorem State.setQueue_issuing (s : State) (i q : Nat) (v : Queue) : (s.setQueue i q v).issuing = s.issuing := rfl
@[simp] theorem State.setQueue_picks (s : State) (i q : Nat) (v : Queue) : (s.setQueue i q v).picks = s.picks := rfl
@[simp] theorem State.setQueue_agenda (s : State) (i q : Nat) (v : Queue) : (s.setQueue i q v).agenda = s.agenda := rfl
@[simp] theorem State.setQueue_acts (s : State) (i q : Nat) (v : Queue) : (s.setQueue i q v).acts = s.acts := rfl
@[simp] theorem State.setQueue_defer (s : State) (i q : Nat) (v : Queue) : (s.setQueue i q v).defer = s.defer := rfl
@[simp] theorem State.setQueue_late (s : State) (i q : Nat) (v : Queue) : (s.setQueue i q v).late = s.late := rfl
@[simp] theorem State.setQueue_nextId (s : State) (i q : Nat) (v : Queue) : (s.setQueue i q v).nextId = s.nextId := rfl
@[simp] theorem State.setQueue_freeCtr (s : State) (i q : Nat) (v : Queue) : (s.setQueue i q v).freeCtr = s.freeCtr := rfl

/-! ### setEntry -/

@[simp] theorem State.setEntry_g (s : State) (k : EntryKey) (e : LabelEntry) : (s.setEntry k e).g = s.g := rfl
@[simp] theorem State.setEntry_gangs (s : State) (k : EntryKey) (e : LabelEntry) : (s.setEntry k e).gangs = s.gangs := rfl
@[simp] theorem State.setEntry_crews (s : State) (k : EntryKey) (e : LabelEntry) : (s.setEntry k e).crews = s.crews := rfl
@[simp] theorem State.setEntry_launches (s : State) (k : EntryKey) (e : LabelEntry) : (s.setEntry k e).launches = s.launches := rfl
@[simp] theorem State.setEntry_replays (s : State) (k : EntryKey) (e : LabelEntry) : (s.setEntry k e).replays = s.replays := rfl
@[simp] theorem State.setEntry_mem (s : State) (k : EntryKey) (e : LabelEntry) : (s.setEntry k e).mem = s.mem := rfl
@[simp] theorem State.setEntry_quiesces (s : State) (k : EntryKey) (e : LabelEntry) : (s.setEntry k e).quiesces = s.quiesces := rfl
@[simp] theorem State.setEntry_withdrawals (s : State) (k : EntryKey) (e : LabelEntry) : (s.setEntry k e).withdrawals = s.withdrawals := rfl
@[simp] theorem State.setEntry_ops (s : State) (k : EntryKey) (e : LabelEntry) : (s.setEntry k e).ops = s.ops := rfl
@[simp] theorem State.setEntry_wq (s : State) (k : EntryKey) (e : LabelEntry) : (s.setEntry k e).wq = s.wq := rfl
@[simp] theorem State.setEntry_records (s : State) (k : EntryKey) (e : LabelEntry) : (s.setEntry k e).records = s.records := rfl
@[simp] theorem State.setEntry_ifaces (s : State) (k : EntryKey) (e : LabelEntry) : (s.setEntry k e).ifaces = s.ifaces := rfl
@[simp] theorem State.setEntry_queues (s : State) (k : EntryKey) (e : LabelEntry) : (s.setEntry k e).queues = s.queues := rfl
@[simp] theorem State.setEntry_regs (s : State) (k : EntryKey) (e : LabelEntry) : (s.setEntry k e).regs = s.regs := rfl
@[simp] theorem State.setEntry_pkg (s : State) (k : EntryKey) (e : LabelEntry) : (s.setEntry k e).pkg = s.pkg := rfl
@[simp] theorem State.setEntry_fab (s : State) (k : EntryKey) (e : LabelEntry) : (s.setEntry k e).fab = s.fab := rfl
@[simp] theorem State.setEntry_rc (s : State) (k : EntryKey) (e : LabelEntry) : (s.setEntry k e).rc = s.rc := rfl
@[simp] theorem State.setEntry_pw (s : State) (k : EntryKey) (e : LabelEntry) : (s.setEntry k e).pw = s.pw := rfl
@[simp] theorem State.setEntry_nvm (s : State) (k : EntryKey) (e : LabelEntry) : (s.setEntry k e).nvm = s.nvm := rfl
@[simp] theorem State.setEntry_time (s : State) (k : EntryKey) (e : LabelEntry) : (s.setEntry k e).time = s.time := rfl
@[simp] theorem State.setEntry_admSeq (s : State) (k : EntryKey) (e : LabelEntry) : (s.setEntry k e).admSeq = s.admSeq := rfl
@[simp] theorem State.setEntry_issuing (s : State) (k : EntryKey) (e : LabelEntry) : (s.setEntry k e).issuing = s.issuing := rfl
@[simp] theorem State.setEntry_picks (s : State) (k : EntryKey) (e : LabelEntry) : (s.setEntry k e).picks = s.picks := rfl
@[simp] theorem State.setEntry_agenda (s : State) (k : EntryKey) (e : LabelEntry) : (s.setEntry k e).agenda = s.agenda := rfl
@[simp] theorem State.setEntry_acts (s : State) (k : EntryKey) (e : LabelEntry) : (s.setEntry k e).acts = s.acts := rfl
@[simp] theorem State.setEntry_defer (s : State) (k : EntryKey) (e : LabelEntry) : (s.setEntry k e).defer = s.defer := rfl
@[simp] theorem State.setEntry_late (s : State) (k : EntryKey) (e : LabelEntry) : (s.setEntry k e).late = s.late := rfl
@[simp] theorem State.setEntry_nextId (s : State) (k : EntryKey) (e : LabelEntry) : (s.setEntry k e).nextId = s.nextId := rfl
@[simp] theorem State.setEntry_freeCtr (s : State) (k : EntryKey) (e : LabelEntry) : (s.setEntry k e).freeCtr = s.freeCtr := rfl

/-! ### The gang under each update -/

@[simp] theorem State.modG_g (s : State) (f : Gang → Gang) : (s.modG f).g = f s.g := rfl

@[simp] theorem State.wr_rd (s : State) (d r : SReg) (v : Word) :
    (s.wr d v).rd r = if r = 0#6 then 0#32 else if r = d then storedWord s.g.la.live d v else s.rd r := by
  simp only [State.rd, State.wr, State.modG, Gang.rd, Scalars.rd, Gang.wr]
  split
  · rfl
  · rename_i hr
    by_cases hd : d = 0#6
    · subst hd
      simp [hr]
    · simp only [hd, if_false]
      by_cases h : r = d
      · subst h; simp
      · have hn : d.toNat ≠ r.toNat := fun e => h (BitVec.eq_of_toNat_eq e.symm)
        simp [h, hn]

@[simp] theorem State.advance_rd (s : State) (n : Nat) (r : SReg) : (s.advance n).rd r = s.rd r := rfl
@[simp] theorem State.setPc_rd (s : State) (v : DWord) (r : SReg) : (s.setPc v).rd r = s.rd r := rfl
@[simp] theorem State.modBoard_rd (s : State) (f : Board → Board) (r : SReg) : (s.modBoard f).rd r = s.rd r := rfl
@[simp] theorem State.atSwitch_rd (s : State) (r : SReg) : s.atSwitch.rd r = s.rd r := rfl
@[simp] theorem State.setCond_rd (s : State) (c : CReg) (v : Bool) (r : SReg) : (s.setCond c v).rd r = s.rd r := rfl
@[simp] theorem State.setDivZero_rd (s : State) (r : SReg) : s.setDivZero.rd r = s.rd r := rfl
@[simp] theorem State.raiseFp_rd (s : State) (f : BitVec 5) (r : SReg) : (s.raiseFp f).rd r = s.rd r := rfl

/-! ### The state where an effect starts -/

@[simp] theorem State.begun_rd (s : State) (u : Uses) (r : SReg) : (s.begun u).rd r = s.rd r := by
  unfold State.begun; split <;> rfl
@[simp] theorem State.begun_rdP (s : State) (u : Uses) (p : Pair) : (s.begun u).rdP p = s.rdP p := by
  unfold State.begun; split <;> rfl
@[simp] theorem State.begun_cond (s : State) (u : Uses) (c : CReg) : (s.begun u).cond c = s.cond c := by
  unfold State.begun; split <;> rfl
@[simp] theorem State.begun_sc (s : State) (u : Uses) : (s.begun u).g.sc = s.g.sc := by
  unfold State.begun; split <;> rfl
@[simp] theorem State.begun_ref (s : State) (u : Uses) : (s.begun u).g.ref = s.g.ref := by
  unfold State.begun; split <;> rfl
@[simp] theorem State.begun_mem (s : State) (u : Uses) : (s.begun u).mem = s.mem := by
  unfold State.begun; split <;> rfl
@[simp] theorem State.begun_packet (s : State) (u : Uses) : (s.begun u).packet = s.packet := by
  unfold State.begun; split <;> rfl

/-- A plain instruction that reads no loaded register begins where it stands, but for what it reads. -/
theorem State.begun_plain (s : State) (reads writes : List RegRef) (h : reads.any (fun r => s.g.bd.marked.contains r) = false) :
    s.begun (.plain reads writes) = s.modBoard (fun b => reads.foldl Board.read b) := by
  simp only [State.begun, Uses.plain, State.isBoardWait, h, Bool.or_false, Bool.false_eq_true, if_false]

end Sys2Proof.Machine
end

