-- ==== Sys2Proof/Laws/Access.lean ====
section
/-! SUPPORT. What performing bytes at their homes does to memory (08 R481, 09 R268, 16 R395): the canonical form stays, and no
byte changes but those performed and the page-map entries used. -/

namespace Sys2Proof.Machine

/-- A fold of updates that keep a projection keeps it. -/
theorem foldl_keeps {α β γ : Type} (p : β → γ) (f : β → α → β) (h : ∀ b a, p (f b a) = p b) (l : List α) (b : β) :
    p (l.foldl f b) = p b := by
  induction l generalizing b with
  | nil => rfl
  | cons a r ih => simp only [List.foldl_cons, ih, h]

/-- A fold of updates that keep a property keeps it. -/
theorem foldl_inv {α β : Type} (p : β → Prop) (f : β → α → β) (h : ∀ b a, p b → p (f b a)) (l : List α) (b : β) (hb : p b) :
    p (l.foldl f b) := by
  induction l generalizing b with
  | nil => exact hb
  | cons a r ih => exact ih _ (h _ _ hb)

@[simp] theorem nonReplayable_mem (s : State) (n : Nat) : (s.nonReplayable n).mem = s.mem := by
  unfold State.nonReplayable
  split
  · rfl
  · split
    · rfl
    · split <;> rfl

@[simp] theorem nonReplayable_ifaces (s : State) (n : Nat) : (s.nonReplayable n).ifaces = s.ifaces := by
  unfold State.nonReplayable
  split
  · rfl
  · split
    · rfl
    · split <;> rfl

/-! ### Copies into a reserve (16 R395) -/

/-- What taking copies does from `s` to `t`: pages of the reserves in use stay in use, no byte changes outside pages that have taken a
copy, and memory keeps its canonical form. -/
structure CopiesOnly (s t : State) : Prop where
  used : ∀ i q, q ∈ (s.ifc i).reserveUsed → q ∈ (t.ifc i).reserveUsed
  get : ∀ k, ¬ s.tookCopy t k → t.mem.get k = s.mem.get k
  wf : s.mem.wf = true → t.mem.wf = true

theorem CopiesOnly.refl (s : State) : CopiesOnly s s := ⟨fun _ _ h => h, fun _ _ => rfl, fun h => h⟩

theorem CopiesOnly.trans {s t u : State} (a : CopiesOnly s t) (b : CopiesOnly t u) : CopiesOnly s u where
  used i q h := b.used i q (a.used i q h)
  get k h := by
    rw [b.get k (fun ⟨i, h1, h2⟩ => h ⟨i, h1, fun h3 => h2 (a.used i _ h3)⟩),
      a.get k (fun ⟨i, h1, h2⟩ => h ⟨i, b.used i _ h1, h2⟩)]
  wf h := b.wf (a.wf h)

/-- An update that touches neither memory nor the pages in use. -/
theorem CopiesOnly.of_same {s t : State} (m : t.mem = s.mem) (u : ∀ i, (t.ifc i).reserveUsed = (s.ifc i).reserveUsed) : CopiesOnly s t :=
  ⟨fun i q h => by rw [u]; exact h, fun k _ => by rw [m], fun h => by rw [m]; exact h⟩

theorem CopiesOnly.foldl {α : Type} (f : State → α → State) (h : ∀ s a, CopiesOnly s (f s a)) (l : List α) (s : State) :
    CopiesOnly s (l.foldl f s) := by
  induction l generalizing s with
  | nil => exact .refl s
  | cons a r ih => exact (h s a).trans (ih _)

theorem State.ifc_setIfc (s : State) (n i : Nat) (x : Iface) : (s.setIfc n x).ifc i = if i = n then x else s.ifc i := by
  simp only [State.ifc, State.setIfc, Sparse.get_put]

theorem takeReserve_copies {s : State} {i g q : Nat} (hq : q ∉ (s.ifc i).reserveUsed) : CopiesOnly s (s.takeReserve i g q) where
  used j p h := by
    have e : ((s.takeReserve i g q).ifc j).reserveUsed =
        if j = i then (s.ifc i).reserveUsed ++ [q] else (s.ifc j).reserveUsed := by
      change ((s.setIfc i _).ifc j).reserveUsed = _
      rw [State.ifc_setIfc]; split <;> rfl
    rw [e]
    split
    · subst_vars; exact List.mem_append_left _ h
    · exact h
  get k h := by
    refine Memory.copyTo_get (fun e => h ⟨i, ?_, by rw [e]; exact hq⟩)
    change k / 65536 ∈ ((s.setIfc i _).ifc i).reserveUsed
    rw [State.ifc_setIfc, if_pos rfl, e]
    exact List.mem_append_right _ (List.mem_singleton_self _)
  wf h := Memory.copyTo_wf h

/-- A page that the search finds is not in use. -/
theorem findPage_free {s : State} {iface q : Nat} : ∀ {n i : Nat}, s.findPage iface i n = some q → q ∉ (s.ifc iface).reserveUsed
  | 0, _, h => by cases h
  | n + 1, i, h => by
    unfold State.findPage at h
    split at h
    · split at h
      · exact findPage_free h
      · rename_i hc; cases h; simpa using hc
    · exact findPage_free h

/-- A page that is free is not in use. -/
theorem freePage_free {s : State} {i q : Nat} (h : s.freePage i = some q) : q ∉ (s.ifc i).reserveUsed := by
  unfold State.freePage at h
  dsimp only at h
  split at h
  · exact findPage_free h
  · cases h

theorem copyKept_copies (s : State) (g i : Nat) (k : Kept) : CopiesOnly s (s.copyKept g i k) := by
  have keep (t : State) (f : List Kept → List Kept) :
      CopiesOnly t (t.setIfc i { t.ifc i with kept := f (t.ifc i).kept }) :=
    .of_same rfl (fun j => by rw [State.ifc_setIfc]; split <;> simp_all)
  unfold State.copyKept
  split
  · exact .refl s
  · dsimp only
    split
    · rename_i q hq; exact (takeReserve_copies (freePage_free hq)).trans (keep _ _)
    · exact keep _ _

theorem Sparse.get_map {α β : Type} (d : α) (f : α → α) (p : α → β) (hp : ∀ x, p (f x) = p x) (l : List (Nat × α)) (n : Nat) :
    p (Sparse.get d (l.map (fun x => (x.1, f x.2))) n) = p (Sparse.get d l n) := by
  induction l with
  | nil => rfl
  | cons x r ih =>
    simp only [List.map_cons, Sparse.get]
    split
    · exact hp _
    · exact ih

/-- Taking the copies of a granule changes nothing of memory but the pages that take them. -/
theorem copyGranule_copies (s : State) (g : Nat) : CopiesOnly s (s.copyGranule g) := by
  unfold State.copyGranule
  extract_lets s1 s2
  have a : CopiesOnly s s1 := by
    refine .foldl _ (fun t l => ?_) _ _
    split
    · exact .refl t
    · split
      · split
        · rename_i q hq; exact (takeReserve_copies (freePage_free hq)).trans (.of_same rfl (fun _ => rfl))
        · exact .of_same (nonReplayable_mem ..) (fun i => by
            simp only [State.ifc, State.modLaunch, nonReplayable_ifaces])
      · exact .refl t
  have b : CopiesOnly s1 s2 := .of_same rfl (fun i =>
    Sparse.get_map Iface.reset (fun x => { x with kept := x.kept.map s1.shareKept }) Iface.reserveUsed (fun _ => rfl) _ i)
  exact a.trans (b.trans (.foldl _ (fun t (ki : Nat × Iface) => .foldl _ (fun u k => copyKept_copies u g ki.1 k) _ t) _ s2))

@[simp] theorem noteOld_mem (s : State) (r : GangRef) (kbs : List (Nat × Byte)) : (s.noteOld r kbs).mem = s.mem := by
  unfold State.noteOld
  split
  · rfl
  · dsimp only [State.modGang]; split <;> rfl

/-- Marking a page changes nothing but its entry's 16 bytes. -/
theorem markPage_cases (s : State) (pm : Nat) :
    s.markPage pm = s ∨ ∃ v, s.markPage pm = { s with mem := s.mem.putBytes pm (leBytes 16 v) } := by
  unfold State.markPage
  extract_lets m g m1 m2
  by_cases h : m2 = m
  · left; rw [if_pos h]
  · right; exact ⟨m2.toNat, by rw [if_neg h]⟩

theorem markPage_wf {s : State} {pm : Nat} (w : s.mem.wf = true) : (s.markPage pm).mem.wf = true := by
  rcases markPage_cases s pm with h | ⟨v, h⟩
  · rw [h]; exact w
  · rw [h]; exact Memory.putBytes_wf w

@[simp] theorem leBytes_length (n v : Nat) : (leBytes n v).length = n := by
  induction n generalizing v with
  | zero => rfl
  | succ n ih => simp [leBytes, ih]

theorem markPage_get {s : State} {pm k : Nat} (h : k < pm ∨ pm + 16 ≤ k) :
    (s.markPage pm).mem.get k = s.mem.get k := by
  rcases markPage_cases s pm with e | ⟨v, e⟩
  · rw [e]
  · rw [e]
    simp only [Memory.get_putBytes]
    split
    · rw [List.getElem?_eq_none (by rw [leBytes_length]; omega)]; rfl
    · rfl

theorem markPages_wf {s : State} {ps : List Nat} (w : s.mem.wf = true) : (ps.foldl State.markPage s).mem.wf = true :=
  foldl_inv (fun (t : State) => t.mem.wf = true) _ (fun _ _ h => markPage_wf h) _ _ w

theorem markPages_get {s : State} {ps : List Nat} {k : Nat}
    (h : ∀ pm ∈ ps, k < pm ∨ pm + 16 ≤ k) : (ps.foldl State.markPage s).mem.get k = s.mem.get k := by
  induction ps generalizing s with
  | nil => rfl
  | cons p r ih =>
    simp only [List.foldl_cons]
    rw [ih (fun q hq => h q (List.mem_cons_of_mem _ hq)), markPage_get (h p (List.mem_cons_self ..))]

@[simp] theorem markConflicts_mem (s : State) (r : GangRef) (gs : List Nat) : (s.markConflicts r gs).mem = s.mem := rfl

theorem noteOld_ifaces (s : State) (r : GangRef) (kbs : List (Nat × Byte)) : (s.noteOld r kbs).ifaces = s.ifaces := by
  unfold State.noteOld
  split
  · rfl
  · dsimp only [State.modGang]; split <;> rfl

theorem markPages_ifaces (ps : List Nat) (s : State) : (ps.foldl State.markPage s).ifaces = s.ifaces :=
  foldl_keeps State.ifaces _ (fun t pm => by rcases markPage_cases t pm with h | ⟨v, h⟩ <;> rw [h]) ps s

theorem copyGranules (gs : List Nat) (s : State) :
    CopiesOnly s (gs.foldl (fun s g => if g < 2 ^ 24 then s.copyGranule g else s) s) :=
  .foldl _ (fun t g => by split <;> first | exact copyGranule_copies .. | exact .refl t) gs s

/-- The pages that take a copy when bytes are performed. -/
theorem tookCopy_performBytes {s : State} (who : GangRef) (bs : List (Place × Byte)) (pages : List Nat) (k : Nat) :
    let kbs := (bs.filter (fun b => b.1.remote.isNone)).filterMap (fun b => b.1.key.map (fun k => (k, b.2)))
    let gs := granulesOf (bs.filterMap (fun b => b.1.key.map (fun k => (k, b.2))))
    s.tookCopy (s.performBytes who bs pages) k ↔
      (s.noteOld who kbs).tookCopy (gs.foldl (fun s g => if g < 2 ^ 24 then s.copyGranule g else s) (s.noteOld who kbs)) k := by
  intro kbs gs
  have e : (s.performBytes who bs pages).ifaces =
      (gs.foldl (fun s g => if g < 2 ^ 24 then s.copyGranule g else s) (s.noteOld who kbs)).ifaces := by
    unfold State.performBytes
    dsimp only [State.markConflicts, State.modGangs]
    rw [markPages_ifaces]
  simp only [State.tookCopy, State.ifc, e, noteOld_ifaces]

/-- Performing bytes keeps memory's canonical form. -/
theorem performBytes_wf {s : State} {who : GangRef} {bs : List (Place × Byte)} {pages : List Nat} (w : s.mem.wf = true) :
    (s.performBytes who bs pages).mem.wf = true := by
  unfold State.performBytes
  simp only [markConflicts_mem]
  refine markPages_wf ?_
  simp only
  refine Memory.writeAccess_wf ((copyGranules ..).wf ?_)
  rw [noteOld_mem]
  exact w

/-- Performing bytes changes no byte but those at their keys, those of the page-map entries used, and pages of a reserve that take a
copy. -/
theorem performBytes_get {s : State} {who : GangRef} {bs : List (Place × Byte)} {pages : List Nat} {k : Nat}
    (hb : ∀ b ∈ bs, b.1.key ≠ some k) (hp : ∀ pm ∈ pages, k < pm ∨ pm + 16 ≤ k)
    (hc : ¬ s.tookCopy (s.performBytes who bs pages) k) :
    (s.performBytes who bs pages).mem.get k = s.mem.get k := by
  have hc' := fun h => hc ((tookCopy_performBytes who bs pages k).mpr h)
  unfold State.performBytes
  simp only [markConflicts_mem]
  rw [markPages_get (fun pm hm => hp pm (List.mem_eraseDups.mp hm))]
  simp only
  rw [Memory.writeAccess_get, (copyGranules ..).get _ hc', noteOld_mem]
  rw [List.all_eq_true]
  intro x hx
  rw [List.mem_filterMap] at hx
  obtain ⟨b, hbm, hbx⟩ := hx
  have := hb b (List.mem_filter.mp hbm |>.1)
  cases hk : b.1.key with
  | none => simp [hk] at hbx
  | some q =>
    simp only [hk, Option.map_some, Option.some.injEq] at hbx
    subst hbx
    simp only [bne_iff_ne, ne_eq]
    intro hq
    exact this (by rw [hk, hq])

end Sys2Proof.Machine
end

