-- ==== Sys2Proof/Laws/Encoding.lean ====
section
/-! SUPPORT. Each format's fields come back from its word (01 R15, R22 to R32). -/

namespace Sys2Proof

@[simp] theorem FmtR.unpack_pack (f : FmtR) : FmtR.unpack f.pack = f := by
  cases f; simp only [FmtR.pack, FmtR.unpack, FmtR.mk.injEq]
  refine ⟨?_, ?_, ?_, ?_, ?_⟩ <;> ext i hi <;> simp <;> grind

@[simp] theorem FmtQ.unpack_pack (f : FmtQ) : FmtQ.unpack f.pack = f := by
  cases f; simp only [FmtQ.pack, FmtQ.unpack, FmtQ.mk.injEq]
  refine ⟨?_, ?_, ?_, ?_, ?_, ?_⟩ <;> ext i hi <;> simp <;> grind

@[simp] theorem FmtI.unpack_pack (f : FmtI) : FmtI.unpack f.pack = f := by
  cases f; simp only [FmtI.pack, FmtI.unpack, FmtI.mk.injEq]
  refine ⟨?_, ?_, ?_, ?_⟩ <;> ext i hi <;> simp <;> grind

@[simp] theorem FmtU.unpack_pack (f : FmtU) : FmtU.unpack f.pack = f := by
  cases f; simp only [FmtU.pack, FmtU.unpack, FmtU.mk.injEq]
  refine ⟨?_, ?_, ?_⟩ <;> ext i hi <;> simp <;> grind

@[simp] theorem FmtB.unpack_pack (f : FmtB) : FmtB.unpack f.pack = f := by
  cases f; simp only [FmtB.pack, FmtB.unpack, FmtB.mk.injEq]
  refine ⟨?_, ?_, ?_, ?_⟩ <;> ext i hi <;> simp <;> grind

@[simp] theorem FmtJ.unpack_pack (f : FmtJ) : FmtJ.unpack f.pack = f := by
  cases f; simp only [FmtJ.pack, FmtJ.unpack, FmtJ.mk.injEq]
  refine ⟨?_, ?_⟩ <;> ext i hi <;> simp <;> grind

@[simp] theorem FmtM.unpack_pack (f : FmtM) : FmtM.unpack f.pack = f := by
  cases f; simp only [FmtM.pack, FmtM.unpack, FmtM.mk.injEq]
  refine ⟨?_, ?_, ?_, ?_⟩ <;> ext i hi <;> simp <;> grind

@[simp] theorem FmtW0.unpack_pack (f : FmtW0) : FmtW0.unpack f.pack = f := by
  cases f; simp only [FmtW0.pack, FmtW0.unpack, FmtW0.mk.injEq]
  refine ⟨?_, ?_, ?_, ?_, ?_⟩ <;> ext i hi <;> simp <;> grind

@[simp] theorem FmtD.unpack_pack (f : FmtD) : FmtD.unpack f.pack = f := by
  cases f; simp only [FmtD.pack, FmtD.unpack, FmtD.mk.injEq]
  refine ⟨?_, ?_, ?_, ?_, ?_⟩ <;> ext i hi <;> simp <;> grind

@[simp] theorem FmtS.unpack_pack (f : FmtS) : FmtS.unpack f.pack = f := by
  cases f; simp only [FmtS.pack, FmtS.unpack, FmtS.mk.injEq]
  refine ⟨?_, ?_, ?_⟩ <;> ext i hi <;> simp <;> grind

@[simp] theorem FmtM2.unpack_pack (f : FmtM2) : FmtM2.unpack f.pack = f := by
  cases f; simp only [FmtM2.pack, FmtM2.unpack, FmtM2.mk.injEq]
  refine ⟨?_, ?_, ?_⟩ <;> ext i hi <;> simp <;> grind

@[simp] theorem FmtT.unpack_pack (f : FmtT) : FmtT.unpack f.pack = f := by
  cases f; simp only [FmtT.pack, FmtT.unpack, FmtT.mk.injEq]
  refine ⟨?_, ?_, ?_, ?_, ?_⟩ <;> ext i hi <;> simp <;> grind

@[simp] theorem FmtW.unpack_pack (f : FmtW) : FmtW.unpack f.pack = f := by
  cases f; simp only [FmtW.pack, FmtW.unpack, FmtW.mk.injEq]
  refine ⟨?_, ?_⟩ <;> ext i hi <;> simp <;> grind

@[simp] theorem ModLA.unpack_pack (f : ModLA) : ModLA.unpack f.pack = f := by
  cases f; simp only [ModLA.pack, ModLA.unpack, ModLA.mk.injEq]
  refine ⟨?_, ?_, ?_⟩ <;> ext i hi <;> simp <;> grind

@[simp] theorem ModLM.unpack_pack (f : ModLM) : ModLM.unpack f.pack = f := by
  cases f; simp only [ModLM.pack, ModLM.unpack, ModLM.mk.injEq]
  refine ⟨?_, ?_, ?_, ?_, ?_, ?_⟩ <;> ext i hi <;> simp <;> grind

end Sys2Proof
end

