-- ==== Sys2Proof/Laws/Issue.lean ====
section
/-! SUPPORT. What the shared prologue of every instruction does (03 R104), once. -/

namespace Sys2Proof.Machine

/-- A gang that nothing stops goes on with the outcome of its instruction. -/
theorem heedStop_of_none {s : State} {o : Out} (h : s.stopAt = none) : s.heedStop o = o := by
  simp [State.heedStop, h]

@[simp] theorem atSwitch_stopAt (s : State) : s.atSwitch.stopAt = s.stopAt := rfl
@[simp] theorem atSwitch_packet (s : State) : s.atSwitch.packet = s.packet := rfl
@[simp] theorem modBoard_packet (s : State) (f : Board → Board) : (s.modBoard f).packet = s.packet := rfl

/-- An instruction that goes is its own effect on the state where it has begun. -/
theorem issue_of_goes {s : State} {u : Uses} {body : State → Out} (h : s.goes u = true) :
    s.issue u body = body (s.begun u) := by
  simp only [State.goes, Bool.and_eq_true, Option.isNone_iff_eq_none, List.isEmpty_iff, Bool.not_eq_true',
    Bool.or_eq_true, Bool.and_eq_false_iff] at h
  obtain ⟨⟨⟨hc, hw⟩, hs⟩, hp⟩ := h
  unfold State.issue State.begun
  rw [hc]
  by_cases hb : (u.switch || s.isBoardWait u) = true
  · have hs' : s.stopAt = none := by
      rcases hs with hs | hs
      · simp [hb] at hs
      · exact hs
    rcases hp with hp | hp <;> simp [hw, hb, heedStop_of_none, hs', hp]
  · rcases hp with hp | hp <;> simp [hw, hb, hp]

/-- The same where the effect is a function of the state. -/
theorem issue'_of_goes {s : State} {u : Uses} {body : State → State} (h : s.goes u = true) :
    s.issue' u body = .next (body (s.begun u)) := issue_of_goes h

end Sys2Proof.Machine
end

