-- ==== Sys2Proof/Laws/Loads.lean ====
section
/-! SUPPORT. What the shared operations of the memory instructions leave as it was: counting, the scoreboard's marks, results
in registers, and the performing of stores (02 R69 to R71, 08 R237 to R243). -/

namespace Sys2Proof.Machine

/-! ### Counting changes registers of the MMIO blocks only (17 R427) -/

theorem count_eq (s : State) (i d k n : Nat) : s.count i d k n = { s with regs := (s.count i d k n).regs } := by
  unfold State.count; split <;> rfl

theorem countFor_eq (s : State) (i d : Nat) (ps : List Place) : s.countFor i d ps = { s with regs := (s.countFor i d ps).regs } := by
  unfold State.countFor
  refine foldl_inv (fun t : State => t = { s with regs := t.regs }) _ (fun t p h => ?_) _ _ rfl
  split
  · rw [count_eq, h]
  · exact h

theorem countLines_eq (s : State) (ps : List Place) : s.countLines ps = { s with regs := (s.countLines ps).regs } :=
  countFor_eq ..

@[simp] theorem countLines_g (s : State) (ps : List Place) : (s.countLines ps).g = s.g := by rw [countLines_eq]
@[simp] theorem countLines_gangs (s : State) (ps : List Place) : (s.countLines ps).gangs = s.gangs := by rw [countLines_eq]
@[simp] theorem countLines_mem (s : State) (ps : List Place) : (s.countLines ps).mem = s.mem := by rw [countLines_eq]
@[simp] theorem countLines_wq (s : State) (ps : List Place) : (s.countLines ps).wq = s.wq := by rw [countLines_eq]
@[simp] theorem countLines_launches (s : State) (ps : List Place) : (s.countLines ps).launches = s.launches := by rw [countLines_eq]
@[simp] theorem countLines_packet (s : State) (ps : List Place) : (s.countLines ps).packet = s.packet := by rw [countLines_eq]; rfl

/-! ### A free value used changes the counter of free values only -/

theorem usedFree_eq (s : State) (as : List LaneAcc) : s.usedFree as = { s with freeCtr := (s.usedFree as).freeCtr } := by
  unfold State.usedFree; split <;> rfl

@[simp] theorem usedFree_g (s : State) (as : List LaneAcc) : (s.usedFree as).g = s.g := by rw [usedFree_eq]
@[simp] theorem usedFree_mem (s : State) (as : List LaneAcc) : (s.usedFree as).mem = s.mem := by rw [usedFree_eq]
@[simp] theorem usedFree_wq (s : State) (as : List LaneAcc) : (s.usedFree as).wq = s.wq := by rw [usedFree_eq]

/-! ### Marks of the scoreboard -/

@[simp] theorem marksLoad_mem (s : State) (d : RemoteDst) (n : Nat) : (s.marksLoad d n).mem = s.mem := rfl
@[simp] theorem marksLoad_wq (s : State) (d : RemoteDst) (n : Nat) : (s.marksLoad d n).wq = s.wq := rfl
@[simp] theorem marksLoad_la (s : State) (d : RemoteDst) (n : Nat) : (s.marksLoad d n).g.la = s.g.la := rfl
@[simp] theorem marksLoad_sc (s : State) (d : RemoteDst) (n : Nat) : (s.marksLoad d n).g.sc = s.g.sc := rfl

theorem Board.loads_pending_mono (b : Board) (r q : RegRef) (h : q ∈ b.pending) : q ∈ (b.loads r).pending := by
  unfold Board.loads
  split
  · dsimp only
    split
    · exact h
    · exact List.mem_cons_of_mem _ h
  · exact h

theorem Board.loads_pending (b : Board) (r : RegRef) (h : r.real = true) : r ∈ (b.loads r).pending := by
  unfold Board.loads
  rw [if_pos h]
  dsimp only
  split
  · rename_i hc; simpa using hc
  · exact List.mem_cons_self ..

/-- A load's destination waits for its data (R93). -/
theorem Board.foldl_loads_pending (rs : List RegRef) (b : Board) (r : RegRef) (hr : r ∈ rs ∨ r ∈ b.pending) (h : r.real = true) :
    r ∈ (rs.foldl Board.loads b).pending := by
  induction rs generalizing b with
  | nil => simpa using hr
  | cons q rs ih =>
    refine ih _ ?_
    rcases hr with hr | hr
    · rcases List.mem_cons.mp hr with e | e
      · subst e; exact .inr (Board.loads_pending _ _ h)
      · exact .inl e
    · exact .inr (Board.loads_pending_mono _ _ _ hr)

theorem marksLoad_pending (s : State) (d : RemoteDst) (n : Nat) (r : RegRef) (hr : r ∈ d.regs n) (h : r.real = true) :
    r ∈ (s.marksLoad d n).g.bd.pending := Board.foldl_loads_pending _ _ _ (.inl hr) h

/-! ### Accesses of this device -/

theorem isFar_of_near (s : State) (a : LaneAcc) (h : ∀ p ∈ a.land.bytes, p.remote = none) : s.isFar a = false := by
  simp only [State.isFar, List.any_eq_false, Bool.and_eq_true, Option.isSome_iff_ne_none, ne_eq, Bool.not_eq_true']
  exact fun p hp hx => hx.1 (h p hp)

@[simp] theorem groupLines_nil : groupLines [] = [] := rfl
@[simp] theorem egressFull_zero (s : State) : s.egressFull 0 = false := by simp [State.egressFull]

/-- The loads of one instruction on this device that read their homes as they issue: the values are in the destination, which waits
for its data. -/
theorem loadLanes_near (s : State) (dst : RemoteDst) (n words : Nat) (as : List LaneAcc) (k : State → State)
    (h : ∀ a ∈ as, ∀ p ∈ a.land.bytes, p.remote = none) (hl : s.late = false)
    (hb : s.lateAt ((as.map (fun a => a.land.bytes)).flatten) = []) :
    s.loadLanes dst n words as k =
      .next (k (((((s.modG (fun g => g.loaded dst n (as.map (fun a => (a.lane, s.ownValue a.land.bytes))))).usedFree as).countLines
        (as.map LaneAcc.first)).marksLoad dst words))) := by
  have hf : as.filter s.isFar = [] := by
    rw [List.filter_eq_nil_iff]
    intro a ha
    simp [isFar_of_near s a (h a ha)]
  have hn : as.filter (fun a => !s.isFar a) = as := by
    rw [List.filter_eq_self]
    intro a ha
    simp [isFar_of_near s a (h a ha)]
  simp only [State.loadLanes, hf, hn, hb, hl, groupLines_nil, List.length_nil, egressFull_zero, Bool.false_eq_true, if_false,
    List.foldl_nil, ne_eq, not_true_eq_false, false_and]

/-! ### Own writes under way -/

theorem queuedByte_nil (s : State) (r : GangRef) (p : Place) (h : s.wq = []) : s.queuedByte r p = none := by
  simp [State.queuedByte, State.isQueued, h]

theorem flushTo_nil (s : State) (r : GangRef) (ps : List Place) (h : s.wq = []) : s.flushTo r ps = s := by
  simp [State.flushTo, h]

/-! ### LATCHLOST has no part in an access -/

theorem setLatchLost_laneAddress (s : State) : s.setLatchLost.laneAddress = s.laneAddress := rfl
theorem setLatchLost_elemBase (s : State) : s.setLatchLost.elemBase = s.elemBase := rfl
theorem setLatchLost_dataValue (s : State) : s.setLatchLost.dataValue = s.dataValue := rfl
theorem setLatchLost_homeByte (s : State) : s.setLatchLost.homeByte = s.homeByte := rfl

theorem setLatchLost_myTxn (s : State) : s.setLatchLost.myTxn = s.myTxn := by
  have e : s.setLatchLost.g.ref = s.g.ref := rfl
  have f : s.setLatchLost.gangs = s.gangs := rfl
  simp only [State.myTxn, State.gang?, e, f]
  split
  · split <;> rfl
  · rfl

theorem setLatchLost_ownPoisoned (s : State) : s.setLatchLost.ownPoisoned = s.ownPoisoned := by
  funext p
  simp only [State.ownPoisoned, setLatchLost_myTxn]
  rfl

theorem setLatchLost_checkOwnData (s : State) : s.setLatchLost.checkOwnData = s.checkOwnData := by
  funext l p
  simp only [State.checkOwnData, setLatchLost_ownPoisoned]

theorem setLatchLost_checkTarget (s : State) : s.setLatchLost.checkTarget = s.checkTarget := rfl

theorem setLatchLost_check (s : State) : s.setLatchLost.check = s.check := by
  funext q o n p
  simp only [State.check, setLatchLost_checkTarget, setLatchLost_checkOwnData]

theorem setLatchLost_lmCheck (s : State) : s.setLatchLost.lmCheck = s.lmCheck := by
  funext o q t n p
  simp only [State.lmCheck, setLatchLost_check]
  rfl

theorem setLatchLost_translate (s : State) : s.setLatchLost.translate = s.translate := rfl
theorem setLatchLost_request (s : State) : s.setLatchLost.request = s.request := rfl
theorem setLatchLost_sealedBytes (s : State) : s.setLatchLost.sealedBytes = s.sealedBytes := rfl

theorem setLatchLost_checkScale (s : State) : s.setLatchLost.checkScale = s.checkScale := by
  funext o p
  simp only [State.checkScale, setLatchLost_ownPoisoned]

theorem setLatchLost_checkElem (s : State) : s.setLatchLost.checkElem = s.checkElem := by
  funext q b e
  simp only [State.checkElem, setLatchLost_translate, setLatchLost_request, setLatchLost_sealedBytes, setLatchLost_checkOwnData,
    setLatchLost_checkScale]

theorem setLatchLost_ownByte (s : State) (p : Place) : s.setLatchLost.ownByte p = s.ownByte p := by
  simp only [State.ownByte, State.ownOver, setLatchLost_myTxn, setLatchLost_homeByte]
  rfl

theorem setLatchLost_ownValue (s : State) (bs : List Place) : s.setLatchLost.ownValue bs = s.ownValue bs := by
  simp only [State.ownValue]
  congr 1
  exact List.map_congr_left (fun p _ => setLatchLost_ownByte s p)

/-- The state after the latches are noted is the same, or has LATCHLOST set. -/
theorem noteLatches_cases (s : State) (u : LaSrcs) (m : LaneMask) : s.noteLatches u m = s ∨ s.noteLatches u m = s.setLatchLost := by
  unfold State.noteLatches
  dsimp only
  split
  · exact .inr rfl
  · exact .inl rfl

/-- An LM instruction that goes and fits is its body, over the participating lanes. -/
theorem lm_of_goes {s : State} {h : LmHdr} {point : Bool} {reads writes : List RegRef} {idle : State → State}
    {body : State → LaneMask → Out} {fits : Bool} (hf : fits = true) (hg : s.goes (lmUses h point reads writes) = true) :
    s.lm h fits point reads writes idle body =
      (let t := s.begun (lmUses h point reads writes)
       let p := t.g.part h.guard
       if p = 0#96 then .next ((idle t).advance 12) else body t p) := by
  subst hf
  simp only [State.lm, Bool.true_eq_false, if_false]
  exact issue_of_goes hg

/-- What LATCHLOST needs, noted as an LM instruction takes effect, is the same state or has LATCHLOST set. -/
theorem noteLm_cases (s : State) (h : LmHdr) (data : List Src) (m : LaneMask) : s.noteLm h data m = s ∨ s.noteLm h data m = s.setLatchLost :=
  noteLatches_cases ..

end Sys2Proof.Machine
end

