-- ==== Sys2Proof/Tests/Slice0.lean ====
section
/-! SUPPORT. Tests: words of the manual decoded, ill-formed terms refused, small steps, and for every statement a state and
operands that meet its hypotheses. -/

namespace Sys2Proof.Tests

open Sys2Proof Sys2Proof.Machine

/-- The machine after reset with one gang selected, its page at label 1 and its scratchpad of 4,096 bytes. -/
def tb : State := State.reset.loadProgram []

/-- The outcome is a next state with a property. -/
def nx (o : Out) (p : State → Bool) : Bool :=
  match o with
  | .next t => p t
  | .fault _ | .refused _ => false

/-- The value of a check. -/
def good {α : Type} (x : Except Fail α) (p : α → Bool) : Bool :=
  match x with
  | .ok v => p v
  | .error _ => false

/-- An LA header without a guard. -/
def hd (d : Dst) : LaHdr := { guard := { neg := false, p := 0#3 }, rpt := .x1, dst := d, lt := 0#2 }

/-- An LM header at a base pair, with the lane number as index. -/
def lh (b : Pair) (k : Scale) : LmHdr :=
  { guard := { neg := false, p := 0#3 }, hint := .dflt, addr := .base b .lane k 0#17 }

/-- `tb` with a pointer to its page, 16 bytes in, in s20.d. -/
def tp : State := tb.wrP 10#5 (programCode + 0x100#64)

/-- An operation of the selected gang. -/
def anOp (k : OpKind) : Op :=
  { id := 7, owner := tb.g.ref, iface := 0, core := 0, pc := 0#64, token := some 9#6, serial := 0, kind := k }

/-- `tb` with that operation under way. -/
def tOp (k : OpKind) : State := { tb with ops := [anOp k] }

/-- No gang waits inside a REL or SEMP. -/
def calm (s : State) : Bool :=
  s.allGangs.all (fun h => match h.sch.run with | .release _ => false | _ => true)

theorem noRelease_of_calm {s : State} (h : calm s = true) : s.noRelease := by
  intro g hg y hy
  have := List.all_eq_true.mp h g hg
  simp [hy] at this

/-- The operation of `anOp` runs under token register s9. -/
def runsB (s : State) (o : Op) : Bool :=
  s.op? o.id == some o && o.owner == s.g.ref && !o.owner.twin && o.token == some 9#6 && s.wq.isEmpty &&
    (s.gang? o.owner.other).isNone && s.g.sch.run == .ready && calm s && s.fab.engine.all (fun e => e.op != o.id)

theorem runs_of {s : State} {o : Op} (h : runsB s o = true) : s.runs o 9#6 := by
  simp only [runsB, Bool.and_eq_true, beq_iff_eq, Bool.not_eq_true', List.isEmpty_iff, Option.isNone_iff_eq_none] at h
  obtain ⟨⟨⟨⟨⟨⟨⟨⟨h1, h2⟩, h3⟩, h4⟩, h5⟩, h6⟩, h7⟩, h8⟩, h9⟩ := h
  exact ⟨h1, h2, h3, h4, h5, h6, h7, noRelease_of_calm h8, fun e he => by simpa using List.all_eq_true.mp h9 e he⟩

/-! ### Witnesses: scalar instructions -/

theorem wit_ScalarAluResults :
    tb.goes (.plain [.s 1#6, .s 2#6] [.s 3#6]) = true ∧ tb.goes (.plain [.s 1#6, .s 2#6] [.s 0#6]) = true ∧
      tb.goes (.plain [.s 1#6] [.s 3#6]) = true ∧ tb.goes (.plain [] [.s 3#6]) = true ∧
      tb.goes (.plain [] (pairRegs 4#5)) = true := by decide

theorem wit_ScalarDivResults :
    (tb.goes (.plain [.s 1#6, .s 6#6] [.s 3#6]) = true ∧ tb.rd 6#6 ≠ 0#32) ∧ tb.rd 1#6 = 0#32 ∧
      ((tb.wr 10#6 0x80000000#32).wr 11#6 0xFFFFFFFF#32).rd 10#6 = 0x80000000#32 ∧
      ((tb.wr 10#6 0x80000000#32).wr 11#6 0xFFFFFFFF#32).rd 11#6 = 0xFFFFFFFF#32 ∧
      ((tb.wr 10#6 0x80000000#32).wr 11#6 0xFFFFFFFF#32).goes (.plain [.s 10#6, .s 11#6] [.s 3#6]) = true := by decide

theorem wit_BitFieldResults :
    tb.goes (.plain [.s 1#6, .s 2#6, .s 3#6] [.s 9#6]) = true ∧
      tb.goes (.plain [.s 9#6, .s 1#6, .s 2#6, .s 3#6] [.s 9#6]) = true := by decide

theorem wit_CompareResults :
    tb.goes (.plain [.s 1#6, .s 2#6] []) = true ∧ tb.goes (.plain [.s 1#6] []) = true ∧ tb.goes (.plain [] []) = true ∧
      tb.goes (.plain [] [.s 3#6]) = true := by decide

theorem wit_SelectRule : tb.goes (.plain [.s 1#6, .s 2#6] [.s 3#6]) = true := by decide

theorem wit_PairArithmeticResults :
    tb.goes (.plain (pairRegs 2#5 ++ pairRegs 3#5) (pairRegs 4#5)) = true ∧
      tb.goes (.plain (pairRegs 2#5 ++ [.s 9#6]) (pairRegs 4#5)) = true ∧
      tb.goes (.plain [.s 9#6, .s 10#6] (pairRegs 4#5)) = true ∧ tb.goes (.plain (pairRegs 2#5) (pairRegs 0#5)) = true := by
  decide

theorem wit_BranchResults :
    tb.goes { reads := [], writes := [], switch := true, point := false } = true ∧
      tb.goes { reads := [.s 56#6, .s 57#6, .s 58#6], writes := [], switch := false, point := false } = true ∧
      tb.goes (.switching [] (pairRegs linkPair)) = true ∧
      ((tb.wrP 4#5 programCode).rdP 4#5).toNat % 4 = 0 ∧ (tb.wrP 4#5 programCode).goes (.switching (pairRegs 4#5) []) = true ∧
      (tb.wrP 4#5 programCode).goes (.switching (pairRegs 4#5) (pairRegs linkPair)) = true ∧
      ((tb.wrP 4#5 (programCode + 2#64)).rdP 4#5).toNat % 4 ≠ 0 ∧
      (tb.wrP 4#5 (programCode + 2#64)).goes (.switching (pairRegs 4#5) []) = true := by decide

theorem wit_LoopRule :
    (1#5 ≠ 0#5 ∧ tb.goes { reads := [.s 1#6], writes := [.s 1#6], switch := tb.rd 1#6 - 1#32 != 0#32, point := false } = true) ∧
      (6#5 ≠ 0#5 ∧ tb.rd 6#6 = 1#32) := by decide

/-! ### Witnesses: scalar memory, special registers, traps -/

theorem wit_ScalarLoadStoreResults :
    good (tp.check (tp.request .read 4) .load 4 (tp.rdP 10#5)) (fun l =>
        l.here && l.bytes.length == 4 && l.bytes.all (fun p => p.remote.isNone)) = true ∧
      tp.goes (.loading (pairRegs 10#5) [.s 9#6]) = true ∧ tp.goes (.loading (pairRegs 10#5) (pairRegs 4#5)) = true ∧
      tp.ops = [] ∧ tp.late = false ∧ tp.defer = false ∧ tp.wq = [] ∧
      good (tp.check (tp.request .write 8) .store 8 (tp.rdP 10#5)) (fun l =>
        l.here && l.bytes.length == 8 && (tp.storeWaits [l]).isEmpty) = true ∧
      tp.goes (.loading ([.s 9#6] ++ pairRegs 10#5) []) = true ∧ tp.packet.plumb = false ∧ tp.g.txn = none := by decide

theorem wit_ScalarAtomicResults :
    tp.goes (.comparing (pairRegs 10#5 ++ [.s 9#6] ++ [.s 8#6]) [.s 8#6]) = true ∧ tp.wq = [] ∧
      good (tp.check (tp.request .atomic 4) .atomic 4 (tp.rdP 10#5)) (fun l => l.here && l.bytes.length == 4) = true := by decide

theorem wit_ScalarMemoryFaults :
    (match tb.check (tb.request .read 4) .load 4 (tb.rdP 4#5 + (0#14).signExtend 64) with
      | .error x => x == .fault (.plain 0x10)
      | .ok _ => false) = true ∧
      tb.goes (.loading (pairRegs 4#5) [.s 9#6]) = true ∧ tb.goes (.loading ([.s 9#6] ++ pairRegs 4#5) []) = true ∧ (tb.rdP 4#5 + (2#14).signExtend 64).toNat % 4 ≠ 0 := by decide

theorem wit_SpecialRegisterResults :
    tb.goes (.plain [] [.s 9#6]) = true ∧ tb.packet.plumb = false ∧ tb.goes (.plain [.s 9#6] []) = true := by decide

/-- `tb` with a trap vector. -/
def tv : State := tb.modG (fun g => { g with sc := { g.sc with tvec := 0x100#64 } })

theorem wit_HandlerRule :
    tv.goes (.switching [] []) = true ∧ (tv.g.sc.tvec ≠ 0#64 ∧ tv.g.sc.handler = false) ∧ tb.g.sc.tvec = 0#64 := by decide

theorem wit_YieldRule : tb.goes (.plain [] []) = true ∧ (Uses.switching [] []).switch = true := by decide

/-- `tb` in a PLUMB launch, with the other copy of its gang; the copy has met the fault `f` at `tb`'s PC where one is given. -/
def tplumb (f : Option FaultInfo) : State :=
  let s := tb.modLaunch 1 (fun l => { l with packet := { l.packet with flags := 2#8 } })
  { s with gangs := [{ s.g with ref := s.g.ref.other, plumb := { s.g.plumb with faulted := f.map (fun x => (x, s.g.sc.pc)) } }] }

theorem wit_IllegalKillRule : tb.packet.plumb = false ∧ (programLaunch 1).firstKill = none := by decide

theorem wit_IllegalKillRule_first :
    (tplumb none).packet.plumb = true ∧
      (((tplumb none).gang? (tplumb none).g.ref.other).map (fun h => (h.plumb.faulted, h.sch.run.isOver))) = some (none, false) := by
  decide

theorem wit_IllegalKillRule_second :
    let s := tplumb (some (.plain 0x03))
    s.packet.plumb = true ∧ ((s.gang? s.g.ref.other).map (fun h => h.plumb.faulted)) = some (some (.plain 0x03, s.g.sc.pc)) ∧
      s.g.plumb.late = [] ∧ ((s.gang? s.g.ref.other).map (fun h => (h.plumb.late, decide (s.g.plumb.sig = h.plumb.sig)))) = some ([], true) ∧
      (s.modG (fun g => { g with plumb := { g.plumb with late := [.hole 3] } })).g.plumb.late ≠ [] ∧
      nx (exec (.illegalInstruction .encoding) s) (fun t => t.g.sch.run == .killed) = true := by decide

/-! ### Witnesses: lane instructions -/

theorem wit_LaneIntegerResults :
    tb.laGoes (hd (.v 3#8)) { narrow := [.lane, .s 4#6], wide := [] } 1 = true ∧
      tb.laGoes (hd (.v 3#8)) { narrow := [.lane], wide := [] } 1 = true ∧
      tb.laGoes (hd (.v 3#8)) { narrow := [.lane, .v 1#8, .v 2#8], wide := [] } 1 = true ∧
      tb.laGoes (hd (.v 4#8)) { narrow := [.lane, .v 1#8], wide := [.v 2#8] } 2 = true ∧
      tb.laGoes (hd (.v 4#8)) { narrow := [], wide := [.v 2#8, .v 6#8] } 2 = true ∧
      tb.laGoes (hd (.v 4#8)) { narrow := [.lane], wide := [.v 2#8] } 2 = true := by decide

theorem wit_LaneFloatResults :
    tb.laGoes (hd (.v 3#8)) { narrow := [.v 1#8, .v 2#8], wide := [] } 1 = true ∧
      tb.laGoes (hd (.v 3#8)) { narrow := [.v 1#8, .v 1#8], wide := [] } 1 = true ∧
      tb.laGoes (hd (.v 3#8)) { narrow := cvtSrcs .f16x2 .f32 (.v 1#8) (.v 2#8), wide := [] } 1 = true := by decide

/-- `tb` in a POPULATION launch. -/
def tpop : State := tb.modLaunch 1 (fun l => { l with packet := { l.packet with flags := 0x08#8 } })

theorem wit_LaneMoveResults :
    tb.laGoes (hd (.v 3#8)) { narrow := (Opnd.imm 5#32).srcs, wide := [] } 1 = true ∧
      tb.laGoes (hd (.p 3#3)) { narrow := [], wide := [] } 1 = true ∧ tb.laGoes (hd .nw) { narrow := [.v 1#8], wide := [] } 1 = true ∧
      tb.laGoes (hd (.s 9#6)) { narrow := [.v 1#8, .s 5#6], wide := [] } 1 = true ∧
      (tpop.packet.isPopulation = true ∧ tpop.laGoes (hd (.v 4#8)) { narrow := [], wide := [] } 2 = true) := by decide

/-! ### Witnesses: lane memory -/

/-- The check fails with a fault. -/
def flt {α : Type} (x : Except Fail α) : Bool :=
  match x with
  | .error (.fault _) => true
  | .error (.wait _) | .ok _ => false

/-- `tp` with lanes 0 to 2 only, and a header over its page. -/
def t3 : State := ((tp.wr 56#6 7#32).wr 57#6 0#32).wr 58#6 0#32
def h3 : LmHdr := lh 10#5 .x4

/-- A header whose base is the null pointer. -/
def h0 : LmHdr := lh 4#5 .x4

theorem wit_LaneFloatResults_more :
    tb.laGoes (hd (.v 3#8)) { narrow := [.v 1#8, .v 2#8, .v 5#8], wide := [] } 1 = true ∧
      tb.laGoes (hd (.v 3#8)) { narrow := [.v 1#8], wide := [] } 1 = true ∧
      tb.laGoes (hd (.v 3#8)) { narrow := .v 1#8 :: (Opnd.reg (.s 4#6)).srcs, wide := [] } 1 = true := by decide

theorem wit_LaneMoveResults_cross :
    tb.laGoes (hd (.s 9#6)) { narrow := [.v 1#8], wide := [] } 1 = true ∧
      (tb.laGoes (hd (.v 3#8)) { narrow := .v 1#8 :: (Opnd.reg (.s 4#6)).srcs, wide := [] } 1 = true ∧
        (hd (.v 3#8)).rpt.count = 1) := by decide

theorem wit_LaneMemoryFaults :
    (let t := t3.begun (lmUses h0 false [] ((Dst.v 3#8).regs 1 0))
     t3.goes (lmUses h0 false [] ((Dst.v 3#8).regs 1 0)) = true ∧ t3.lmFits h0 [] (.v 3#8) 1 = true ∧ t.g.part h0.guard ≠ 0#96 ∧
      flt (checkLanes (t.g.part h0.guard) (fun n => t.lmCheck false .read .load 4 (t.laneAddress h0.addr n))) = true) ∧
    (let t := t3.begun (lmUses h0 false (dataRegs (.v 3#8) .w) [])
     t3.goes (lmUses h0 false (dataRegs (.v 3#8) .w) []) = true ∧ t3.lmFits h0 [(.v 3#8, 1)] .nw 0 = true ∧
      flt (checkLanes (t.g.part h0.guard) (fun n => t.lmCheck false .write .store 4 (t.laneAddress h0.addr n))) = true) ∧
    tb.lmFits h3 [] (.v 255#8) 2 = false ∧ tb.lmFits h3 [(.v 255#8, 2)] .nw 0 = false := by decide

/-- A landing of four bytes of the page. -/
def aLand : Landing :=
  { key := programKeyD, entry := programLand, level := lvD, inst := 0, type := tHbm, owner := 0, o := 264,
    bytes := (Place.hbm 131336).run 4, pages := [(65536, 0x20000000000000000000000000000001#128)], trace := 0#96, out? := none }

theorem wit_LaneFaultRule :
    let p : LaneMask := 6#96
    let f (n : Nat) : Except Fail Landing := if n = 2 then .error (.fault (.plain 0x10)) else .ok aLand
    p.getLsbD 2 = true ∧ flt (f 2) = true ∧ flt (f 1) = false := by decide

theorem wit_LaneLoadResults :
    (∀ q : PReg, Dst.v 3#8 ≠ .p q) ∧
    (let t := t3.begun (lmUses h3 false [] ((Dst.v 3#8).regs 2 0))
     t3.goes (lmUses h3 false [] ((Dst.v 3#8).regs 2 0)) = true ∧ t3.lmFits h3 [] (.v 3#8) 2 = true ∧
      good (checkLanes (t.g.part h3.guard) (fun n => t.lmCheck false .read .load 8 (t.laneAddress (lh 10#5 .x8).addr n)))
        (fun ls => ls.length == 3 && ls.all (fun x => x.2.bytes.all (fun b => b.remote.isNone))) = true) ∧
    (let t := t3.begun (lmUses h0 false [] ((Dst.v 3#8).regs 1 0))
     good (checkLanes (t.g.part h0.guard) (fun n => t.lmCheck true .read .load 4 (t.laneAddress h0.addr n)))
       (fun ls => ls.length == 3 && ls.all (fun x => x.2.bytes.all (fun b => b.remote.isNone))) = true) := by decide

theorem wit_LaneStoreResults :
    tb.packet.plumb = false ∧ tb.g.txn = none ∧ tb.defer = false ∧ { tb with defer := true }.defer = true ∧
    (let u := lmUses h3 false (dataRegs (.v 3#8) .w) []
     let t := t3.begun u
     t3.lmFits h3 [(.v 3#8, 1)] .nw 0 = true ∧ t3.goes u = true ∧ { t3 with defer := true }.goes u = true ∧
     good (checkLanes (t.g.part h3.guard) (fun n => t.lmCheck false .write .store 4 (t.laneAddress h3.addr n)))
       (fun ls => ls.length == 3 && ls.all (fun x => x.2.here) && (t.storeWaits (ls.map Prod.snd)).isEmpty &&
         ls.map (fun x => x.2.bytes.headD (.hbm 0)) == [.hbm 0x20100, .hbm 0x20104, .hbm 0x20108]) = true) ∧
    (let u := lmUses h0 false (dataRegs (.v 3#8) .w) []
     let t := t3.begun u
     good (checkLanes (t.g.part h0.guard) (fun n => t.lmCheck true .write .store 4 (t.laneAddress h0.addr n)))
       (fun ls => ls.length == 3 && ls.all (fun x => x.2.here) && (t.storeWaits (ls.map Prod.snd)).isEmpty) = true) := by decide

theorem wit_LaneAtomicResults :
    tb.wq = [] ∧ (Dst.v 3#8) ≠ .nw ∧
    (let u := lmUses h3 true (dataRegs (.v 5#8) .w ++ dataRegs (.v 3#8) .w) ((Dst.v 3#8).regs 1 0)
     let t := t3.begun u
     t3.lmFits h3 [(.v 5#8, 1)] (.v 3#8) 1 = true ∧ t3.goes u = true ∧
     good (checkLanes (t.g.part h3.guard) (fun n => t.lmCheck false .atomic .atomic 4 (t.laneAddress h3.addr n)))
       (fun ls => ls.length == 3 && ls.all (fun x => x.2.here)) = true) ∧
    (let u := lmUses h0 true (dataRegs (.v 5#8) .w) []
     let t := t3.begun u
     t3.lmFits h0 [(.v 5#8, 1)] .nw 1 = true ∧ t3.goes u = true ∧
     good (checkLanes (t.g.part h0.guard) (fun n => t.lmCheck true .atomic .atomic 4 (t.laneAddress h0.addr n)))
       (fun ls => ls.length == 3 && ls.all (fun x => x.2.here)) = true) := by decide

/-- `t3` with its page in the format `f` (R140). -/
def tf (f : Nat) : State := { t3 with mem := t3.mem.putBytes 0x10000 (leBytes 16 (2 * 2 ^ 92 + 1 + f * 2 ^ 12)) }

theorem wit_LaneElementResults :
    (∀ q : PReg, Dst.v 3#8 ≠ .p q) ∧ (∀ q : SReg, Dst.v 3#8 ≠ .s q) ∧
    (let t := (tf 1).begun (lmUses h3 false [] ((Dst.v 3#8).regs 1 0))
     (tf 1).lmFits h3 [] (.v 3#8) 1 = true ∧ (tf 1).goes (lmUses h3 false [] ((Dst.v 3#8).regs 1 0)) = true ∧
     good (checkLanes (t.g.part h3.guard) (fun n => t.checkElem .read (t.elemBase h3.addr 0#2 n).1 (t.elemBase h3.addr 0#2 n).2))
       (fun ls => ls.length == 3 && ls.all (fun x => x.2.fmt == 1) &&
         !t.lineBusy ((ls.map (fun x => x.2.land.bytes ++ x.2.scale.toList)).flatten) &&
         (t.lateAt ((ls.map (fun x => x.2.land.bytes ++ x.2.scale.toList)).flatten)).isEmpty) = true) ∧
    (let t := (tf 1).begun (lmUses h3 false (dataRegs (.v 3#8) .w) [])
     (tf 1).lmFits h3 [(.v 3#8, 1)] .nw 0 = true ∧ (tf 1).goes (lmUses h3 false (dataRegs (.v 3#8) .w) []) = true ∧
     good (checkLanes (t.g.part h3.guard) (fun n => t.checkElem .write (t.elemBase h3.addr 0#2 n).1 (t.elemBase h3.addr 0#2 n).2))
       (fun ls => ls.length == 3 && ls.all (fun x => x.2.land.here && x.2.fmt != 5) &&
         !t.lineBusy ((ls.map (fun x => x.2.scale.toList)).flatten) && (t.storeWaits (ls.map (fun x => x.2.land))).isEmpty &&
         (t.lateAt ((ls.map (fun x => x.2.scale.toList)).flatten)).isEmpty) = true) ∧
    (let one := (tf 5).wr 56#6 1#32
     let h := lh 11#5 .x4
     let t := (one.wrP 11#5 programCode).begun (lmUses h false (dataRegs (.v 3#8) .w) [])
     (one.wrP 11#5 programCode).goes (lmUses h false (dataRegs (.v 3#8) .w) []) = true ∧
     good (checkLanes (t.g.part h.guard) (fun n => t.checkElem .write (t.elemBase h.addr 3#2 n).1 (t.elemBase h.addr 3#2 n).2))
       (fun ls => ls.length == 1 && ls.all (fun x => x.2.land.here && x.2.fmt == 5 && x.2.pos == 3)) = true) ∧
    tb.lmFits h3 [] .nw 0 = true ∧ tb.goes (lmUses h3 false [] []) = true := by decide

/-! ### Witnesses: binders, barriers, waits, rings -/

/-- `s` with the `n` bytes of `v` at the key `k`. -/
def put (s : State) (k n v : Nat) : State := { s with mem := s.mem.putBytes k (leBytes n v) }

/-- `tp` with the binder `b` behind its pointer. -/
def bt (b : Binder) : State := put tp 0x20100 32 b.value

/-- A free binder with a region table at the page's offset 0x200. -/
def bFree : Binder := { w0 := 1#64, w1 := 0x500000007#64, w2 := 0#64, w3 := programCode + 0x200#64 }

/-- One that the gang of `tp` holds, and one that another gang holds. -/
def bMine : Binder := tp.taken tp.g.ref bFree
def bOther : Binder := tp.taken { tp.g.ref with gang := 1 } bFree

/-- The check of a binder in `s` gives a landing on this core's device with a property. -/
def homes (s : State) (need : Perms) (n align : Nat) (p : State → Landing → Bool) : Bool :=
  good (s.checkHome need .atomic n align (s.rdP 10#5)) (fun x => p x.1 x.2)

set_option exponentiation.threshold 800 in
set_option maxRecDepth 4000 in
theorem wit_BindResults :
    let ub := Uses.switching (pairRegs 10#5 ++ pairRegs 11#5 ++ pairRegs 12#5) [.s 9#6]
    let uu := Uses.switching (pairRegs 10#5 ++ pairRegs 11#5) [.s 9#6]
    let s := (bt bFree).wrP 12#5 64#64
    let e := put s 0x20200 16 (2 ^ 64 * 0x1000 + 16)
    (s.packet.plumb = false ∧ s.goes ub = true ∧ s.goes uu = true ∧
      homes (s.begun ub) .atomic 32 32 (fun t l => let b := t.binderAt l.bytes
        !b.bad && !b.held && b.regtab != 0 && good (t.checkHome .readWrite .atomic 96 16 b.regtab) (fun x =>
          x.2.here && x.2.bytes.length == 96 && leValue (x.2.bytes.map x.1.homeByte) == 0)) = true) ∧
    (s.rdP 12#5 ≠ 0#64 ∧ (s.rdP 12#5).toNat < 2 ^ 40 ∧ tp.rdP 12#5 = 0#64) ∧
    homes ((e.wrP 11#5 0x1000#64).begun uu) .atomic 32 32 (fun t l =>
      good (t.checkHome .readWrite .atomic 96 16 (t.binderAt l.bytes).regtab) (fun x =>
        leValue (x.2.bytes.map x.1.homeByte) % 2 ^ 40 == 16 &&
          leValue (x.2.bytes.map x.1.homeByte) / 2 ^ 64 % 2 ^ 64 == (t.rdP 11#5).toNat)) = true ∧
    homes ((bt { bFree with w0 := 5#64 }).begun ub) .atomic 32 32 (fun t l => (t.binderAt l.bytes).bad) = true ∧
    homes ((bt bOther).begun ub) .atomic 32 32 (fun t l => let b := t.binderAt l.bytes
      !b.bad && b.held && !t.holds t.g.ref b) = true ∧
    homes ((bt { bFree with w3 := 0#64 }).begun ub) .atomic 32 32 (fun t l => let b := t.binderAt l.bytes
      !b.bad && !b.held && b.regtab == 0) = true := by decide

set_option exponentiation.threshold 800 in
set_option maxRecDepth 4000 in
theorem wit_BindResults_full :
    let s := (bt bFree).wrP 12#5 64#64
    homes (((List.range 6).foldl (fun s i => put s (0x20200 + 16 * i) 1 1) s).begun (Uses.switching (pairRegs 10#5 ++ pairRegs 11#5 ++ pairRegs 12#5) [.s 9#6])) .atomic 32 32 (fun t l =>
      good (t.checkHome .readWrite .atomic 96 16 (t.binderAt l.bytes).regtab) (fun x =>
        (List.range 6).all (fun i => leValue (x.2.bytes.map x.1.homeByte) / 2 ^ (128 * i) % 2 ^ 40 != 0))) = true := by decide

/-- `s` with sixteen binders held. -/
def full (s : State) : State := s.modG (fun g => { g with held := (List.range 16).map (fun i => .hbm (0x21000 + 32 * i)) })

theorem wit_AcquireResults :
    let ua := Uses.switching (pairRegs 10#5 ++ optRegs none) [.s 9#6]
    let ut := Uses.switching (pairRegs 10#5 ++ optRegs (some 11#5)) [.s 9#6]
    let uo := Uses.switching (pairRegs 10#5) [.s 9#6]
    tp.goes ua = true ∧ tp.goes ut = true ∧ tp.goes uo = true ∧ tp.g.held.length < 16 ∧
    homes ((bt bFree).begun ua) .atomic 32 32 (fun t l => let b := t.binderAt l.bytes
      !b.bad && !b.held && !t.acqBefore l t.nextId && l.here && l.bytes.length == 32) = true ∧
    homes ((bt bMine).begun ua) .atomic 32 32 (fun t l => let b := t.binderAt l.bytes
      !b.bad && t.holds t.g.ref b) = true ∧
    homes ((bt bOther).begun ut) .atomic 32 32 (fun t l => let b := t.binderAt l.bytes
      !b.bad && b.held && !t.holds t.g.ref b && t.rdP 11#5 == 0) = true ∧
    homes ((full (bt bFree)).begun ua) .atomic 32 32 (fun t l => !(t.binderAt l.bytes).bad && t.g.held.length == 16) = true ∧
    homes ((bt { bFree with w0 := 5#64 }).begun ua) .atomic 32 32 (fun t l => (t.binderAt l.bytes).bad) = true ∧
    homes ((bt bOther).begun uo) .read 32 32 (fun t l => let b := t.binderAt l.bytes
      !b.bad && b.held) = true := by decide

/-- The gang of `s` inside an instruction. -/
def inside (s : State) (r : Run) : State := s.modG (fun g => { g with sch := { g.sch with run := r } })

theorem wit_AcquireEvents :
    (let s := inside (bt bOther) (.acq 9#6 10#5 (some 0) 3)
     s.g.sch.run = .acq 9#6 10#5 (some 0) 3 ∧ s.mayGoOn s.g.ref = true ∧ s.packet.plumb = false ∧ 0 ≤ (s.view s.myIface).toNat ∧
     (s.view s.myIface).toNat < 2 ^ 64 ∧
     homes s .atomic 32 32 (fun t l => let b := t.binderAt l.bytes
       !b.bad && b.held && !t.holds t.g.ref b && decide (t.g.held.length < 16)) = true) ∧
    homes (inside (bt bFree) (.acq 9#6 10#5 none 3)) .atomic 32 32 (fun t l => let b := t.binderAt l.bytes
      !b.bad && !b.held && !t.holds t.g.ref b && !t.acqBefore l 3 && l.here && l.bytes.length == 32) = true := by decide

/-- A free binder for which another gang of the crew has waited since before. -/
def tahead : State :=
  let s := bt bFree
  { s with nextId := 5, gangs := [{ s.g with ref := { s.g.ref with gang := 1 }, sch := { s.g.sch with run := .acq 9#6 10#5 none 1 } }] }

theorem wit_AcquireResults_order :
    homes (tahead.begun (.switching (pairRegs 10#5 ++ optRegs none) [.s 9#6])) .atomic 32 32 (fun t l => let b := t.binderAt l.bytes
      !b.bad && !b.held && t.acqBefore l t.nextId) = true ∧
    homes (inside tahead (.acq 9#6 10#5 none 3)) .atomic 32 32 (fun t l => let b := t.binderAt l.bytes
      !b.bad && !b.held && !t.holds t.g.ref b && t.acqBefore l 3) = true := by decide

/-- `tb` with its crew at `site`. -/
def tsite (site : CrewSite) (p : Preempt) : State := { tb with crews := [{ programCrew 1 with site := site, preempt := p }] }

theorem wit_AcquireEvents_saved :
    let s := inside (tsite (.saved 0 0) .no) (.acq 9#6 10#5 (some 0) 3)
    s.g.sch.run = .acq 9#6 10#5 (some 0) 3 ∧ s.packet.plumb = false ∧ s.mayGoOn s.g.ref = false := by decide

/-- `s` with a write of its gang under way. -/
def wr1 (s : State) : State :=
  let w : PendWrite :=
    { id := 3, owner := s.g.ref, kind := .bytes [(.hbm 0x20000, 1#8)] [] 0 (0, 0#64), ptrs := [(.hbm 0x20000, programCode)], released := false, compared := true }
  { s with wq := [w] }

/-- `s` with a remote write of its gang that has no acknowledgement yet. -/
def far1 (s : State) : State :=
  let w : Unacked :=
    { id := 3, dev := 5, owner := s.g.ref, direct := false, lines := [0], bytes := [(.peerHbm 5 0, 1#8)], pages := [], ptrs := [], released := false }
  { s with fab := { s.fab with unacked := [w] } }

theorem wit_ReleaseResults :
    let u := Uses.comparing (pairRegs 10#5) [.s 9#6]
    let m := { bMine with w3 := 0#64 }
    let n := { m with w0 := m.w0 ||| 3#64 }
    (bt m).goes u = true ∧ (bt n).goes u = true ∧ (far1 (bt n)).goes u = true ∧
    homes ((bt m).begun u) .atomic 32 32 (fun t l => let b := t.binderAt l.bytes
      !b.bad && t.holds t.g.ref b && b.regtab == 0 && b.scope != 3 && l.here && l.bytes.length == 32) = true ∧
    homes ((bt n).begun u) .atomic 32 32 (fun t l => let b := t.binderAt l.bytes
      !b.bad && t.holds t.g.ref b && b.regtab == 0 && b.scope == 3 && t.fab.unacked.isEmpty) = true ∧
    homes ((far1 (bt n)).begun u) .atomic 32 32 (fun t l => let b := t.binderAt l.bytes
      !b.bad && t.holds t.g.ref b && b.scope == 3 && t.fab.unacked.any (fun u => u.owner == t.g.ref)) = true ∧
    homes ((bt bOther).begun u) .atomic 32 32 (fun t l => !t.holds t.g.ref (t.binderAt l.bytes)) = true ∧
    homes ((bt { bFree with w0 := 5#64 }).begun u) .atomic 32 32 (fun t l => (t.binderAt l.bytes).bad) = true ∧
    (far1 tb).goes (.comparing [] []) = true ∧ tb.goes (.comparing [] []) = true ∧ tb.writesDone tb.g.ref false = true ∧ (wr1 tb).goes (.comparing [] []) = true ∧
    (wr1 tb).writesDone tb.g.ref false = false ∧ tb.wq = [] ∧ tb.fab.unacked = [] ∧ tb.ops = [] := by decide

/-- The region table behind `b` in `s`, with a region of `n` bytes at the page's start where `n` is not zero. -/
def regions (s : State) (n : Nat) : State := put s 0x20200 16 (programCode.toNat * 2 ^ 64 + n)

set_option exponentiation.threshold 800 in
set_option maxRecDepth 4000 in
theorem wit_ReleaseResults_regions :
    let u := Uses.comparing (pairRegs 10#5) [.s 9#6]
    (wr1 (regions (bt bMine) 0)).goes u = true ∧ (wr1 (regions (bt bMine) 64)).goes u = true ∧
    homes ((wr1 (regions (bt bMine) 0)).begun u) .atomic 32 32 (fun t l => let b := t.binderAt l.bytes
      !b.bad && t.holds t.g.ref b && b.scope != 3 && b.regtab != 0 && good (t.checkHome .read .atomic 96 16 b.regtab) (fun x =>
        leValue (x.2.bytes.map x.1.homeByte) % 2 ^ 40 == 0 && x.1.fab.unacked.isEmpty)) = true ∧
    homes ((wr1 (regions (bt bMine) 64)).begun u) .atomic 32 32 (fun t l => let b := t.binderAt l.bytes
      !b.bad && t.holds t.g.ref b && good (t.checkHome .read .atomic 96 16 b.regtab) (fun x =>
        let v := leValue (x.2.bytes.map x.1.homeByte)
        v % 2 ^ 40 == 64 && v / 2 ^ 64 % 2 ^ 64 == programCode.toNat && x.1.wq.any (fun w => w.owner == x.1.g.ref && !x.1.isBuffered w &&
          w.ptrs.any (fun p => p.2 == programCode)))) = true := by decide

/-- `tb` in a band of two gangs. -/
def band2 : State :=
  tb.modLaunch 1 (fun l => { l with bandList := [{ members := [(0, 0), (0, 1)], oneCrew := true, phase := 5#32, arrived := [] }] })

theorem wit_BarrierResults :
    tb.g.bands[1]? = none ∧ tb.g.bands[0]? = some 0 ∧ tb.goes (.comparing [] [.s 9#6]) = true ∧
    tb.allPerformed tb.g.ref = true ∧ tb.g.ref.twin = false ∧
    (tb.myLaunch?.bind (fun l => l.bandList[0]?)) = some { members := [(0, 0)], oneCrew := true, phase := 0#32, arrived := [] } ∧
    (band2.myLaunch?.bind (fun l => l.bandList[0]?)).isSome = true ∧ band2.goes (.comparing [] [.s 9#6]) = true ∧
    band2.isOver 1 0 1 = false ∧ [(0, 0)].filter (fun m => m != (tb.g.ref.crew, tb.g.ref.gang)) = [] ∧
    (let u := Uses.comparing (pairRegs 10#5 ++ [.s 9#6]) [.s 8#6]
     (bt bFree).goes u = true ∧ homes ((bt bFree).begun u) .atomic 32 32 (fun t l => l.here && l.bytes.length == 32 &&
       (t.binderAt l.bytes).scope != 3 && (t.binderAt l.bytes).regtab != 0) = true ∧
     (bt { bFree with w3 := 0#64 }).goes u = true ∧ homes ((bt { bFree with w3 := 0#64 }).begun u) .atomic 32 32 (fun t l =>
       (t.binderAt l.bytes).scope != 3 && (t.binderAt l.bytes).regtab == 0) = true ∧
     (let n := { bFree with w0 := 3#64, w3 := 0#64 }
      (far1 (bt n)).goes u = true ∧ homes ((far1 (bt n)).begun u) .atomic 32 32 (fun t l => (t.binderAt l.bytes).scope == 3) = true)) := by decide

/-- A WAIT on one time condition. -/
def wTime (tout : Option Pair) : WaitSpec :=
  { all := false, consume := false, timeout := tout, c0 := .time 10#5, c1 := .unused, c2 := .unused, c3 := .unused }

theorem wit_WaitResults :
    tp.goes (.switching (pairRegs 10#5 ++ optRegs none) [.s 9#6]) = true ∧
    tp.goes (.switching (pairRegs 10#5 ++ optRegs (some 11#5)) [.s 9#6]) = true ∧
    (tp.view tp.myIface).toNat < (tp.rdP 10#5).toNat ∧ (tb.rdP 10#5).toNat ≤ (tb.view tb.myIface).toNat ∧
    tp.rdP 11#5 = 0#64 ∧ (tp.wrP 11#5 5#64).rdP 11#5 ≠ 0#64 ∧
    (let s := inside tp (.wait 9#6 (wTime (some 11#5)) (some 0))
     s.g.sch.run = .wait 9#6 (wTime (some 11#5)) (some 0) ∧ s.mayGoOn s.g.ref = true ∧
     good (s.condHomes false (waitConds (wTime (some 11#5)))) (fun ls => ls == [none, none, none, none] &&
       !s.condHolds (.time 10#5) none) = true ∧ s.passed (some 0) = true) ∧
    (inside tp (.wait 9#6 (wTime none) none)).passed none = false ∧
    (let s := inside tb (.wait 9#6 (wTime none) none)
     good (s.condHomes false (waitConds (wTime none))) (fun ls => ls == [none, none, none, none] && s.condHolds (.time 10#5) none) = true) := by
  decide

/-- A WAIT on the time and on a token register. -/
def wTwo : WaitSpec := { wTime none with c1 := .token 12#6 }

theorem wit_WaitResults_conditions :
    let u := Uses.switching (((waitConds wTwo).map condRegs).flatten ++ optRegs wTwo.timeout) [.s 9#6]
    tp.packet.plumb = false ∧ wTwo.consume = false ∧ (waitConds wTwo).any tp.condIllegal = false ∧ tp.wq = [] ∧ tp.goes u = true ∧
    good ((tp.begun u).condHomes false (waitConds wTwo)) (fun ls =>
      (waitFires wTwo (fun i => (tp.begun u).condHolds ((waitConds wTwo).getD i .unused) (ls.getD i none))).isSome) = true ∧
    good ((tp.begun (.switching (((waitConds (wTime (some 11#5))).map condRegs).flatten ++ optRegs (some 11#5)) [.s 9#6])).condHomes false
      (waitConds (wTime (some 11#5)))) (fun ls =>
        (waitFires (wTime (some 11#5)) (fun i => tp.condHolds ((waitConds (wTime (some 11#5))).getD i .unused) (ls.getD i none))).isNone) = true ∧
    (waitConds { wTime none with c0 := .rnEmpty 0#6 }).any tb.condIllegal = true := by decide

theorem wit_WaitResults_saved :
    let s := inside (tsite (.saved 0 0) .no) (.wait 9#6 (wTime none) none)
    s.mayGoOn s.g.ref = false ∧ good (s.condHomes false (waitConds (wTime none))) (fun _ => true) = true := by decide

/-- `tb` in a STAGED launch of one stage with a ring header at offset 0 of the allocation. -/
def ring (h : Nat) : State :=
  put (tb.modLaunch 1 (fun l => { l with
    packet := { l.packet with flags := 0x80#8 }
    stageList := [{ entry := programCode, ring := 0, roles := 0#6, minGangs := 1, maxGangs := 1 }] }))
    (((Place.scratch tb.myCore tb.myBase).key).getD 0) 16 h

/-- The ring's header in `s` has a property. -/
def ringOk (s : State) (p : RingHeader → Bool) : Bool :=
  good (s.checkOffset true 16 1 (s.ringAt 0)) (fun l => l.here && l.bytes.length == 16 &&
    p { raw := BitVec.ofNat 128 (leValue (l.bytes.map s.homeByte)) })

theorem wit_RingResults :
    let up := Uses.comparing (pairRegs 10#5) [.s 9#6]
    let ut := Uses.switching [] (.s 9#6 :: pairRegs 10#5)
    let open1 := 2 ^ 96 + 2
    (ring open1).packet.staged = true ∧ (ring open1).packet.plumb = false ∧ (ring open1).wq = [] ∧ (ring open1).defer = false ∧
    (1#2).toNat = (ring open1).stages.length ∧ (ring open1).goes up = true ∧ (ring open1).goes ut = true ∧
    ringOk ((ring open1).begun up) (fun h => !h.bad && h.cap == 2 && h.occupancy == 1 && h.head != h.tail) = true ∧
    good (((ring open1).begun up).checkOffset false 8 1 (16 + 8)) (fun m => m.here && m.bytes.length == 8) = true ∧
    ((ring open1).begun ut).flushCoalescer.quiet (ring open1).g.ref = true ∧
    ringOk ((ring open1).begun ut).flushCoalescer (fun h => !h.bad && h.cap == 2) = true ∧
    ringOk (ring (4 * 2 ^ 96 + 2)) (fun h => !h.bad && h.occupancy == 4) = true ∧
    ringOk (ring 2) (fun h => !h.bad && h.head == h.tail) = true ∧ ringOk (ring 0) (fun h => !h.bad && h.cap == 0) = true ∧
    ringOk (ring 11) (fun h => h.bad) = true ∧ ((ring 2).modG (fun g => { g with sc := { g.sc with handler := true } })).g.sc.handler = true ∧
    (ring open1).myLaunch?.isSome = true := by decide

/-! ### Witnesses: seals, barrier objects, queued writes, system instructions -/

theorem wit_SealResults :
    let u := Uses.comparing (pairRegs 10#5 ++ [.s 9#6]) [.s 8#6]
    let s := (tb.wrP 10#5 programCode).wr 9#6 1#32
    s.goes u = true ∧ tp.goes u = true ∧ (tp.rdP 10#5).toNat % 65536 ≠ 0 ∧ (s.rdP 10#5).toNat % 65536 = 0 ∧ s.wq = [] ∧ s.defer = false ∧
    good ((s.begun u).sealGranules (s.rdP 10#5) (s.rd 9#6).toNat) (fun gs => gs == [(2, none)]) = true := by decide

/-- `tb` with a barrier object of `v` at offset 0x40 of the allocation and a pointer to it in s20.d. -/
def barT (v : Nat) : State :=
  put (tb.wrP 10#5 (makePtr [0xFFF] 0x40)) (((Place.scratch tb.myCore (tb.myBase + 0x40)).key).getD 0) 16 v

theorem wit_BarrierObjectResults :
    let u := Uses.comparing (pairRegs 10#5) [.s 9#6]
    (barT (2 ^ 32)).goes u = true ∧
    good (((barT (2 ^ 32)).begun u).checkBar ((barT (2 ^ 32)).rdP 10#5)) (fun x => x.2.here && x.2.bytes.length == 16 &&
      x.1.allPerformed tb.g.ref && (x.1.barAt x.2.bytes).arrivals == 1) = true ∧
    good (((wr1 (barT (2 ^ 32))).begun u).checkBar ((barT (2 ^ 32)).rdP 10#5)) (fun x => !x.1.allPerformed tb.g.ref) = true ∧
    (let s := (((barT (2 ^ 32)).wrP 11#5 (programCode + 0x100#64)).wr 56#6 1#32).wr 57#6 0#32
     let s := s.wr 58#6 0#32
     let h := lh 11#5 .x4
     let u := lmUses h false (dataRegs (.v 3#8) .w ++ pairRegs 10#5) []
     let t := s.begun u
     s.lmFits h [(.v 3#8, 1)] .nw 0 = true ∧ s.goes u = true ∧ t.g.part h.guard = 1#96 ∧
     good (checkLanes (t.g.part h.guard) (fun n => t.ldxSource h .w (.v 3#8) n)) (fun ls => ls.length == 1 &&
       !t.lineBusy ((ls.map (fun y => y.2.1.bytes)).flatten) && (t.lateAt ((ls.map (fun y => y.2.1.bytes ++ y.2.2.bytes)).flatten)).isEmpty) = true ∧
     good (t.checkBar (s.rdP 10#5)) (fun x => x.1 == t && x.2.here && x.2.bytes.length == 16 && (t.lateAt x.2.bytes).isEmpty &&
       decide ((t.barAt x.2.bytes).pending + 4 ≤ 0xFFFFFFFF)) = true) := by decide

/-- The operation of an LDX of one byte to offset 0x80 of core 0, with the barrier object at 0x40. -/
def ldxOp : OpKind := .ldx [{ dst := .scratch 0 0x80, val := 9#8, bad := false }] [] (.scratch 0 0x40)

theorem wit_BarrierObjectResults_landing :
    (tOp ldxOp).ops.find? (fun o => o.id == 7) = some (anOp ldxOp) ∧ (anOp ldxOp).kind = ldxOp ∧
      (Place.scratch 0 0x80).key.isSome = true ∧ calm (tOp ldxOp) = true := by decide

theorem wit_WritePerformedRule :
    let w : PendWrite :=
      { id := 3, owner := tb.g.ref, kind := .bytes [(.hbm 0x20000, 1#8)] [0x10000] 0 (0, 0#64), ptrs := [], released := false, compared := true }
    let s := { tb with wq := [w] }
    s.wq = [w] ∧ s.isBuffered w = false ∧ ([((Place.hbm 0x20000), 1#8)].filterMap (fun b => b.1.key)).Nodup ∧
      s.allGangs.all (fun h => h.sch.run == .ready) = true := by decide

/-- `tb` in handler mode with the saved address `p`. -/
def th (p : DWord) : State := tb.modG (fun g => { g with sc := { g.sc with handler := true, trapPc := p } })

theorem wit_HandlerRule_return :
    tb.g.sc.handler = false ∧ (th programCode).g.sc.handler = true ∧ (th programCode).goes (.switching [] []) = true ∧
      (th programCode).g.sc.trapPc.extractLsb' 0 2 = 0#2 ∧ (th (programCode + 2#64)).goes (.switching [] []) = true ∧
      (th (programCode + 2#64)).g.sc.trapPc.extractLsb' 0 2 ≠ 0#2 := by decide

theorem wit_ControlResults :
    tb.packet.plumb = false ∧ tb.myCrew?.isSome = true ∧ tb.goes (.switching [] (pairRegs 10#5)) = true ∧
      tb.goes (.switching (pairRegs 10#5) []) = true ∧ tb.goes (.comparing [] []) = true := by decide

/-- `tp` with a swap table of convention 7 and one entry 0x40 behind its pointer, its code landing SHADOWED with SEL set, its
fetches through the other half. -/
def tsw : State :=
  ((put (put (tp.setEntry programKeyD { programLand with newLabel := 0b1100#12 }) 0x10010 16 (2 * 2 ^ 92 + 1)) 0x20100 16 (7 + 2 ^ 64 + 0x40 * 2 ^ 96)).modG
    (fun g => { g with fetchHalf := some (programKeyD, false) })).wrP 11#5 7#64

theorem wit_SwapSnapResults :
    let u := Uses.comparing (pairRegs 10#5 ++ [.s 9#6] ++ pairRegs 11#5) [.s 8#6]
    tsw.goes u = true ∧
    good ((tsw.begun u).checkTarget ((tsw.begun u).request .fetch 1) .load 1 (tsw.rdP 10#5)) (fun l =>
      good (tsw.begun u).codeLanding (fun c => l.key == c) && l.entry.sel) = true := by decide

theorem wit_SwapSnapResults_words :
    let u := Uses.comparing (pairRegs 10#5 ++ [.s 9#6] ++ pairRegs 11#5) [.s 8#6]
    let w (k n : Nat) : Nat := match (tsw.begun u).swapWord (tsw.rdP 10#5 + BitVec.ofNat 64 k) n with | .ok v => v | .error _ => 0
    w 0 8 = (tsw.rdP 11#5).toNat ∧ w 8 4 = 1 ∧ w 12 4 = 0x40 ∧ (tsw.rd 9#6).toNat < 1 ∧ tsw.g.fetchHalf = some (programKeyD, false) ∧ tb.rdP 11#5 ≠ 7#64 ∧
      (tsw.rdP 10#5 + 0x40#64).toNat % 4 = 0 := by decide

/-- `tb` in a SNAPSHOT launch with its snapshot. -/
def aSnap : Snapshot :=
  { set := [], copied := [], missed := [], seals := [], sels := [], nonReplayable := false, replays := 0 }
def tsn : State :=
  tb.modLaunch 1 (fun l => { l with packet := { l.packet with flags := 1#8 }, snapshot := some aSnap })

theorem wit_SwapSnapResults_snap :
    tb.packet.snapshot = false ∧ tsn.packet.snapshot = true ∧ tsn.packet.plumb = false ∧
    (tsn.wr 9#6 5#32).goes (.switching [.s 9#6] [.s 8#6]) = true ∧ ((tsn.wr 9#6 5#32).rd 9#6).toNat = 5 ∧ (tsn.ifc tsn.myIface).kept = [] ∧
    (tsn.myLaunch?.bind Launch.snapshot) = some aSnap := by decide

/-- `s` with an open transaction of granule 2 whose copy lies in granule 5. -/
def txn1 (s : State) (k : Option TxMark) : State :=
  s.modG (fun g => { g with txSerial := 1, txn := some { serial := 1, granules := [2], copies := [{ granule := 2, page := 5, iface := 0 }], far := [], pages := [0x10000], mark := k } })

theorem wit_TransactionResults :
    tb.goes (.comparing [] [.s 9#6]) = true ∧ tb.g.txn = none ∧
    (let s := txn1 tb none
     s.goes (.comparing [] [.s 9#6]) = true ∧ s.wq = [] ∧ s.ops = [] ∧ s.fab.unacked = [] ∧
     (s.g.txn.map (fun n => (n.serial, n.mark.isNone, n.granules == n.copies.map TxCopy.granule && n.copies.all (fun c => decide (c.granule < 2 ^ 24) && !n.granules.contains c.page)))) = some (1, true, true) ∧
     (s.myLaunch?.map Launch.journal) = some [] ∧ s.mem.seals = []) ∧
    (let s := (txn1 tb none).setIfc 0 { (txn1 tb none).ifc 0 with reserveUsed := [5] }
     s.mem.wf = true ∧ (s.ifc 0).reserveUsed = [5] ∧ { s.mem with seals := [2] }.seals = [2]) ∧
    (let l := (txn1 tb none).modLaunch 1 (fun l => { l with journal := [(0, 0, 1)] })
     l.goes (.comparing [] [.s 9#6]) = true ∧ (l.myLaunch?.map Launch.journal) = some [(0, 0, 1)]) ∧
    (txn1 tb (some .cut)).g.txn.bind Txn.mark = some .cut ∧ (txn1 tb (some .oversized)).g.txn.bind Txn.mark = some .oversized ∧
    (inside (txn1 tb none) (.commit 9#6)).g.sch.run = .commit 9#6 ∧
    (let s := tb.modG (fun g => { g with txn := some { serial := 1, granules := [5 * 2 ^ 32], copies := [], far := [], pages := [], mark := none } })
     s.goes (.comparing [] [.s 9#6]) = true ∧ s.fab.reach.contains 4 = false) := by decide

/-! ### Witnesses: engine instructions -/

/-- R395: a granule's bytes and poison are copied, and what the page held before is gone. -/
theorem test_copy_page :
    (let m := ((((Memory.reset.put 0x20005 7#8).put 0x50006 9#8).taint 0x20040).taint 0x50000).copyTo 2 5
     (m.get 0x50005, m.get 0x50006, m.get 0x20005, m.poison)) = (7#8, 0#8, 7#8, [0x20040 / 32, 0x50040 / 32]) := by decide

/-- A shape record: base, element size code, rank, and for dimensions 0 and 1 a stride, an extent and a clip. -/
def shape (p : DWord) (es rank s0 e0 c0 s1 e1 c1 : Nat) : Nat :=
  p.toNat + s0 * 2 ^ 64 + rank * 2 ^ 92 + s1 * 2 ^ 96 + es * 2 ^ 124 + e0 * 2 ^ 160 + e1 * 2 ^ 176 + c0 * 2 ^ 208 + c1 * 2 ^ 224

/-- One word at the page's offset `k`, and a tile of 32 by `n`. -/
def shape1 (k : Nat) : Nat := shape (programCode + BitVec.ofNat 64 k) 2 1 4 1 1 0 0 0
def shape2 (es n : Nat) : Nat := shape programCode es 2 4 32 32 128 n n

/-- `tp` with two equal records at the pointers s20.d and s22.d. -/
def te : State := (put (put tp 0x20100 32 (shape1 0x200)) 0x20120 32 (shape1 0x240)).wrP 11#5 (programCode + 0x120#64)

/-- The record at s20.d as `s` reads it, after the uses `rs` of an engine instruction with status s9. -/
def reads (s : State) (n al : Nat) (rs : List RegRef) (p : Nat → Bool) : Bool :=
  s.enGoes (some 1) 9#6 rs && good ((s.begun (enUses 9#6 rs)).readAtIssue n al (s.rdP 10#5)) p

/-- The masks of `s` set to `v`. -/
def masked (s : State) (v : Word) : State := ((s.wr 56#6 v).wr 57#6 0#32).wr 58#6 0#32

theorem wit_EngineMaskRule :
    (ring 2).lacksRole (some 2) = true ∧ tb.lacksRole (some 2) = false ∧ tb.lacksRole none = false ∧
    (masked tb 1#32).consumed (enUses 9#6 (pairRegs 10#5)) = none ∧ (masked tb 1#32).g.exec ≠ 0#96 ∧
    (masked tb 1#32).g.exec ≠ (masked tb 1#32).g.la.live ∧ (masked tb 0#32).g.exec = 0#96 ∧
    (masked tb 1#32).maskKnown = true ∧ (masked tb 1#32).stopAt = none ∧
    (masked tb 0#32).goes (enUses 9#6 (pairRegs 10#5)) = true := by decide

set_option maxRecDepth 4000 in
theorem wit_CopyResults :
    let rs := pairRegs 10#5 ++ pairRegs 11#5 ++ flagRegs .noFlag
    te.enGoes (some 2) 9#6 rs = true ∧ te.copyOps te.g.ref < 16 ∧ te.enGoes (some 2) 9#6 (pairRegs 10#5) = true ∧
    good ((te.begun (enUses 9#6 rs)).copyRecords (te.rdP 10#5) (te.rdP 11#5) (te.opFlag .noFlag)) (fun v =>
      !shapeDefect v.1 && !shapeDefect v.2 && shapesAgree (ShapeRec.ofNat v.1) (ShapeRec.ofNat v.2)) = true ∧
    good (((put te 0x20120 32 0).begun (enUses 9#6 rs)).copyRecords (te.rdP 10#5) (te.rdP 11#5) .noFlag) (fun v => shapeDefect v.2) = true := by
  decide

theorem wit_CopyResults_events :
    let a := ShapeRec.ofNat (shape1 0x200)
    let b := ShapeRec.ofNat (shape1 0x240)
    let o := anOp (.copy a b false .noFlag)
    let s := tOp (.copy a b false .noFlag)
    runsB s o = true ∧ commonClip a b = [(0, 0, 0)] ∧
    good (s.engineSource o a.bytes a.bytes (a.addr (0, 0, 0))) (fun l => l.here && l.bytes.length == a.bytes && (s.poisonedByte l.bytes).isNone) = true ∧
    good (s.engineTarget o .write .store false a.bytes a.bytes (b.addr (0, 0, 0))) (fun l => l.here && l.bytes.length == a.bytes) = true := by
  decide

theorem wit_CopyResults_publish :
    let o := anOp (.publish programCode)
    let s := tOp (.publish programCode)
    let h := { s with labels := (tb.setEntry programKeyD { programLand with newLabel := 0b100#12 }).labels }
    runsB s o = true ∧ runsB h o = true ∧ s.publishReady o = true ∧ h.publishReady o = true ∧
    (match s.translate (s.opRequest o .write 1) programCode with | .ok l => l.level == lvD && l.type == tHbm && !l.entry.shadowed | .error _ => false) = true ∧
    (match h.translate (h.opRequest o .write 1) programCode with | .ok l => l.level == lvD && l.type == tHbm && l.entry.shadowed | .error _ => false) = true := by
  decide

theorem wit_MatrixStartResults :
    tb.arrayHolder tb.myCore = none ∧ tp.enGoes (some 1) 9#6 [] = true ∧
    reads (put tp 0x20100 32 (shape2 1 32)) 32 32 (pairRegs 10#5) (fun v => let r := ShapeRec.ofNat v
      !shapeDefect v && r.rank == 2 && r.esize == MxFmt.f16.esize && r.ext0 == 32 && r.ext1 == MxFmt.f16.rows) = true ∧
    reads (put tp 0x20100 32 (shape2 2 64)) 32 32 (pairRegs 10#5) (fun v => let r := ShapeRec.ofNat v
      !shapeDefect v && r.rank == 2 && r.esize == DrainFmt.f32.esize && r.ext0 == 32 && decide (1 ≤ r.ext1 ∧ 0 + r.ext1 ≤ 64)) = true ∧
    reads (put tp 0x20100 32 (shape programCode 0 2 0 32 32 96 128 128)) 32 32 (pairRegs 10#5) (fun v => let r := ShapeRec.ofNat v
      !shapeDefect v && r.rank == 2 && r.esize == MxFmt.t6.esize && r.ext0 == 32 && r.ext1 == MxFmt.t6.rows && r.stride0 == 0) = true := by decide

/-- A record with nothing to read, of clip 0. -/
def shape0 : ShapeRec := ShapeRec.ofNat (shape programCode 1 2 2 32 0 64 32 0)

/-- The crew's array 1 in `s`. -/
def arr1 (s : State) : Option MxArray := (s.crew? tb.g.ref.crewRef).map (fun c => c.arrays[1])

theorem wit_MatrixEvents :
    (∀ k ∈ [OpKind.msw 1, .mza 1 7, .mls 1 .f16 shape0, .mst 1 7 false false .f16 shape0 0, .mred 1 7 false false .f16 shape0 0,
        .mdr 1 7 false false .f32 shape0 0],
      runsB (tOp k) (anOp k) = true ∧ (tOp k).arrayTurn (anOp k) = true ∧ (arr1 (tOp k)).isSome = true) := by decide

theorem wit_MatrixEvents_fill :
    let k := OpKind.mls 1 .f16 shape0
    let x := (tOp k).mxReadAll (anOp k) .f16 shape0 (fun i0 i1 => i1 * 32 + i0)
    x.wait = false ∧ x.err = none ∧ nx (exec (.mlsFill 7) (tOp k)) (fun t => t.ops.isEmpty) = true := by decide

theorem wit_MatrixEvents_pass :
    let k := OpKind.mst 1 7 false false .f16 shape0 0
    let x := (tOp k).mxReadAll (anOp k) .f16 shape0 (fun i0 i1 => i1 * 128 + i0)
    x.wait = false ∧ x.err = none ∧ (arr1 (tOp k)).map (fun a => (a.active.err.kind, a.active.fmt)) = some (0, .f16) ∧
      nx (exec (.mstPass 7 false) (tOp k)) (fun t => t.ops.isEmpty) = true := by decide

theorem wit_MatrixEvents_reduce :
    let k := OpKind.mred 1 7 false false .f16 shape0 0
    let x := (tOp k).mxReadAll (anOp k) .f16 shape0 (fun i0 i1 => i1 * 128 + i0)
    x.wait = false ∧ x.err = none ∧ nx (exec (.mredPass 7 false) (tOp k)) (fun t => t.ops.isEmpty) = true := by decide

theorem wit_MatrixEvents_exchange :
    nx (exec (.mswExchange 7) (tOp (.msw 1))) (fun t => t.ops.isEmpty) = true ∧
      nx (exec (.mzaClear 7) (tOp (.mza 1 7))) (fun t => t.ops.isEmpty) = true := by decide

/-- `s` with an error in accumulator 7 of the crew's array 1. -/
def bad7 (s : State) : State :=
  s.modCrew tb.g.ref.crewRef (fun c => { c with arrays := c.arrays.set 1 { c.arrays[1] with accs := c.arrays[1].accs.set 7 { err := { ArrErr.zero with kind := 0x20 }, cells := [] } } })

theorem wit_MatrixEvents_drained :
    let k := OpKind.mdr 1 7 false false .f32 shape0 0
    (arr1 (tOp k)).map (fun a => a.accs[7].err.kind) = some 0 ∧ (arr1 (bad7 (tOp k))).map (fun a => a.accs[7].err.kind) = some 0x20 ∧
      runsB (bad7 (tOp k)) (anOp k) = true ∧ (bad7 (tOp k)).arrayTurn (anOp k) = true ∧
      nx (exec (.mdrDrain 7) (bad7 (tOp k))) (fun t => t.ops.isEmpty) = true ∧
      nx (exec (.mdrDrain 7) (tOp k)) (fun t => t.ops.length == 1) = true := by decide

theorem wit_MatrixEvents_drain :
    let r := ShapeRec.ofNat (shape programCode 2 2 4 32 1 128 1 1)
    let k := OpKind.drained (List.replicate 32 5#32) .zero false false .f32 r
    runsB (tOp k) (anOp k) = true ∧ (tOp k).arrayTurn (anOp k) = true ∧ indices (r.clip 0) (r.clip 1) 1 = [(0, 0, 0)] ∧ ArrErr.zero.kind = 0 ∧
    good ((tOp k).engineTarget (anOp k) .write .store false r.bytes r.bytes (r.addr (0, 0, 0))) (fun l => l.here && l.bytes.length == r.bytes) = true := by
  decide

theorem wit_MatrixEvents_swap :
    let s := inside tb .arrays
    (s.crew? s.g.ref.crewRef).map (fun k => (k.site.isResident, k.site.core)) = some (true, 0) ∧ s.g.sch.run = .arrays ∧
      s.arrayHolder 0 = none := by decide

/-- A dispatch descriptor with every pointer at the page's start. -/
def descr : Nat := 2 ^ 104 + 16 * 2 ^ 64 + (List.range 6).foldl (fun v i => v + programCode.toNat * 2 ^ (192 + 64 * i)) 0

/-- `tp` with that descriptor at the pointer of 64 bytes alignment. -/
def td : State := put tp 0x20100 128 descr

set_option exponentiation.threshold 1100 in
set_option maxRecDepth 8000 in
theorem wit_DispatchResults :
    td.enGoes (some 3) 9#6 (pairRegs 10#5 ++ ([] : List SReg).map RegRef.s) = true ∧
    td.enGoes (some 3) 9#6 (pairRegs 10#5 ++ (DstatSel.regs (.gcount 3#6 4#6)).map RegRef.s) = true ∧ td.dispatchOps td.g.ref < 4 ∧
    descriptorDefect descr = false ∧ good ((td.begun (enUses 9#6 (pairRegs 10#5))).areaKey (Descriptor.ofNat descr).ctx) (fun _ => true) = true ∧
    good ((td.begun (enUses 9#6 (pairRegs 10#5))).readAtIssue 128 64 (td.rdP 10#5)) (fun v => v == descr) = true := by decide

/-- The descriptor of a group of one participant and one expert in a slot of one row of 16 bytes, without tokens; the tables lie in the
page: the context area at 0x1000, the participants at 0x2000, the expert map at 0x2040, the rows at 0x3000. -/
def dw : Nat :=
  let at' (k i : Nat) : Nat := (programCode + BitVec.ofNat 64 k).toNat * 2 ^ (64 * i)
  (2 ^ 40 + 16) * 2 ^ 64 + 2 ^ 32 * 2 ^ 128 + at' 0x2000 3 + at' 0x2040 4 + at' 0x1000 5 + at' 0x3000 6 + at' 0x3000 7 + at' 0x3100 8

def dg : Descriptor := Descriptor.ofNat dw

/-- A dispatch operation of that group under way, the area's SEQ and STATE at `h`. -/
def tdg (k : OpKind) (h : Nat) : State :=
  put (put (tOp k) 0x22000 32 ((programCode + 0x3200#64).toNat * 2 ^ 64 + (programCode + 0x3300#64).toNat * 2 ^ 128 + (programCode + 0x1000#64).toNat * 2 ^ 192))
    0x21000 8 h

/-- The one operation of `s` is of this kind, runs, and has its turn. -/
def turn (s : State) (k : OpKind) : Bool := runsB s (anOp k) && s.ops == [anOp k] && s.dispatchTurn (anOp k) && s.mayGoOn s.g.ref

set_option exponentiation.threshold 800 in
theorem wit_DispatchResults_count :
    descriptorDefect dw = false ∧ turn (tdg (.dcnt dg 0#64) 0) (.dcnt dg 0#64) = true ∧
      nx (exec (.operationCompletion 7) (tdg (.dcnt dg 0#64) 0)) (fun t => t.ops.isEmpty && t.mem.value 0x21000 8 == 2 ^ 32 + 1) = true := by decide +kernel

set_option exponentiation.threshold 800 in
theorem wit_DispatchResults_plan :
    turn (tdg (.dplan dg 0#64 .start) (2 ^ 32 + 1)) (.dplan dg 0#64 .start) = true ∧
      nx (exec (.operationCompletion 7) (tdg (.dplan dg 0#64 .start) (2 ^ 32 + 1))) (fun t => turn t (.dplan dg 0#64 .counts) &&
        nx (exec (.dplanCountsArrived 7) t) (fun u => turn u (.dplan dg 0#64 .tags) &&
          nx (exec (.dplanInvtagsArrived 7) u) (fun v => v.ops.isEmpty && v.mem.value 0x21000 8 == 2 ^ 32 + 2))) = true := by decide +kernel

set_option exponentiation.threshold 800 in
theorem wit_DispatchResults_scatter :
    turn (tdg (.dscat dg 0#64) (2 ^ 32 + 2)) (.dscat dg 0#64) = true ∧
      nx (exec (.dscatScatbAddition 7) (tdg (.dscat dg 0#64) (2 ^ 32 + 2))) (fun t => t.ops.isEmpty && t.mem.value 0x21000 8 == 2 ^ 32 + 3) = true := by
  decide +kernel

set_option exponentiation.threshold 800 in
theorem wit_DispatchResults_gather :
    turn (tdg (.dgath dg 0#64 .start) (2 ^ 32 + 3)) (.dgath dg 0#64 .start) = true ∧
      nx (exec (.operationCompletion 7) (tdg (.dgath dg 0#64 .start) (2 ^ 32 + 3))) (fun t => turn t (.dgath dg 0#64 .tags) &&
        nx (exec (.dgathGathtagsArrived 7) t) (fun u => u.ops.isEmpty && u.mem.value 0x21000 8 == 2 ^ 32 + 4)) = true := by decide +kernel

set_option exponentiation.threshold 800 in
theorem wit_DispatchResults_status :
    let k := OpKind.dstat dg 0#64 .state 0#32 0#32
    turn (tdg k (2 ^ 32 + 3)) k = true ∧ nx (exec (.operationCompletion 7) (tdg k (2 ^ 32 + 3))) (fun t => t.ops.isEmpty && t.rd 9#6 == 3#32) = true := by
  decide

set_option exponentiation.threshold 800 in
theorem wit_DispatchResults_saved :
    ∀ k ∈ [OpKind.dplan dg 0#64 .counts, .dplan dg 0#64 .tags, .dgath dg 0#64 .tags],
      let s := { tdg k 0 with crews := [{ programCrew 1 with site := .saved 0 0 }] }
      runsB s (anOp k) = true ∧ s.mayGoOn (anOp k).owner = false := by decide

/-- A group of one participant with four experts, two of them routed to per token, and its expert map. -/
def dg4 : Descriptor := { dg with nexp := 4, k := 2, ntok := 3 }
def slotMap (n : Nat) : List Nat := (List.range n).map (fun i => i * 65536)

set_option exponentiation.threshold 800 in
theorem wit_DispatchResults_values :
    dg.npart = 1 ∧ dg.myRank = 0 ∧ dg4.npart = 1 ∧ dg4.choices.length = 6 ∧
      expertHome dg4 (slotMap 4) 2 = some (0, 2) ∧ (∀ e < 4, expertHome dg4 (slotMap 4) e = some (0, 2) → e = 2) ∧
      routedHome dg4 (slotMap 4) (2, true, 0) = some (0, 2) ∧ routedHome dg4 (slotMap 4) (9, false, 0) = none ∧
      f32.decode 0x3F000000 = .fin false 8388608 (-24) := by decide

theorem wit_PopulationResults :
    let p : Population := { pend := false, pval := 0#32, serial := 0, ctr := 0#128 }
    let s := tpop.modLaunch 1 (fun l => { l with population := some p })
    s.packet.isPopulation = true ∧ (s.myLaunch?.bind Launch.population) = some p ∧ s.enGoes (some 4) 9#6 (pairRegs 10#5 ++ pairRegs 11#5) = true ∧
    s.enGoes (some 4) 9#6 [.s 8#6] = true ∧ (Src.v 3#8).vEnd 1 ≤ s.packet.vregs ∧
    (let u := Uses.comparing (.s 8#6 :: (Src.v 3#8).regs false 0) (execRegs ++ [.s 9#6])
     s.consumed u = none ∧ (masked s 1#32).consumed u = none ∧ (masked s 1#32).g.exec ≠ (masked s 1#32).g.la.live ∧ s.g.exec = s.g.la.live ∧
       (masked s 1#32).maskKnown = true ∧ (masked s 1#32).stopAt = none ∧ s.goes u = true ∧ s.g.bd.pending = [] ∧ s.ops = []) ∧
    (let s := (ring 2).modLaunch 1 (fun l => { l with population := some p, packet := { l.packet with flags := 0x88#8 } })
     s.packet.isPopulation = true ∧ s.lacksRole (some 4) = true) := by decide

set_option maxRecDepth 8000 in
theorem wit_PopulationResults_collective :
    let p : Population := { pend := false, pval := 0#32, serial := 0, ctr := 0#128 }
    let s0 := inside (tpop.modLaunch 1 (fun l => { l with population := some p })) (.sieve 9#6 0#32 (.v 3#8))
    (([((⟨s0.g.ref, 0⟩ : Slot), 3)] : List (Slot × Nat)).map Prod.snd).sum ≠ 0 ∧ (s0.launch? s0.g.ref.launch).isSome = true ∧ s0.packet.plumb = false ∧
    s0.gangs = [] ∧ s0.g.ref.twin = false ∧ s0.g.ref ≠ noGang ∧ s0.g.sch.run = .sieve 9#6 0#32 (.v 3#8) ∧
    ((s0.launch? s0.g.ref.launch).map (fun l => s0.sieveReady l false)) = some true ∧
    ((liveWeights [s0.g]).map (fun x => x.2.1)).sum = 0 := by decide

/-- `tpop` with its gang at a collective with N = `n`, lane 0 alone alive and of weight 1. -/
def tsieve (n : Word) : State :=
  let p : Population := { pend := false, pval := 0#32, serial := 0, ctr := 0#128 }
  (inside (tpop.modLaunch 1 (fun l => { l with population := some p })) (.sieve 9#6 n (.v 3#8))).modG (fun g =>
    { g with la := { g.la.setV 3 (Vector.replicate 96 0x3F800000#32) with live := 1#96 } })

set_option maxRecDepth 8000 in
theorem wit_PopulationResults_survival :
    (tsieve 1#32).gangs = [] ∧ (tsieve 1#32).g.sch.run = .sieve 9#6 1#32 (.v 3#8) ∧ (tsieve 1#32).g.badLanes = 0#96 ∧
    ((tsieve 1#32).launch? (tsieve 1#32).g.ref.launch).map (fun l => ((tsieve 1#32).sieveReady l false, l.packet.plumb)) = some (true, false) ∧
    ((liveWeights [(tsieve 1#32).g]).map (fun x => x.2.1)).sum = 2 ^ 149 ∧
    (offspring 1 0 (2 ^ 149) 0 [((⟨tb.g.ref, 0⟩ : Slot), 2 ^ 149)]).map Prod.snd = [1] := by decide

/-- `tsieve 2` with lane 1 dead and present: lane 0 is copied there. -/
def tclone : State := (tsieve 2#32).modG (fun g => { g with la := { g.la with present := 3#96 } })

set_option maxRecDepth 8000 in
theorem wit_PopulationResults_clone :
    tclone.gangs = [] ∧ tclone.g.sch.run = .sieve 9#6 2#32 (.v 3#8) ∧ tclone.g.badLanes = 0#96 ∧
    (tclone.launch? tclone.g.ref.launch).map (fun l => (tclone.sieveReady l false, l.packet.plumb)) = some (true, false) ∧
    tclone.g.la.live &&& ~~~ tclone.g.la.present = 0#96 ∧
    (offspring 2 0 (2 ^ 149) 0 [((⟨tb.g.ref, 0⟩ : Slot), 2 ^ 149)]).map Prod.snd = [2] := by decide

/-- R365: weights in units of 2^-149; -0 is a zero weight and a negative one is bad. -/
theorem test_lane_weight :
    [0x3F800000, 0x80000000, 0x80000001, 1, 0x7F800000].map laneWeight =
      [(2 ^ 149, false), (0, false), (0, true), (1, false), (0, true)] := by decide

/-- `tb` with a multicast group 5 of its interface without children. -/
def tgrp : State :=
  { tb with fab := { tb.fab with groups := [(5, { tree := [], valid := true, owner := 0, dest := 0#64, flag := 0#64, limit := 0 })] } }

theorem wit_FabricStartResults :
    tb.enGoes (some 5) 9#6 [.s 1#6, .s 2#6, .s 3#6, .s 4#6] = true ∧ tb.mcastOps tb.g.ref < 4 ∧ tb.enGoes (some 5) 9#6 [] = true ∧
    tb.enGoes (some 5) 9#6 [.s 1#6] = true ∧ tb.enGoes none 9#6 (pairRegs 10#5) = true ∧ tb.enGoes none 9#6 [] = true := by decide

theorem wit_FabricStartResults_end :
    (∀ k ∈ [OpKind.value 5#32 .other, .rack none, .rack (some 5), .peerq .state 0, .peerq .state 5], runsB (tOp k) (anOp k) = true) ∧
      tb.fab.unacked = [] ∧ tb.g.discarded = [] ∧ nx (exec (.operationCompletion 7) (tOp (.rack none))) (fun t => t.ops.isEmpty) = true := by decide

theorem wit_FabricStartResults_locate :
    let b := tp.begun (enUses 9#6 (pairRegs 10#5))
    let q := { tp with quiesces := [{ id := 4, what := .entry programKeyC programHop, port := some 0 }] }
    (b.locValue (b.request .read 1) (tp.rdP 10#5)).isSome = true ∧ q.enGoes none 9#6 (pairRegs 10#5) = true ∧
      (q.begun (enUses 9#6 (pairRegs 10#5))).locValue ((q.begun (enUses 9#6 (pairRegs 10#5))).request .read 1) (q.rdP 10#5) = none := by decide

theorem wit_FabricStartResults_region : tb.myAlloc = 4096 ∧ ((tb.wr 1#6 4080#32).rd 1#6).toNat = 4080 := by decide

theorem wit_FabricStartResults_group :
    (tb.group 5).valid = false ∧ (tgrp.group 5).valid = true ∧ (tgrp.group 5).owner = tgrp.myIface ∧
    tgrp.poisonedByte ((Place.scratch tb.myCore (tb.myBase + 16)).run 16) = none ∧ childTrees (tgrp.group 5).tree = [] := by decide

/-! ### Witnesses: commands, placement, faults -/

theorem wit_CommandEvents :
    (let s := { tb with issuing := false }.promoteDue 0 0
     s.issuing = false ∧ (firstToIssue (s.allGangs.filter (s.readyOn 0 0))).map Gang.ref = some tb.g.ref) ∧
    (let s := ({ tb with issuing := false }.modG (fun g => { g with sch := { g.sch with notIssued := 64 } })).promoteDue 0 0
     (firstToIssue (s.allGangs.filter (s.readyOn 0 0))).map (fun h => h.sch.promoted.isSome) = some true) ∧
    (let s := tb.modG (fun g => { g with sch := { g.sch with notIssued := 64 } })
     (s.gang? tb.g.ref).map (fun h => (h.sch.notIssued, h.sch.promoted)) = some (64, none)) ∧
    (tb.gang? tb.g.ref).isSome = true ∧ tb.remotePending tb.g.ref (.s 9#6) = false ∧ tb.lateOp? tb.g.ref (.s 9#6) = none ∧ calm tb = true ∧
    tb.pkg.boot = 0x80 := by decide

/-- A load of four bytes whose data has not returned. -/
def lateOp : OpKind := .localLoad (.scalar 9#6 false) 4 [.s 9#6] [{ lane := 0, places := (Place.hbm 0x20100).run 4, seen := 0 }]

theorem wit_CommandEvents_late :
    (tOp lateOp).remotePending tb.g.ref (.s 9#6) = false ∧ (tOp lateOp).lateOp? tb.g.ref (.s 9#6) = some (anOp lateOp) ∧
    ((tOp lateOp).gang? tb.g.ref).map (fun h => h.sch.run.isOver) = some false ∧ calm (tOp lateOp) = true ∧
    (tOp lateOp).poisonedByte ((Place.hbm 0x20100).run 4) = none := by decide

/-- `tb` without its launch, with queue 0 of interface 0 at the page's offset 0x100, one packet behind HEAD. -/
def tq : State :=
  ({ tp with launches := [], crews := [], gangs := [], g := { tp.g with ref := noGang }, issuing := false }).setQueue 0 0
    { base := programCode + 0x100#64, tail := 1#32, head := 0#32, error := false, enable := true, log2 := 4 }

theorem wit_CommandEvents_queue :
    0 < (tq.ifc 0).queues ∧ (tq.queue 0 0).enable = true ∧ (tq.queue 0 0).error = false ∧ 2#32 ≠ (tq.queue 0 0).tail ∧
    tq.qselReserved 0 = false ∧ tq.qsel 0 < (tq.ifc 0).queues ∧ (tq.setReg 0 rQSel 0x400#64).qselReserved 0 = true ∧
    (let s := (tq.setReg 0 rQData 0x204#64).setReg 0 (rQData + 24) (programCode + 0x100#64)
     let d := s.qdata 0
     d.extractLsb' 11 117 = 0#117 ∧ d.extractLsb' 5 4 = 0#4 ∧ (d.extractLsb' 0 5).toNat = 4 ∧ d.extractLsb' 192 7 = 0#7 ∧
       d.getLsbD 9 = true ∧ d.extractLsb' 192 64 = (s.queue 0 0).base) := by decide

/-- The first words of a kernel packet: one crew of one gang with 256 registers and 96 lanes. -/
def tk : State := put tq 0x20100 24 (programCode.toNat * 2 ^ 64 + (15 * 2 ^ 32 + 96 * 2 ^ 25) * 2 ^ 128)

set_option maxRecDepth 16000 in
theorem wit_CommandEvents_dequeue :
    tk.servable 0 0 = true ∧
    good (tk.cpRead 0 (tk.queue 0 0).slotPtr 128) (fun bs => let p := Packet.ofWords (packetWords bs)
      tk.mayBegin 0 0 p.overlap && (match tk.checkPacket 0 false (packetWords bs) p with | .ok (.kernel _ _ _) => true | _ => false)) = true := by decide

/-- A replay of one node whose packet is at the page's offset 0x100. -/
def aReplay : Replay :=
  { iface := 0, queue := 0, slot := 0, seq := 9, header := 0, packet := Packet.zero, nodes := 1, nodePtr := programCode + 0x100#64,
    edges := [], patches := [], done := [], discarded := false, running := [] }

set_option maxRecDepth 16000 in
theorem wit_CommandEvents_graph :
    let s := { tk with replays := [aReplay] }
    s.replays.find? (fun x => x.seq == 9) = some aReplay ∧ s.nodeReady aReplay 0 = true ∧
    good (s.cpRead 0 (aReplay.nodePtr + BitVec.ofNat 64 (128 * 0)) 128) (fun bs =>
      (match s.checkPacket 0 true (packetWords bs) (Packet.ofWords (packetWords bs)) with | .ok (.kernel _ _ _) => true | _ => false)) = true := by
  decide

/-- `tb` with its crew not placed yet. -/
def tun : State := { tq with launches := [{ programLaunch 1 with nextCrew := 0 }] }
theorem wit_PlacementEvents :
    (tun.reap.launch? 1).isSome = true ∧ ((tun.reap.firstFor 0).map Launch.seq) = some 1 ∧
    ((tun.reap.launch? 1).map (fun l => (tun.reap.nextCrewOf l, l.packet.cosched, l.packet.plumb, (tun.reap.pipes 0 l.packet).isSome,
      tun.reap.findBase 0 (allocBytes l.packet.scratch)))) = some (some (0, false), false, false, true, some 0) ∧ tun.coreOn 0 = true ∧ tun.pw.pstate = .active ∧
    ((tb.launch? 1).map (fun l => decide (l.packet.start.toNat ≤ (tb.view l.iface).toNat))) = some true ∧
    (let s := tb.modLaunch 1 (fun l => { l with watch := 5, packet := { l.packet with watchdog := 5#64 } })
     (s.launch? 1).map (fun l => (l.packet.watchdog, l.watch, l.phase, l.halted)) = some (5#64, 5, .running, false) ∧ s.records = []) := by decide

theorem wit_PlacementEvents_end :
    let s := (inside tb .ended).modLaunch 1 (fun l => l)
    s.reap.fab.coalesced.isEmpty = true ∧ ((s.reap.launch? 1).map (fun l => (l.phase, s.reap.crewsEnded l, s.reap.launchQuiet 1, (s.reap.unconsumed 1).isNone))) =
      some (.running, true, true, true) ∧
    ((s.reap.launch? 1).bind (fun l => ((s.reap.freeHeld 1).2.dropLaunch l).report l (s.reap.freeHeld 1).1)).isSome = true := by decide

theorem wit_PlacementEvents_save :
    let c := tb.g.ref.crewRef
    ((tb.crew? c).map (fun k => (k.site.isResident, k.preempt))) = some (true, .no) ∧ tb.crewEnded c = false ∧
    (((tsite (.resident 0 0) (.drain (some 0))).crew? c).map Crew.preempt) = some (.drain (some 0)) ∧
    (let s := inside (tsite (.resident 0 0) .save) .stopped
     s.crewStopped c = true ∧ s.crewQuiet c = true ∧ (s.crew? c).map Crew.preempt = some .save ∧ s.preemptUnit c = s.crews ∧ s.crews.length = 1 ∧
       s.fab.coalesced = [] ∧ s.wq = [] ∧ s.ops = [] ∧ s.bufferedInto c = false ∧ calm s = true) := by decide

theorem wit_PlacementEvents_resume :
    let s := inside (tsite (.saved 0 0) .no) .stopped
    ((s.reap.launch? 1).map (fun l => ((s.reap.resumeUnit l).map Crew.ref, l.packet.cosched, (s.reap.pipes 0 l.packet).isSome))) =
      some ([tb.g.ref.crewRef], false, true) ∧ ((s.reap.firstFor 0).map Launch.seq) = some 1 ∧ s.coreOn 0 = true ∧
    s.reap.rangeFree 0 0 (allocBytes 4096) = true ∧ s.pw.pstate = .active ∧
    s.crews.all (fun k => Sparse.wf 0#8 k.savedBytes) = true := by decide

/-- A record of the selected gang. -/
def aRec (kind : Nat) : FaultRec :=
  { id := 6, iface := 0, time := 0, seq := 2, info := .plain kind, pc := 0#64, handler := false, parked := true, gang := tb.g.ref, written := false }

theorem wit_FaultEvents :
    (let s := ({ tp with records := [aRec 0x41] }.setReg 0 rFqCtl 0x206#64).setReg 0 rFqBase (programCode + 0x100#64)
     s.nextRecord 0 = some (aRec 0x41) ∧ s.fqOpen 0 = true ∧ (aRec 0x41).time ≠ ({ s with time := 1 }.view 0).toNat ∧
     { s with time := 1 }.nextRecord 0 = some (aRec 0x41) ∧ { s with time := 1 }.fqOpen 0 = true ∧ s.mem.wf = true ∧ s.reg 0 rFqNotify = 0#64 ∧
     good (s.cpWrite 0 (s.reg 0 rFqBase + BitVec.ofNat 64 (64 * (((s.reg 0 rFqTail).extractLsb' 0 32).toNat % s.fqSlots 0))) (aRec 0x41).bytes)
       (fun _ => true) = true) ∧
    (let s := inside { tp with records := [aRec 0x41] } (.parked 6)
     s.recordOf 0 2 = some (aRec 0x41) ∧ (s.launch? (aRec 0x41).gang.launch).map Launch.phase = some .running ∧
       s.allGangs.any (fun h => h.sch.run == .parked 6) = true) ∧
    (0x20C#64 &&& ~~~ 0x21F#64 = 0#64 ∧ (0x20C#64 : DWord).extractLsb' 0 5 = 12#5) ∧ (0x4#64 &&& ~~~ 0x21F#64 = 0#64) ∧
    (0x40#64 : DWord).extractLsb' 0 6 = 0#6 := by decide

/-- `tb` rolling back, with a snapshot that has been replayed `n` times. -/
def troll (n : Nat) (p : Option Snapshot) : State :=
  (inside tb .ended).modLaunch 1 (fun l => { l with phase := .rolling 0x20 tb.g.ref none, snapshot := p.map (fun p => { p with replays := n }) })

theorem wit_FaultEvents_rollback :
    ((troll 0 (some aSnap)).launch? 1).map Launch.phase = some (.rolling 0x20 tb.g.ref none) ∧ (troll 0 (some aSnap)).gangsOver 1 = true ∧
    (troll 0 (some aSnap)).launchQuiet 1 = true ∧ (troll 3 (some aSnap)).gangsOver 1 = true ∧ (troll 0 none).gangsOver 1 = true ∧
    (let k : Kept := { name := 5, launch := 1, snap := { aSnap with set := [(2, 1)], copied := [(2, 5)] } }
     let s := tb.setIfc 0 { tb.ifc 0 with kept := [k] }
     let u := s.modLaunch 1 (fun l => { l with snapshot := some { aSnap with set := [(2, 1)] } })
     (s.ifc 0).kept.find? (fun x => x.name == 5) = some k ∧ s.inUse k.snap = false ∧ u.inUse k.snap = true) := by decide

/-! ### Witnesses: tables, ports, flits, reconfiguration, power -/

/-- `tb` with LTSEL of interface 0 and the bits of an entry in LTDATA. -/
def tlt (sel : DWord) (b : BitVec 128) : State :=
  ((tb.setReg 0 rLtSel sel).setReg 0 rLtData1 (b.extractLsb' 64 64)).setReg 0 rLtData0 (b.extractLsb' 0 64)

set_option maxRecDepth 8000 in
theorem wit_TableEvents :
    (let q : Quiesce := { id := 4, what := .entry programKeyD programLand, port := some 0 }
     let s := { tb with quiesces := [q] }
     s.quiesces.find? (fun x => x.id == 4) = some q ∧ s.drained q.what = true) ∧
    (let s := tlt 0x000001#64 programHop.bits
     let e := LabelEntry.ofBits (s.reg 0 rLtData1 ++ s.reg 0 rLtData0)
     (s.ltKey 0).map (fun k => (k.reserved, k.level, e.defect k)) = some (false, lvC, false) ∧ e = programHop) ∧
    (let s := tlt 0x000FFF#64 programHop.bits
     (s.ltKey 0).map EntryKey.reserved = some true) ∧
    (let s := tlt 0x000001#64 programLand.bits
     (s.ltKey 0).map EntryKey.level = some lvC ∧ (LabelEntry.ofBits (s.reg 0 rLtData1 ++ s.reg 0 rLtData0)).action = .land) ∧
    (let s := tlt 0x200001#64 (2 * 2 ^ 92 + 1)
     let t := s.setIfc 0 { s.ifc 0 with alloc := { granules := [(2, 1)], pools := [], hosts := [] } }
     t.ltKey 0 = some programKeyD ∧ (t.entry programKeyD).action = .land ∧ (t.entry programKeyD).paged = true ∧ (t.reg 0 rLtAux) = 0#64 ∧
       0 < (t.entry programKeyD).pageCount ∧
       (t.reg 0 rLtData1 ++ t.reg 0 rLtData0).extractLsb' 16 35 = 0#35 ∧ (t.reg 0 rLtData1 ++ t.reg 0 rLtData0).extractLsb' 3 5 = 0#5 ∧
       (t.ifc 0).alloc.holdsPage (t.entry programKeyD) (t.reg 0 rLtData1 ++ t.reg 0 rLtData0) = true) := by decide

theorem wit_TableEvents_interface :
    tb.queuesFit 3 8 = true ∧ tb.queuesFit 3 2047 = false ∧
    tb.reaching 0 (some (.granules 9 1)) = [] ∧ tb.reachedSoon 0 (some (.granules 9 1)) = false ∧
    (tb.reaching 0 (some (.granules 2 1))).length = 1 ∧ tb.reaching 0 (some (.windows 0 60 4)) = [] ∧
    tb.reachedSoon 0 (some (.windows 0 60 4)) = false ∧ (tb.reaching 0 none).length = 2 ∧ tb.reaching 3 none = [] ∧
    tb.reachedSoon 3 none = false := by decide

theorem wit_TableEvents_other :
    tb.pkg.dieMask.getLsbD 3 = true ∧ 60 + 4 ≤ 64 ∧ (tb.ifaces.all (fun k => k.2.windows.isEmpty)) = true ∧ rLostNotify ∈ plainRegs ∧
      (1#64 : DWord).getLsbD 0 = true ∧ oneTree [17, 32] = true ∧ [17, 32].length ≤ 112 := by decide

/-- `tb` with the port `c` as port 1. -/
def tport (c : Port) : State := { tb with time := 10000, fab := { tb.fab with ports := tb.fab.ports.set 1 c, reach := [0, 5] } }

/-- A port that faces device 5 in slot 2, with `n` flits sent under its key. -/
def aPortOf (n : Nat) : Port :=
  { Port.reset with state := .up, lit := 0xFFFF#16, slot := 2, circuit := some 5, keys := [(5, 1, n)], rxKeys := [(5, 1)] }

def aPort : Port := aPortOf 7

/-- A flit of device 5 to this device with payload `bs` and pointer `p`. -/
def aFlit (type : FlitType) (p : DWord) (bs : List Byte) : Flit :=
  { dst := 0, src := 5, type := type, relay := false, hops := 0, bulk := false, iface := 0, load := 0, seq := 0, ptr := p, payload := bs, tag := 7 }

/-- `s` armed, with slot 2 of port 1 the last before its switch boundary. -/
def armed3 (s : State) : State := { s with rc := { s.rc with t := 12288, phase := .armed, portMask := 2#16 } }

theorem wit_PortEvents :
    (tport aPort).port? 1 = some aPort ∧ 256 * 1 ≤ (tport aPort).time ∧ circuitOf 0 1 8 0x10051#32 0x10001#32 = some 5 ∧
    (armed3 (tport aPort)).inLastSlot 1 2 = true ∧ (tport aPort).inLastSlot 1 2 = false ∧
    slotStart 1 aPort.slot + 3840 ≤ { tport aPort with time := 12300 }.time ∧ aPort.inGuard = false ∧ aPort.colours 0 5 ≠ 0 ∧
    aPort.key? 5 = some (5, 1, 7) ∧ { aPort with keys := [] }.key? 5 = none ∧ aPort.busy = false ∧ { aPort with busy := true }.busy = true ∧
    aPort.circuitAt 1 (tport aPort).time = some 5 ∧ (aPortOf (2 ^ 48 - 2)).key? 5 = some (5, 1, 2 ^ 48 - 2) ∧ 2 ^ 48 - 2 ^ 32 ≤ 2 ^ 48 - 2 ∧
    aPort.lit.getLsbD 3 = true ∧ { aPort with lit := 0#16 }.lit.getLsbD 3 = false ∧ { aPort with state := .dark }.state ≠ .up ∧
    (inside tb .egress).g.sch.run = .egress ∧
    (let s := { tport aPort with fab := { (tport aPort).fab with poolSeen := [(3, 2)], poolTicks := [(3, 1024)] } }
     s.fab.poolSeen.find? (fun r => r.1 == 3) = some (3, 2) ∧ 1024 ≤ s.poolTick 3 ∧ s.poolTick 2 < 1024) := by decide

theorem wit_PortEvents_send :
    (let f := { aFlit .read 0#64 [] with dst := 5 }
     let o : OutFlit := { flit := f, owner := none, mcast := none }
     let s := { tport aPort with fab := { (tport aPort).fab with transit := [o], egress := [o] } }
     s.fab.transit[0]? = some o ∧ s.relayPort f = some (1, 5) ∧ s.poolOpen f = true ∧ s.mayLeave 1 5 o = true ∧
       aPort.hasNonces 5 o.count = true ∧ (aPortOf (2 ^ 48 - 2)).hasNonces 5 o.count = false ∧
       s.fab.egress.findIdx? (fun o => o.flit.dst == 5) = some 0 ∧ s.faces 1 = some 5) ∧
    (let f := { aFlit .read 0#64 [] with dst := 4099 }
     let s := { tport aPort with fab := { (tport aPort).fab with poolTicks := [(3, 1024)] } }
     s.poolOpen f = false ∧ s.egressNoRoom f.dst 1 = false) := by decide

theorem wit_PortEvents_suspect :
    let s := { tport { aPort with litWhole := [(5, 2000000)] } with time := 2000000 }
    s.silent 5 = true ∧ 5 ∉ s.fab.suspects ∧ (List.range 64).all (fun i => s.reg i rLostNotify == 0#64) = true := by decide

/-- `tport` whose ingress label 1 reaches the page. -/
def ting : State :=
  ((tport aPort).setEntry { programKeyC with level := lvRP } { programHop with hop := 0xA0#8, m := true }).setEntry { programKeyD with level := lvRD } { programLand with m := true }

/-- `ting` once the flit `f` has its turn. -/
def turned (f : Flit) : State := (ting.hear 5).takeTurn f

theorem wit_FlitEvents :
    ting.accepts 5 = true ∧ ting.egressFull 1 = false ∧ ting.fab.stalled = [] ∧ ting.wq = [] ∧
    ting.tooEarly (aFlit .write (programCode + 0x100#64) [1#8, 2#8]) = false ∧
    { ting with fab := { ting.fab with rxSeq := [(5, 4)] } }.tooEarly (aFlit .write 0#64 []) = true ∧
    (let f := aFlit .write (programCode + 0x100#64) [1#8, 2#8]
     good ((turned f).ingress f .write .store 2 1) (fun l => l.here && l.bytes.length == 2) = true) ∧
    (let f := { aFlit .write (programCode + 0x100#64) [1#8, 2#8] with offs := [0, 3] }
     good ((turned f).ingress f .write .store 4 1) (fun l => l.here && (f.offs.filterMap (fun k => l.bytes[k]?)).length == 2) = true) ∧
    (let f := aFlit .read (programCode + 0x100#64) [0#8, 0#8]
     good ((turned f).ingress f .read .load 2 1) (fun l => l.here) = true) ∧
    (let f := aFlit .atomic (programCode + 0x100#64) (leBytes 4 3)
     good ((turned f).ingress f .atomic .atomic (MemSize.bytes .w) 4) (fun l => l.here && l.bytes.length == 4) = true) := by decide

theorem wit_FlitEvents_special :
    (let f := aFlit .atomic (programCode + 0x100#64) [2#8, 9#8]
     good ((turned f).ingress f .write .element 3 1) (fun l => l.here && l.bytes.length == 3) = true) ∧
    (let f := aFlit .atomic programCode [1#8]
     good ((turned f).ingress f .seal .sealing 1 1) (fun l => (l.bytes.head?.bind Place.key).isSome) = true) := by decide

/-- `ting` with a group 9 of interface 0 whose destination is the page and whose flag is a binder in it, or none. -/
def tmc (flag : DWord) : State :=
  { ting with fab := { ting.fab with groups := [(9, { tree := [], valid := true, owner := 0, dest := programCode + 0x100#64, flag := flag, limit := 64 })] } }

theorem wit_FlitEvents_multicast :
    let f := aFlit .mcast 9#64 [1#8]
    let s := tmc (programCode + 0x200#64)
    let t := (s.hear 5).takeTurn f
    unitDevice 0 = s.pkg.device ∧ (tb.group 9).valid = false ∧ (s.group 9).valid = true ∧ (s.group 9).owner = f.iface ∧ 3 + 1 ≤ (s.group 9).limit ∧
    ((tmc 0#64).group 9).flag = 0#64 ∧
    good (((((tmc 0#64).hear 5).takeTurn f)).checkTarget (cpReq 0 .write 1) .store 1 ((s.group 9).dest + 3#64)) (fun l => l.here && l.bytes.length == 1) = true ∧
    flt (({ t with labels := [] }).checkTarget (cpReq 0 .write 1) .store 1 ((s.group 9).dest + 3#64)) = true ∧
    good (t.cpWrite 0 ((s.group 9).dest + 3#64) f.payload) (fun v => good (v.cpBinder 0 (s.group 9).flag) (fun b =>
      (v.poisonedByte b.bytes).isNone && b.here && b.bytes.length == 32)) = true := by decide

theorem wit_FlitEvents_answers :
    (let k : OpKind := .remoteLoad (.scalar 9#6 false) none 4 [{ lane := 0, place := .peerHbm 5 0, operand := 0, expect := 0 }] 5 0#64 (.peerHbm 5 0)
     (tOp k).op? 7 = some (anOp k) ∧ calm (tOp k) = true ∧ (anOp k).owner.twin = false ∧ (tOp k).wq = [] ∧
       ((tOp k).gang? (anOp k).owner).map (fun h => (h.sch.run.isOver, h.txn)) = some (false, none)) ∧
    (let w : Unacked :=
       { id := 7, dev := 5, owner := tb.g.ref, direct := false, lines := [0], bytes := [(.peerHbm 5 0, 1#8)], pages := [], ptrs := [], released := false }
     let s := { tb with fab := { tb.fab with unacked := [w] } }
     s.fab.unacked.find? (fun x => x.id == 7) = some w ∧ w.bytes ≠ [] ∧ s.op? 7 = none ∧ (s.gang? w.owner).isSome = true ∧ calm s = true ∧
       s.fab.engine = [] ∧ s.fab.unacked.any (fun x => x.id == (anOp (.mza 0 0)).id) = true) ∧
    (ting.port? 1).isSome = true ∧ ting.receiving 1 = true ∧ (tport { aPort with state := .dark }).receiving 1 = false ∧
    { aFlit .write 0#64 [] with dst := 5 }.dst ≠ ting.pkg.device ∧ ting.relayLoad < ting.transitFlits := by decide

/-- `tport` of the port `c` with a reconfiguration at time `t`. -/
def trc (c : Port) (p : RcPhase) (taken : Bool) (t : Nat) : State :=
  { tport c with rc := { (tport c).rc with t := t, phase := p, taken := taken, darkSlots := 1, portMask := 2#16 } }

theorem wit_ReachEvents :
    tb.pkg.linkUp.getLsbD 3 = true ∧ tb.pkg.dieMask.getLsbD 3 = true ∧
    (let s := { tb with time := 100000, pkg := { tb.pkg with retries := [(3, 0)] } }
     s.pkg.retries.any (fun r => r.1 == 3 && r.2 + 100000 ≤ s.time) = true ∧ s.pkg.linkUp.getLsbD 3 = true) ∧
    (let s := (tb.setReg 64 rRcTime 0x100000#64).setReg 64 0x400 1#64
     s.rc.phase = .idle ∧ s.armField 0x1000000#64 = false ∧ s.time + 1000000 ≤ (s.priv rRcTime).toNat) ∧
    ((trc aPort .armed false 100000).rc.phase = .armed ∧ (trc aPort .armed false 100000).time + 65536 < (trc aPort .armed false 100000).rc.t) ∧
    ((trc aPort .armed false 4096).rc.taken = false ∧ (trc aPort .armed false 4096).rc.t ≤ (trc aPort .armed false 4096).time) ∧
    (let s := trc aPort .draining true 4096
     s.rc.portMask.getLsbD 1 = true ∧ s.rc.switched.getLsbD 1 = false ∧ s.rc.t + 256 * 1 ≤ s.time) ∧
    (let s := trc { aPort with state := .dark } .dark true 4096
     s.rc.t + 256 * 1 + 4096 * s.rc.darkSlots ≤ s.time) ∧
    (let s := trc { aPort with state := .relock } .relocking true 4096
     s.time ≤ s.relockBy 1 ∧ { s with time := 9999999 }.relockBy 1 < 9999999 ∧ aPort.lost = [] ∧
       aPort.keys.all (fun k => decide (k.2.2 + 1 < 2 ^ 48 - 1)) = true ∧ (aPortOf (2 ^ 48 - 2)).keys.any (fun k => decide (2 ^ 48 - 1 ≤ k.2.2 + 1)) = true) := by
  decide

theorem wit_PowerEvents :
    (let s := { tq with time := 1000000 }.setQueue 0 0 .reset
     s.pw.pstate = .active ∧ s.pkg.boot = 0x80 ∧ s.isIdle = true ∧ s.pw.idleSince + 1000000 ≤ s.time) ∧
    (let s := { tb with pw := { tb.pw with pstate := .idle, woken := true } }
     s.pw.pstate = .idle ∧ s.pw.woken = true) ∧ tb.pw.woken = false ∧
    tb.time < tb.pw.lastWindow + 1000000 ∧ tb.pw.lastWindow + 1000000 ≤ { tb with time := 1000000 }.time ∧
    tb.pw.capw < 5000 ∧ 97 * tb.pw.capw ≤ 100 * tb.pw.capw ∧ 100 * 0 < 97 * tb.pw.capw ∧ tb.pw.hot = false ∧
    { tb with pw := { tb.pw with holdDie := 1#4 } }.pw.hot = true ∧ hotAt true ≤ 95 ∧ 90 + 5 ≤ hotAt true ∧ tripAt false ≤ 110 ∧
    (tb.ofLid 0 1#32).map Launch.halted = some false ∧ tb.leaving tb.g.ref.crewRef = false := by decide

/-! ### Witnesses: values, frames and steps -/

theorem wit_FloatRules :
    (f32.decode 0x7FC00000).isNan = true ∧ (f32.decode 0x7F800001).signalling = true ∧ f32.decode 0x7F800000 = .inf false ∧
      f32.decode 0xFF800000 = .inf true ∧ (f32.decode 0).isZero = true ∧ f32.decode 0x80000000 = .fin true 0 (-149) ∧
      (f16.decode 0x7C00).isInf = true ∧ (bf16.decode 0x7F80).isInf = true ∧ (-1 : Int) < 0 := by decide

theorem wit_FloatRules_numbers :
    f32.decode 0x3FC00000 = .fin false 12582912 (-23) ∧ f32.decode 0xBF800000 = .fin true 8388608 (-23) ∧ 8388608 = 2 ^ 23 ∧
      (8388608 : Nat) * 2 ^ (-23 : Int).toNat = 1 * 2 ^ (23 : Int).toNat ∧ sourceValue (.taper t8) 0x58 = .fin false 24 (-3) ∧
      sourceValue (.float f32) 0x7F800000 = .inf false ∧ sourceValue (.taper t6) 0x20 = .nan false ∧ classOf .f16 = .float f16 ∧
      classOf .t6 = .taper t6 := by decide

theorem wit_RegisterFrame :
    tb.goes (.plain [.s 1#6, .s 2#6] [.s 3#6]) = true ∧ tb.goes (.plain [.s 1#6] [.s 3#6]) = true ∧
      tb.goes (.plain [.s 1#6, .s 2#6, .s 3#6] [.s 9#6]) = true ∧ tb.goes (.plain [] [.s 3#6]) = true ∧
      tb.goes (.plain (pairRegs 2#5 ++ pairRegs 3#5) (pairRegs 4#5)) = true ∧
      nx (exec (.add 3#6 1#6 2#6) tb) (fun _ => true) = true := by decide

theorem wit_StoreFrame :
    (let u := Uses.switching ([.s 9#6] ++ pairRegs 10#5) []
     tp.goes u = true ∧ good ((tp.begun u).check ((tp.begun u).request .write 4) .store 4 (tp.rdP 10#5 + (0#14).signExtend 64)) (fun l => l.here) = true ∧
       nx (exec (.sstW 9#6 10#5 0#14) tp) (fun _ => true) = true) ∧
    (let u := lmUses h3 false (dataRegs (.v 3#8) .w) []
     let v := t3.begun u
     t3.lmFits h3 [(.v 3#8, 1)] .nw 0 = true ∧ t3.goes u = true ∧
       good (checkLanes (v.g.part h3.guard) (fun n => v.lmCheck false .write .store 4 (v.laneAddress h3.addr n))) (fun ls =>
         ls.all (fun x => x.2.here)) = true) := by decide

/-- `tb` with the words `ws` where the next step fetches. -/
def tw (ws : List Word) : State := State.reset.loadProgram ws

theorem wit_StepRunsDecoded :
    (tw [0x00182100#32]).acts = [] ∧ (tw [0x00182100#32]).pw.pstate ≠ .off ∧ (tw [0x00182100#32]).agenda = [] ∧
      (tw [0x00182100#32]).issuing = true ∧ good (tw [0x00182100#32]).fetch (fun ws => ws == [0x00182100#32]) = true ∧
      isLong 0x00182100#32 = false ∧ isLong 0x80000000#32 = true ∧ (tw []).g.sch.reissue = false ∧
      good (tw [0x80000000#32, 1#32, 2#32]).fetch (fun ws => ws == [0x80000000#32, 1#32, 2#32]) = true ∧
      good (tw [0x2E000000#32]).fetch (fun ws => match decode ws with | .ok _ => false | .error _ => true) = true ∧
      (tb.rdP 10#5).toNat % 4 = 0 ∧ tp.rdP 10#5 ≠ 0#64 ∧
      (match tp.translate { tp.request .fetch 4 with half := tp.g.fetchHalf } (tp.rdP 10#5) with
        | .ok l => l.type != tMmio && (tp.poisonedByte l.bytes).isNone
        | .error _ => false) = true := by decide

theorem wit_StepMemoryOk : State.reset.mem.wf = true ∧ nx (step (tw [0x00182100#32])) (fun _ => true) = true := by decide

theorem wit_DecodeEncode : (Instr.add 3#6 1#6 2#6).wf = true ∧ encode (.add 3#6 1#6 2#6) ≠ [] := by decide

/-! ### Ill-formed terms -/

/-- A header, a memory header, and a WAIT, each with one part to be changed. -/
def hg (g : Guard) (d : Dst) (r : Rpt) : LaHdr := { guard := g, rpt := r, dst := d, lt := 0#2 }
def gp0 : Guard := { neg := false, p := 0#3 }
def mh (x : Hint) (a : LaneAddr) : LmHdr := { guard := gp0, hint := x, addr := a }
def w0 (c : WaitCond) (consume : Bool) : WaitSpec :=
  { all := false, consume := consume, timeout := none, c0 := c, c1 := .unused, c2 := .unused, c3 := .unused }

theorem smoke_guard : (Instr.mov (hg { neg := true, p := 0#3 } (.v 1#8) .x1) (.imm 0#32)).wf = false := by decide
theorem smoke_p0 : (Instr.mov (hg gp0 (.p 0#3) .x1) (.imm 0#32)).wf = false := by decide
theorem smoke_scalar : (Instr.mov (hg gp0 (.s 3#6) .x1) (.imm 0#32)).wf = false := by decide
theorem smoke_space : (Instr.ld (mh .dflt (.base 4#5 .lane .x1 0#17)) .w false (.p 1#3) 0#2).wf = false := by decide
theorem smoke_align : (Instr.iaddD (hg gp0 (.v 3#8) .x1) (.v 2#8) (.imm 0#32)).wf = false := by decide
theorem smoke_range : (Instr.mov (hg gp0 (.v 254#8) .x4) (.imm 0#32)).wf = false := by decide
theorem smoke_repetition : (Instr.plog (hg gp0 (.v 1#8) .x2) 1#3 2#3 3#3 0#8).wf = false := by decide
theorem smoke_source : (Instr.resamp 9#6 1#6 (.s 3#6)).wf = false := by decide
theorem smoke_unused : (Instr.cvt (hg gp0 (.v 1#8) .x1) .f16 .f32 .rn false (.v 1#8) (.v 2#8)).wf = false := by decide
theorem smoke_shift : (Instr.leaD 4#5 5#5 6#6 5#3).wf = false := by decide
theorem smoke_selector : (Instr.satom .fadd 3#6 4#5 5#6).wf = false := by decide
theorem smoke_loop : (Instr.loop 0#5 1#19).wf = false := by decide
theorem smoke_ret : (Instr.jmpr 31#5).wf = false := by decide
theorem smoke_readonly : (Instr.setsr .timeLo 3#6).wf = false ∧ (Instr.csrw .saves 3#5).wf = false := by decide
theorem smoke_token : (Instr.rack 56#6).wf = false ∧ (Instr.rack 0#6).wf = false := by decide
theorem smoke_cas : (Instr.atom (mh .dflt (.base 4#5 .lane .x1 0#17)) .cas .w .nw 0#2 (.v 1#8)).wf = false := by decide
theorem smoke_hint : (Instr.stl (mh .keep (.base 4#5 .lane .x1 0#17)) .w (.v 1#8)).wf = false := by decide
theorem smoke_wait : (Instr.wait 9#6 (w0 .unused false)).wf = false ∧ (Instr.wait 9#6 (w0 (.sem 4#5 0#6) false)).wf = false ∧
    (Instr.wait 9#6 (w0 (.token 3#6) true)).wf = false := by decide

/-! ### Words of the manual, decoded -/

/-- From the tables of chapter 02. -/
theorem decode_chapter02_alu :
    decode [0x00182100#32] = .ok (.add 3#6 1#6 2#6) ∧ decode [0x00412505#32] = .ok (.divS 8#6 9#6 10#6) ∧
    decode [0x0020A020#32] = .ok (.clz 4#6 5#6) ∧ decode [0x0030C39C#32] = .ok (.ror 6#6 6#6 7#6) ∧
    decode [0x10289FFD#32] = .ok (.addi 5#6 4#6 0x1FFD#13) ∧ decode [0x1230C0FF#32] = .ok (.andi 6#6 6#6 0xFF#13) ∧
    decode [0x1828A004#32] = .ok (.shli 5#6 5#6 4#6) ∧ decode [0x1E388060#32] = .ok (.muli 7#6 4#6 96#13) ∧
    decode [0x0230E413#32] = .ok (.bextS 6#6 7#6 8#6 9#6) ∧ decode [0x0628C412#32] = .ok (.fshL 5#6 6#6 8#6 9#6) ∧
    decode [0x08108282#32] = .ok (.cmp .ltS 2#3 4#6 5#6) ∧ decode [0x21488064#32] = .ok (.cmpi .geZ 1#3 4#6 100#13) ∧
    decode [0x0C084180#32] = .ok (.cand 1#3 2#3 3#3) ∧ decode [0x0C084003#32] = .ok (.cnot 1#3 2#3) ∧
    decode [0x0C180004#32] = .ok (.ctos 3#6) ∧ decode [0x0C006005#32] = .ok (.stoc 3#6) ∧
    decode [0x0A514600#32] = .ok (.addD 5#5 5#5 6#5) ∧ decode [0x0A514183#32] = .ok (.shrD 5#5 5#5 3#6) ∧
    decode [0x0A506205#32] = .ok (.mulwS 5#5 3#6 4#6) ∧ decode [0x22410040#32] = .ok (.addiD 4#5 4#5 64#13) ∧
    decode [0x2CA10483#32] = .ok (.leaD 10#5 4#5 9#6 3#3) ∧ decode [0x26A00002#32] = .ok (.addpc 10#5 2#19) :=
  ⟨rfl, rfl, rfl, rfl, rfl, rfl, rfl, rfl, rfl, rfl, rfl, rfl, rfl, rfl, rfl, rfl, rfl, rfl, rfl, rfl, rfl, rfl⟩

theorem decode_chapter02_control :
    decode [0x3037FFFC#32] = .ok (.bc 3#3 0x7FFFC#19) ∧ decode [0x32000003#32] = .ok (.bm 3#19) ∧
    decode [0x34300008#32] = .ok (.bany 3#3 8#19) ∧ decode [0x36180006#32] = .ok (.ballN 1#3 6#19) ∧
    decode [0x38000040#32] = .ok (.jmp 0x40#25) ∧ decode [0x3A000100#32] = .ok (.call 0x100#25) ∧
    decode [0x3C028000#32] = .ok (.jmpr 10#5) ∧ decode [0x3C028001#32] = .ok (.callr 10#5) ∧ decode [0x3C07C000#32] = .ok .ret ∧
    decode [0x3E77FFFB#32] = .ok (.loop 7#5 0x7FFFB#19) ∧ decode [0x48610008#32] = .ok (.sldW 12#6 4#5 8#14) ∧
    decode [0x40190001#32] = .ok (.sldBS 3#6 4#5 1#14) ∧ decode [0x52513FF0#32] = .ok (.sstD 5#5 4#5 0x3FF0#14) ∧
    decode [0x54290300#32] = .ok (.satom .add 5#6 4#5 6#6) ∧ decode [0x54290309#32] = .ok (.satom .cas 5#6 4#5 6#6) ∧
    decode [0x28480000#32] = .ok (.getsr 9#6 .timeLo) ∧ decode [0x2A006006#32] = .ok (.setsr .gStatus 3#6) ∧
    decode [0x2A028008#32] = .ok (.setsr .tvecLo 20#6) ∧ decode [0x60000005#32] = .ok (.trap 5#19) ∧ decode [0x64000000#32] = .ok .yield :=
  ⟨rfl, rfl, rfl, rfl, rfl, rfl, rfl, rfl, rfl, rfl, rfl, rfl, rfl, rfl, rfl, rfl, rfl, rfl, rfl, rfl⟩

/-- From the tables of chapters 01, 04 and 05. -/
theorem decode_lanes :
    decode [0x80020000#32, 0x00C80200#32, 0x00800000#32] =
      .ok (.iadd { guard := { neg := false, p := 2#3 }, rpt := .x1, dst := .v 3#8, lt := 1#2 } (.v 1#8) (.reg (.v 2#8))) ∧
    decode [0x80400000#32, 0x01400200#32, 0x00803000#32] = .ok (.imad (hd (.v 5#8)) (.v 1#8) (.v 2#8) (.v 3#8)) ∧
    decode [0x88300009#32, 0x02000200#32, 0x00803000#32] =
      .ok (.ffma (hd (.v 8#8)) .f16x2 .rz false false (.v 1#8) (.v 2#8) (.v 3#8)) ∧
    decode [0x82808002#32, 0x80C00200#32, 0x0000000A#32] = .ok (.icmp (hd (.p 3#3)) .ltS (.v 1#8) (.imm 10#32)) ∧
    decode [0x81F00000#32, 0x01800200#32, 0x00803000#32] = .ok (.iperm (hd (.v 6#8)) (.v 1#8) (.v 2#8) (.v 3#8)) ∧
    decode [0x94108003#32, 0x01000E04#32, 0x00000001#32] = .ok (.swz (hd (.v 4#8)) .flip .w32 (.v 7#8) (.imm 1#32)) ∧
    decode [0x94200006#32, 0xC2440200#32, 0#32] = .ok (.poll (hd (.s 9#6)) (.mask 1#2) (.l 1#2)) ∧
    decode [0x945000D1#32, 0x810000E8#32, 0#32] = .ok (.plog (hd (.p 4#3)) 1#3 2#3 3#3 0xE8#8) ∧
    decode [0x94008000#32, 0x01400000#32, 0x3F800000#32] = .ok (.mov (hd (.v 5#8)) (.imm 0x3F800000#32)) ∧
    decode [0x90000014#32, 0x01400200#32, 0#32] = .ok (.cvt (hd (.v 5#8)) .t8 .f32 .rn false (.v 1#8) (.v 0#8)) ∧
    decode [0x9000001C#32, 0x01800200#32, 0x00800000#32] = .ok (.cvt (hd (.v 6#8)) .f16x2 .f32 .rn false (.v 1#8) (.v 2#8)) ∧
    decode [0x9000011A#32, 0x01000200#32, 0#32] = .ok (.cvt (hd (.v 4#8)) .s32 .f32 .rz false (.v 1#8) (.v 0#8)) ∧
    decode [0x90100014#32, 0x01C00200#32, 0xC2400000#32] = .ok (.cvtbApply (hd (.v 7#8)) .t8 .f32 .rn (.v 1#8) (.reg (.s 9#6))) ∧
    decode [0x90100414#32, 0x02000200#32, 0#32] = .ok (.cvtbScale (hd (.v 8#8)) .t8 (.v 1#8)) :=
  ⟨rfl, rfl, rfl, rfl, rfl, rfl, rfl, rfl, rfl, rfl, rfl, rfl, rfl, rfl⟩

/-- From the tables of chapter 08. -/
theorem decode_lane_memory :
    decode [0xA0000800#32, 0x00C00400#32, 0x20000005#32] = .ok (.ld (mh .dflt (.base 4#5 (.v 2#8) .x1 5#17)) .b true (.v 3#8) 0#2) ∧
    decode [0xA000C000#32, 0x02000C00#32, 0x00000020#32] = .ok (.ld (mh .dflt (.pair (.v 6#8) 32#17)) .q false (.v 8#8) 0#2) ∧
    decode [0xA0103300#32, 0x00000400#32, 0x200C0000#32] = .ok (.st (mh .dflt (.base 4#5 (.v 2#8) .x8 0#17)) .d (.v 6#8)) ∧
    decode [0xA0102260#32, 0x00000400#32, 0x26120000#32] = .ok (.st (mh .noalloc (.base 4#5 (.v 2#8) .x4 0#17)) .w (.s 9#6)) ∧
    decode [0xA0200000#32, 0x01400200#32, 0x20000000#32] = .ok (.ldf (mh .dflt (.base 4#5 (.v 1#8) .x1 0#17)) 0#2 (.v 5#8) 0#2) ∧
    decode [0xA0208003#32, 0x01400C00#32, 0#32] = .ok (.ldf (mh .dflt (.pair (.v 6#8) 0#17)) 3#2 (.v 5#8) 0#2) ∧
    decode [0xA0300000#32, 0x00000200#32, 0x200A0000#32] = .ok (.stf (mh .dflt (.base 4#5 (.v 1#8) .x1 0#17)) 0#2 (.v 5#8)) ∧
    decode [0xA0402200#32, 0x01C00400#32, 0x20060000#32] =
      .ok (.atom (mh .dflt (.base 4#5 (.v 2#8) .x4 0#17)) .add .w (.v 7#8) 0#2 (.v 3#8)) ∧
    decode [0xA040B009#32, 0x02800C00#32, 0x00180000#32] = .ok (.atom (mh .dflt (.pair (.v 6#8) 0#17)) .cas .d (.v 10#8) 0#2 (.v 12#8)) ∧
    decode [0xA040220A#32, 0x00200400#32, 0x20060000#32] = .ok (.atom (mh .dflt (.base 4#5 (.v 2#8) .x4 0#17)) .fadd .w .nw 0#2 (.v 3#8)) ∧
    decode [0xA0802200#32, 0x01000200#32, 0x00000040#32] = .ok (.ldl (mh .dflt (.base 0#5 (.v 1#8) .x4 64#17)) .w false (.v 4#8) 0#2) ∧
    decode [0xA0902200#32, 0x00000200#32, 0x00060000#32] = .ok (.stl (mh .dflt (.base 0#5 (.v 1#8) .x4 0#17)) .w (.v 3#8)) ∧
    decode [0xA0A02200#32, 0x01C00200#32, 0x060A0000#32] =
      .ok (.atoml (mh .dflt (.base 0#5 (.v 1#8) .x4 0#17)) .add .w (.v 7#8) 0#2 (.s 5#6)) ∧
    decode [0xA1004400#32, 0x00000414#32, 0x28100000#32] = .ok (.ldx (mh .dflt (.base 5#5 (.v 2#8) .x16 0#17)) .q (.v 8#8) 10#5) :=
  ⟨rfl, rfl, rfl, rfl, rfl, rfl, rfl, rfl, rfl, rfl, rfl, rfl, rfl, rfl⟩

/-- From the tables of chapters 11 to 14 and 17. -/
theorem decode_engines :
    decode [0xC0000000#32, 0x25458000#32, 0#32] = .ok (.copy false .dflt .noFlag 9#6 10#5 11#5) ∧
    decode [0xC0000003#32, 0x25459800#32, 0x14000000#32] = .ok (.copy true .dflt (.sem 12#5 5#6) 9#6 10#5 11#5) ∧
    decode [0xC000000C#32, 0x25459800#32, 0x68000000#32] = .ok (.copy false .stream (.word 12#5 13#5) 9#6 10#5 11#5) ∧
    decode [0xC1004004#32, 0x01400000#32, 0#32] = .ok (.mls 1#2 .t6 0#6 10#5) ∧ decode [0xC1100000#32, 0#32, 0#32] = .ok (.msw 0#2 0#6) ∧
    decode [0xC1200A01#32, 0x01A00000#32, 0#32] = .ok (.mst 0#2 1#3 false true .f16 0#6 13#5 0#6) ∧
    decode [0xC130D400#32, 0x25400010#32, 0#32] = .ok (.mdr 3#2 2#3 true false .f32 9#6 10#5 16#6) ∧
    decode [0xC140B800#32, 0x24000000#32, 0#32] = .ok (.mza 2#2 7#3 9#6) ∧
    decode [0xC1505A03#32, 0x31400020#32, 0#32] = .ok (.mred 1#2 3#3 false true .t8 12#6 10#5 32#6) ∧
    decode [0xC2000000#32, 0x25400000#32, 0#32] = .ok (.dcnt 9#6 10#5) ∧ decode [0xC2100000#32, 0x29400000#32, 0#32] = .ok (.dplan 10#6 10#5) ∧
    decode [0xC2400003#32, 0x3D400000#32, 0#32] = .ok (.dstat .ndrop 15#6 10#5) ∧
    decode [0xC2400005#32, 0x31414000#32, 0#32] = .ok (.dstat (.fill 5#6) 12#6 10#5) ∧
    decode [0xC3100000#32, 0x25458000#32, 0#32] = .ok (.pseed 9#6 10#5 11#5) ∧
    decode [0xC3100001#32, 0x00D00000#32, 0#32] = .ok (.pseedDirect 0#6 13#6) ∧
    decode [0xC4300000#32, 0x29C00000#32, 0#32] = .ok (.locq 10#6 14#5) ∧ decode [0xC4300001#32, 0x24000000#32, 0#32] = .ok (.locqSelf 9#6) :=
  ⟨rfl, rfl, rfl, rfl, rfl, rfl, rfl, rfl, rfl, rfl, rfl, rfl, rfl, rfl, rfl, rfl, rfl⟩

/-- From the tables of chapters 07, 10, 15 and 16. -/
theorem decode_system :
    decode [0xE1200019#32, 0x24C50098#32, 0#32] = .ok (.wait 9#6
      { all := false, consume := false, timeout := some 12#5, c0 := .token 12#6, c1 := .time 10#5, c2 := .unused, c3 := .unused }) ∧
    decode [0xE1208002#32, 0x254000D8#32, 0x00000002#32] = .ok (.wait 9#6
      { all := true, consume := true, timeout := some 12#5, c0 := .sem 10#5 2#6, c1 := .unused, c2 := .unused, c3 := .unused }) ∧
    decode [0xE0200000#32, 0x25400000#32, 0#32] = .ok (.acq 9#6 10#5 none) ∧
    decode [0xE0200000#32, 0x25460080#32, 0#32] = .ok (.acq 9#6 10#5 (some 12#5)) ∧
    decode [0xE0200001#32, 0x25400000#32, 0#32] = .ok (.acqObs 9#6 10#5) ∧ decode [0xE0400003#32, 0#32, 0#32] = .ok (.fence .system) ∧
    decode [0xE2100000#32, 0x28000001#32, 0#32] = .ok (.csrr 5#5 .saves) ∧ decode [0xE2200000#32, 0x00C00004#32, 0#32] = .ok (.csrw .drainEst 6#5) ∧
    decode [0xE2400000#32, 0x25415600#32, 0#32] = .ok (.swapk 9#6 10#5 5#6 11#5) ∧ decode [0xE2800000#32, 0x24A00000#32, 0#32] = .ok (.snap 9#6 10#6) :=
  ⟨rfl, rfl, rfl, rfl, rfl, rfl, rfl, rfl, rfl, rfl⟩

/-- Reserved opcodes and patterns are refused (R17, R19, R20, R23, R28). -/
theorem decode_refuses :
    (match decode [0x2E000000#32] with | .ok _ => false | .error _ => true) = true ∧
    (match decode [0x00000016#32] with | .ok _ => false | .error _ => true) = true ∧
    (match decode [0x80080000#32, 0#32, 0#32] with | .ok _ => false | .error _ => true) = true ∧
    (match decode [0x80000000#32, 0x80000000#32, 0#32] with | .ok _ => false | .error _ => true) = true ∧
    (match decode [0xE2300001#32, 0#32, 0#32] with | .ok _ => false | .error _ => true) = true ∧
    (match decode [] with | .ok _ => false | .error _ => true) = true := by decide

/-! ### Small steps -/

/-- The value of s3 after the one word `w`, with two registers set first. -/
def after (w : Word) (a b : SReg) (x y : Word) (r : SReg) : Option Word :=
  match step (((tw [w]).wr a x).wr b y) with
  | .next t => some (t.rd r)
  | .fault _ | .refused _ => none

/-- The worked values of chapter 02. -/
theorem test_div : after 0x00412505#32 9#6 10#6 0xFFFFFFF9#32 2#32 8#6 = some 0xFFFFFFFD#32 := by decide
theorem test_clz : after 0x0020A020#32 5#6 6#6 0x00010000#32 0#32 4#6 = some 15#32 := by decide
theorem test_mulw : after 0x0A506205#32 3#6 4#6 0xFFFFFFFF#32 2#32 10#6 = some 0xFFFFFFFE#32 := by decide
theorem test_discard : after 0x00002100#32 1#6 2#6 5#32 6#32 0#6 = some 0#32 := by decide
theorem test_loop : nx (step ((tw [0x3E77FFFB#32]).wr 7#6 2#32)) (fun t => t.rd 7#6 == 1#32 && t.g.sc.pc == programCode - 20#64) = true := by
  decide
theorem test_call : nx (step (tw [0x3A000100#32])) (fun t => t.g.sc.pc == programCode + 1024#64 && t.rdP 31#5 == programCode + 4#64) = true := by
  decide
theorem test_trap_without_vector : nx (step (tw [0x60000005#32])) (fun t => t.records.length == 1 && t.g.sc.pc == programCode) = true := by decide
theorem test_illegal : nx (step (tw [0x2E000000#32])) (fun t => (t.myLaunch?.bind Launch.firstKill).isSome) = true := by decide
theorem test_store : nx (step (((tw [0x502A8000#32]).wrP 10#5 (programCode + 0x100#64)).wr 5#6 7#32)) (fun t =>
    t.mem.get 0x20100 == 7#8) = true := by decide
theorem test_iadd : nx (exec (.iadd (hd (.v 3#8)) .lane (.imm 5#32)) tb) (fun t =>
    laneAt (t.g.la.vreg 3) 95 == 100#32 && t.g.sc.pc == programCode + 12#64) = true := by decide
theorem test_decode_table : (decodeTableWord 32 0x00182100) = some (.add 3#6 1#6 2#6) := rfl
theorem test_fetch_word : good (State.reset.withFetchWord 96 0x80000000).fetch (fun ws => ws == [0x80000000#32, 0#32, 0#32]) = true := by decide

end Sys2Proof.Tests
end

section
/-! SUPPORT. How a read of a register sees a write of a pair, the PC and live mask under a register write (02 R44 to R46), and how
a scalar word reaches its opcode's parser (01 R15, R19). -/

namespace Sys2Proof.Machine

/-! ### Register pairs (02 R45) -/

@[simp] theorem pairLo_bit_zero (p : Pair) : (pairLo p).extractLsb' 0 1 = 0#1 := BitVec.extractLsb'_append_eq_right

@[simp] theorem pairHi_bit_zero (p : Pair) : (pairHi p).extractLsb' 0 1 = 1#1 := BitVec.extractLsb'_append_eq_right

/-- The high register of a pair has an odd number, so it is not s0. -/
theorem pairHi_ne_zero (p : Pair) : pairHi p ≠ 0#6 := fun h =>
  absurd (pairHi_bit_zero p) (by rw [h]; decide)

theorem pairHi_ne_pairLo (p : Pair) : pairHi p ≠ pairLo p := fun h =>
  absurd (pairHi_bit_zero p) (by rw [h, pairLo_bit_zero]; decide)

@[simp] theorem State.rd_zero (s : State) : s.rd 0#6 = 0#32 := rfl

@[simp] theorem State.wr_live (s : State) (r : SReg) (w : Word) : (s.wr r w).g.la.live = s.g.la.live := by
  simp only [State.wr, State.modG, Gang.wr]
  split <;> rfl

@[simp] theorem State.wr_pc (s : State) (r : SReg) (w : Word) : (s.wr r w).g.sc.pc = s.g.sc.pc := by
  simp only [State.wr, State.modG, Gang.wr]
  split <;> rfl

/-- The low register is written first, then the high one. -/
theorem State.wrP_eq_wr_wr (s : State) (p : Pair) (v : DWord) :
    s.wrP p v = (s.wr (pairLo p) (v.extractLsb' 0 32)).wr (pairHi p) (v.extractLsb' 32 32) := by
  simp only [State.wrP, State.wr, State.modG, Gang.wrP, Gang.wr, pairHi_ne_zero, if_false]

/-- Each register of the pair reads as after a write of its own half (R45, R75), and every other one as before. -/
@[simp] theorem State.wrP_rd (s : State) (p : Pair) (v : DWord) (r : SReg) :
    (s.wrP p v).rd r =
      if r = pairLo p ∨ r = pairHi p then
        (s.wr r (if r = pairLo p then v.extractLsb' 0 32 else v.extractLsb' 32 32)).rd r
      else s.rd r := by
  rw [State.wrP_eq_wr_wr]
  by_cases h0 : r = 0#6
  · subst h0
    simp
  · by_cases hhi : r = pairHi p
    · subst hhi
      simp [h0, pairHi_ne_pairLo]
    · by_cases hlo : r = pairLo p
      · subst hlo
        simp [h0, hhi]
      · simp [h0, hhi, hlo]

/-! ### The PC -/

theorem State.advance_eq_setPc (s : State) (n : Nat) : s.advance n = s.setPc (s.g.sc.pc + BitVec.ofNat 64 n) := rfl

end Sys2Proof.Machine

namespace Sys2Proof

/-! ### Scalar words (01 R15) -/

@[simp] theorem FmtR.isLong_pack (f : FmtR) : isLong f.pack = false := by
  rw [isLong, FmtR.pack, BitVec.getLsbD_append]
  rfl

@[simp] theorem FmtB.isLong_pack (f : FmtB) : isLong f.pack = false := by
  rw [isLong, FmtB.pack, BitVec.getLsbD_append]
  rfl

@[simp] theorem FmtR.pack_opcode (f : FmtR) : f.pack.extractLsb' 25 6 = f.op := congrArg FmtR.op f.unpack_pack

@[simp] theorem FmtB.pack_opcode (f : FmtB) : f.pack.extractLsb' 25 6 = f.op := congrArg FmtB.op f.unpack_pack

theorem FmtR.append_eq_pack (op sd sa sb : BitVec 6) (fn : BitVec 7) :
    0#1 ++ op ++ sd ++ sa ++ sb ++ fn = FmtR.pack ⟨op, sd, sa, sb, fn⟩ := by
  simp only [FmtR.pack, BitVec.append_assoc, BitVec.cast_eq]

theorem FmtB.append_eq_pack (op : BitVec 6) (sel : BitVec 5) (n : BitVec 1) (off : BitVec 19) :
    0#1 ++ op ++ sel ++ n ++ off = FmtB.pack ⟨op, sel, n, off⟩ := by
  simp only [FmtB.pack, BitVec.append_assoc, BitVec.cast_eq]

/-- A word whose bit 31 is clear decodes to the instruction that the scalar parser reads, where that breaks no rule (R12, R37). -/
theorem decode_scalar {w : Word} {i : Instr} (hlen : isLong w = false) (hparse : parseScalar w = .ok i)
    (hdef : i.defect = none) : decode [w] = .ok i := by
  simp [decode, hlen, checked, hparse, hdef, Except.bind]

/-- Opcode 0x07 is SEL (R19). -/
theorem parseScalar_sel {w : Word} (h : w.extractLsb' 25 6 = 0x07#6) : parseScalar w = parseSel (.unpack w) := by
  simp [parseScalar, h]

/-- Opcode 0x1F is LOOP (R19). -/
theorem parseScalar_loop {w : Word} (h : w.extractLsb' 25 6 = 0x1F#6) :
    parseScalar w = zeroThen (FmtB.unpack w).n (.ok (.loop (FmtB.unpack w).sel (FmtB.unpack w).off)) := by
  simp [parseScalar, h]

end Sys2Proof
end

section
/-! PROOF. SEL (02 R61): what it does and the words that encode it. -/

namespace Sys2Proof.Machine

/-- SEL answers with the register that its condition bit names. -/
theorem exec_sel_of_goes {s : State} (d : SReg) (k : CReg) (a b : SReg) (h : s.goes (.plain [.s a, .s b] [.s d]) = true) :
    exec (.sel d k a b) s =
      .next (((s.begun (.plain [.s a, .s b] [.s d])).wr d (if s.cond k then s.rd a else s.rd b)).advance 4) :=
  calc exec (.sel d k a b) s = execSel d k a b s := rfl
    _ = _ := by rw [execSel, issue'_of_goes h, State.begun_cond, State.begun_rd, State.begun_rd]

theorem decode_sel (d : SReg) (k : CReg) (a b : SReg) :
    decode [0#1 ++ 0x07#6 ++ d ++ a ++ b ++ 0#4 ++ k] = .ok (.sel d k a b) := by
  have hword : 0#1 ++ 0x07#6 ++ d ++ a ++ b ++ 0#4 ++ k = FmtR.pack ⟨0x07#6, d, a, b, 0#4 ++ k⟩ := by
    rw [← FmtR.append_eq_pack, BitVec.append_assoc, BitVec.cast_eq]
  rw [hword]
  refine decode_scalar (FmtR.isLong_pack _) ?_ rfl
  rw [parseScalar_sel (FmtR.pack_opcode _), FmtR.unpack_pack, parseSel, BitVec.extractLsb'_append_eq_left,
    BitVec.extractLsb'_append_eq_right]
  rfl

/-- Settles O5: an instruction that goes is its own effect, and the example's word is one of the encoded words. -/
theorem selectRule : Obligations.SelectRule := by
  unfold Obligations.SelectRule
  exact ⟨fun _ d k a b h => exec_sel_of_goes d k a b h, decode_sel, decode_sel 3#6 4#3 1#6 2#6⟩

end Sys2Proof.Machine
end

section
/-! PROOF. Writes of registers and pairs (02 R44 to R46). -/

namespace Sys2Proof.Machine

/-- Settles O7: a pair's halves each read as a write of that register alone, and s0 reads as zero whatever is written. -/
theorem registerWriteRule : Obligations.RegisterWriteRule := by
  unfold Obligations.RegisterWriteRule
  intro s d r w p v
  refine ⟨s.rd_zero, ?write, rfl, s.wrP_rd p v r, rfl, ?high, ?low⟩
  case write =>
    rw [State.wr_rd]
    by_cases hd : r = d
    · subst hd
      rfl
    · simp only [hd, if_false]
  case high =>
    simp [pairLo, pairHi, storedWord]
  case low => exact State.rd_zero _

end Sys2Proof.Machine
end

section
/-! PROOF. LOOP (02 R68): what it does and the words that encode it. -/

namespace Sys2Proof.Machine

/-- What LOOP reads and writes: it is a switch point where it branches (R64). -/
def State.loopUses (s : State) (k : BitVec 5) : Uses :=
  { reads := [.s (loopReg k)], writes := [.s (loopReg k)], switch := s.rd (loopReg k) - 1#32 != 0#32, point := false }

/-- LOOP writes the counter less one, and its next PC is the target exactly where that is not zero. -/
theorem exec_loop_of_goes {s : State} (k : BitVec 5) (o : BitVec 19) (h : s.goes (s.loopUses k) = true) :
    exec (.loop k o) s = .next (((s.begun (s.loopUses k)).wr (loopReg k) (s.rd (loopReg k) - 1#32)).setPc
      (if s.rd (loopReg k) - 1#32 = 0#32 then s.g.sc.pc + 4#64 else relTarget s.g.sc.pc o)) :=
  calc exec (.loop k o) s
      = s.issue' (s.loopUses k) (fun t =>
          let t1 := t.wr (loopReg k) (s.rd (loopReg k) - 1#32)
          if s.rd (loopReg k) - 1#32 = 0#32 then t1.advance 4 else t1.setPc (relTarget t.g.sc.pc o)) := rfl
    _ = _ := by
      rw [issue'_of_goes h, State.begun_sc]
      split
      · rw [State.advance_eq_setPc, State.wr_pc, State.begun_sc]
      · rfl

theorem decode_loop {k : BitVec 5} (hk : k ≠ 0#5) (o : BitVec 19) :
    decode [0#1 ++ 0x1F#6 ++ k ++ 0#1 ++ o] = .ok (.loop k o) := by
  rw [FmtB.append_eq_pack]
  refine decode_scalar (FmtB.isLong_pack _) ?parse ?defect
  case parse =>
    rw [parseScalar_loop (FmtB.pack_opcode _), FmtB.unpack_pack]
    rfl
  case defect =>
    simp [Instr.defect, need, hk]

/-- Settles O9: an instruction that goes is its own effect, and 0 less 1 is all ones modulo 2^32. -/
theorem loopRule : Obligations.LoopRule := by
  unfold Obligations.LoopRule
  intro s k o hk
  refine ⟨decode_loop hk o, fun h0 => ?wrap, exec_loop_of_goes k o⟩
  case wrap =>
    rw [h0]
    rfl

end Sys2Proof.Machine
end
